-- ==== Sys2Proof/Word.lean ====
section
/-! DEFINITION. The word types: an octet (one highway slot, one link octet, one flash octet) and a code nibble. -/

namespace Sys2Proof

/-- Eight bits: the unit of the highway, of link frames and of flash pages (00_scope.md, 0.4). -/
abbrev Octet := BitVec 8

/-- The index of a room record, 0–2,047 (R22). -/
abbrev RoomIx := Fin 2048

/-- The number of a voice channel, VC0–VC31 (R41). -/
abbrev ChannelIx := Fin 32

/-- The number of a trunk, 0–255 (R4). -/
abbrev TrunkIx := Fin 256

/-- The number of a meter record, 0–63 (R144). -/
abbrev MeterIx := Fin 64

/-- The number of a room class, 0–15 (R35). -/
abbrev ClassIx := Fin 16

/-- A prompt identity, 0–31 (R46). -/
abbrev PromptId := Fin 32

end Sys2Proof
end

