-- ==== Sys2Proof/Syntax.lean ====
section
/-! DEFINITION. The commands: one constructor of `Instr` per row of spec/opcode_table.json. A row is a whole step of the
part (95_what_each_step_holds.md): a highway frame, an event of the exchange, a management command, a timer or limit
reached, a flash completion, or the reset pin. -/

namespace Sys2Proof

/-- The purpose octet of a DIVERT (R17). -/
inductive Purpose where
  | deposit | retrieve | notice
deriving DecidableEq, Repr

/-- The key octet of a KEY frame (R17). -/
inductive Key where
  | digit (d : Fin 10) | star | hash
deriving DecidableEq, Repr

/-- The result octet of a LAMP_SENSE frame (R17). -/
inductive Sense where
  | ok | openLine | short | absent
deriving DecidableEq, Repr

/-- What a flash read gives the port when it completes: a failing status, the 512 data octets of a READ_PAGE, or the 16
spare octets of a READ_SPARE (R93, R94). -/
inductive FlashRead where
  | fail
  | page (data : Vector Octet 512)
  | spare (data : Vector Octet 16)
deriving DecidableEq, Repr

/-- The commands. A management command carries its TAG and the payload octets that follow the TAG (for LOAD_TABLE, those
that follow the table number), so that its length checks and field layouts (R19) are the model's own. -/
inductive Instr where
  /-- HIGHWAY_FRAME (R1): the octets HIN carries in the slots reached before the next HFS, slot 0 first. -/
  | highwayFrame (hin : List Octet)
  /-- SYNC_WINDOW_END (R7). -/
  | syncWindowEnd
  /-- TICK (R5). -/
  | tick
  /-- DEVICE_RESET (R187): power-on, or RESET goes low. -/
  | deviceReset
  /-- PORT_START_END (R95). -/
  | portStartEnd
  /-- SEIZE_OUT (R146). -/
  | seizeOut (trunk : TrunkIx) (extension : Nat)
  /-- DIGIT (R151). -/
  | digit (trunk : TrunkIx) (digits : List Nat)
  /-- ANSWERED (R156). -/
  | answered (trunk : TrunkIx)
  /-- TIMED_ANSWER_EXPIRY (R148). -/
  | timedAnswerExpiry (meter : MeterIx)
  /-- UNIT_BOUNDARY (R157). -/
  | unitBoundary (meter : MeterIx)
  /-- CLEARED (R158). -/
  | cleared (trunk : TrunkIx)
  /-- HOOK (R131). -/
  | hook (extension : Nat) (offHook : Bool)
  /-- DIVERT (R43). -/
  | divert (slot : Octet) (extension : Nat) (purpose : Purpose)
  /-- SLOT_CLEAR (R62). -/
  | slotClear (slot : Octet)
  /-- KEY (R47). -/
  | key (slot : Octet) (k : Key)
  /-- LAMP_SENSE (R137). -/
  | lampSense (extension : Nat) (result : Sense)
  /-- SPEECH_FRAME_END (R74). -/
  | speechFrameEnd (channel : ChannelIx)
  /-- MAX_LENGTH_REACHED (R76). -/
  | maxLengthReached (channel : ChannelIx)
  /-- NO_VOICE_TIMEOUT (R76). -/
  | noVoiceTimeout (channel : ChannelIx)
  /-- MENU_TIMER_EXPIRY (R56). -/
  | menuTimerExpiry (channel : ChannelIx)
  /-- SWEEP (R133). -/
  | sweep
  /-- ARBITER_CHOICE (R96). -/
  | arbiterChoice
  /-- PROGRAM_COMPLETE (R85), with the status read. -/
  | programComplete (pass : Bool)
  /-- HELD_PROGRAM_COMPLETE (R108), with the status read. -/
  | heldProgramComplete (pass : Bool)
  /-- READ_COMPLETE (R90), with the status and data read. -/
  | readComplete (result : FlashRead)
  /-- HELD_READ_COMPLETE (R92), with the status and data read. -/
  | heldReadComplete (result : FlashRead)
  /-- ERASE_COMPLETE (R101), with the status read. -/
  | eraseComplete (pass : Bool)
  /-- MARK_COMPLETE (R111), with the status read. -/
  | markComplete (pass : Bool)
  /-- MOUNT_READ_COMPLETE (R118), with the status and spare octets read. -/
  | mountReadComplete (result : FlashRead)
  /-- PROMPT_ERASE_COMPLETE (R126), with the status read. -/
  | promptEraseComplete (pass : Bool)
  /-- PROMPT_PROGRAM_COMPLETE (R124), with the status read. -/
  | promptProgramComplete (pass : Bool)
  /-- PROMPT_READ_COMPLETE (R125), with the status and octets read. -/
  | promptReadComplete (result : FlashRead)
  /-- FLASH_TIMEOUT (R94). -/
  | flashTimeout
  /-- PORT_RECOVERY_END (R94). -/
  | portRecoveryEnd
  /-- REPLY_ENTRY (R15). -/
  | replyEntry
  /-- FETCH_CHARGES_ENTRY (R167). -/
  | fetchChargesEntry
  /-- QUERY_STATUS (R186). -/
  | queryStatus (tag : Octet) (fields : List Octet)
  /-- START_SERVICE (R181). -/
  | startService (tag : Octet) (fields : List Octet)
  /-- SUSPEND (R182). -/
  | suspend (tag : Octet) (fields : List Octet)
  /-- CLEAR_ATTENTION (R185). -/
  | clearAttention (tag : Octet) (fields : List Octet)
  /-- SET_CLOCK (R6). -/
  | setClock (tag : Octet) (fields : List Octet)
  /-- LOAD_TABLE_CLASS (R35): LOAD_TABLE with table 1; `fields` follow the table number. -/
  | loadTableClass (tag : Octet) (fields : List Octet)
  /-- LOAD_TABLE_PREFIX (R150): LOAD_TABLE with table 2. -/
  | loadTablePrefix (tag : Octet) (fields : List Octet)
  /-- LOAD_TABLE_BAND (R152): LOAD_TABLE with table 3. -/
  | loadTableBand (tag : Octet) (fields : List Octet)
  /-- LOAD_TABLE_SCHEDULE (R153): LOAD_TABLE with table 4. -/
  | loadTableSchedule (tag : Octet) (fields : List Octet)
  /-- LOAD_TABLE_PARAMETERS (R74): LOAD_TABLE with table 5. -/
  | loadTableParameters (tag : Octet) (fields : List Octet)
  /-- LOAD_ROOM (R33). -/
  | loadRoom (tag : Octet) (fields : List Octet)
  /-- CHECK_IN (R28). -/
  | checkIn (tag : Octet) (fields : List Octet)
  /-- CHECK_OUT (R29). -/
  | checkOut (tag : Octet) (fields : List Octet)
  /-- SET_CREDIT (R173). -/
  | setCredit (tag : Octet) (fields : List Octet)
  /-- POST_PAYMENT (R174). -/
  | postPayment (tag : Octet) (fields : List Octet)
  /-- UNBAR (R175). -/
  | unbar (tag : Octet) (fields : List Octet)
  /-- DESK_FLAG (R38). -/
  | deskFlag (tag : Octet) (fields : List Octet)
  /-- DELETE_MESSAGES (R39). -/
  | deleteMessages (tag : Octet) (fields : List Octet)
  /-- QUERY_ROOM (R40). -/
  | queryRoom (tag : Octet) (fields : List Octet)
  /-- RESET_CHANNEL (R63). -/
  | resetChannel (tag : Octet) (fields : List Octet)
  /-- LOAD_EXPANSION (R68). -/
  | loadExpansion (tag : Octet) (fields : List Octet)
  /-- SET_GEOMETRY (R82). -/
  | setGeometry (tag : Octet) (fields : List Octet)
  /-- MOUNT (R117). -/
  | mount (tag : Octet) (fields : List Octet)
  /-- QUERY_STORE (R116). -/
  | queryStore (tag : Octet) (fields : List Octet)
  /-- PROMPT_ERASE (R126). -/
  | promptErase (tag : Octet) (fields : List Octet)
  /-- PROMPT_PAGE (R123). -/
  | promptPage (tag : Octet) (fields : List Octet)
  /-- PROMPT_COMMIT (R124). -/
  | promptCommit (tag : Octet) (fields : List Octet)
  /-- PROMPT_VERIFY (R125). -/
  | promptVerify (tag : Octet) (fields : List Octet)
  /-- PROMPT_BLANK (R125). -/
  | promptBlank (tag : Octet) (fields : List Octet)
  /-- PROMPT_DIR (R122). -/
  | promptDir (tag : Octet) (fields : List Octet)
  /-- LAMP_FORCE (R139). -/
  | lampForce (tag : Octet) (fields : List Octet)
  /-- LAMP_RESUME (R140). -/
  | lampResume (tag : Octet) (fields : List Octet)
  /-- LAMP_RESYNC (R141). -/
  | lampResync (tag : Octet) (fields : List Octet)
  /-- LOAD_TRUNK (R4). -/
  | loadTrunk (tag : Octet) (fields : List Octet)
  /-- FETCH_CHARGES (R167). -/
  | fetchCharges (tag : Octet) (fields : List Octet)
  /-- RELEASE_CHARGES (R168). -/
  | releaseCharges (tag : Octet) (fields : List Octet)
  /-- RESET_RELEASE (R187): RESET returns high. -/
  | resetRelease
deriving DecidableEq, Repr

end Sys2Proof
end

