-- ==== Sys2Proof/Decode.lean ====
section
/-! DEFINITION. The table spells no command by a word: no row of spec/opcode_table.json has a bit (its "fields" are all
empty), so no word reads as a command. The octets of link frames are read by the framers of Machine/Highway.lean. -/

namespace Sys2Proof

/-- The command that a table word spells: none, because no row of the table gives bits. -/
def decodeTableWord (_nbits _w : Nat) : Option Instr := none

end Sys2Proof
end

