-- ==== Sys2Proof/Config.lean ====
section
/-! DEFINITION. The capacities and limits the manual fixes for every VH-2048 (00_scope.md, 0.3 and the rules cited).
The manual leaves no value of a register or result open, so this file holds no free value. -/

namespace Sys2Proof.Config

/-- Entries of the outbound link queue (R14). -/
def outboundEntries : Nat := 64
/-- Free outbound entries a lamp frame needs (R15). -/
def lampReserve : Nat := 32
/-- Highway frames in a second (R5). -/
def framesPerSecond : Nat := 8000
/-- Seconds in a day (R5). -/
def secondsPerDay : Nat := 86400
/-- The missing-sync count at which the highway is declared lost (R7). -/
def lossCount : Nat := 16
/-- Largest extension number (R22). -/
def maxExtension : Nat := 999999
/-- Largest balance, credit limit, payment and exposure (R22, R26). -/
def maxBalance : Nat := 9999999
/-- Largest base, provisional charge and final charge of a call (R154, R160). -/
def maxCharge : Nat := 999999
/-- Largest unit count of a meter (R157). -/
def maxUnits : Nat := 16777215
/-- Records of the charge queue, and the bound of the admission sum (R163, R165). -/
def chargeRecords : Nat := 256
/-- The fill at which CHARGES_HIGH is placed (R164). -/
def chargesHigh : Nat := 224
/-- Dialled digits a meter keeps (R144). -/
def dialledDigits : Nat := 20
/-- Messages the directory holds (R102). -/
def maxMessages : Nat := 8192
/-- Entries of a message's block list (R102). -/
def maxBlocks : Nat := 320
/-- The largest serial, at which no further message is created (R103). -/
def maxSerial : Nat := 4294967295
/-- Voice frames below which a recording is not kept (R109). -/
def minVoiceFrames : Nat := 25
/-- Free blocks below which an erase is urgent (R96). -/
def urgentFree : Nat := 16
/-- Data octets of a flash page (R81, R93). -/
def pageOctets : Nat := 512
/-- Octets of a VOICE stream frame (R21). -/
def voiceOctets : Nat := 83
/-- Pages of the staging pool (R82). -/
def poolPages : Nat := 256
/-- Samples of a speech frame (R74). -/
def frameSamples : Nat := 160
/-- Modulus of the sweep count (R133). -/
def sweepModulus : Nat := 4294967296
/-- Orders, or queried rooms, in one lamp frame (R134, R136). -/
def lampFrameRooms : Nat := 14
/-- LAMP_ORDER frames of one sweep (R134). -/
def sweepFrames : Nat := 3

end Sys2Proof.Config
end

