-- ==== Sys2Proof/Machine/State.lean ====
section
/-! DEFINITION. The state of the VH-2048, block by block (00_scope.md, 0.2), as plain data, with the value of every item
after device reset. Each field's docstring cites the rule that gives it. Fields marked MODEL are the model's own. -/

namespace Sys2Proof.Machine

/-! ## Highway interface -/

/-- The presence of the highway (R7). -/
inductive Presence where
  | awaiting | present | lost
deriving DecidableEq, Repr

/-- The highway interface (R1–R3, R7). -/
structure Highway where
  /-- The presence state (R7). -/
  presence : Presence
  /-- The missing-sync count, 0–16 (R7). -/
  missing : Nat
  /-- The delay line: one octet for each of the 128 slots (R1). -/
  delay : Vector Octet 128
  /-- The slot binding table: the voice channel bound to each of the slots 0–125, or none (R3). -/
  bindings : Vector (Option ChannelIx) 126
  /-- MODEL: the octets driven on HOUT in the last highway frame, slot 0 first (the HOUT pin, R1, R2). -/
  hout : List Octet
deriving DecidableEq, Repr

/-- The part clock (R5). -/
structure Clock where
  /-- The frame counter. 8,000 stands for a tick that is due and not yet taken. -/
  frames : Nat
  /-- Seconds-of-day, 0–86,399. -/
  seconds : Nat
  /-- Day-of-week, 0–6. -/
  weekday : Nat
  /-- Day number, 0–65,535. -/
  day : Nat
  /-- The clock-unset condition. -/
  unset : Bool
deriving DecidableEq, Repr

/-! ## Link -/

/-- A receive framer with what it holds of the frame being received (R11). -/
inductive Framer where
  | hunt
  | addr
  | kind (addr : Octet)
  | len (addr kind : Octet)
  | payload (addr kind len : Octet) (held : List Octet)
  | check (addr kind len : Octet) (held : List Octet)
deriving DecidableEq, Repr

/-- The status of a REPLY (R18). -/
inductive Status where
  | ok | badState | badArgument | badKind | notFound | full | busy | mismatch | notBlank
deriving DecidableEq, Repr

/-- The outcome of a SLOT_DONE (R18). -/
inductive SlotOutcome where
  | completed | reset | refusedState | refusedSlot | refusedBusy
deriving DecidableEq, Repr

/-- The reason of a denial (R18, R22). -/
inductive Denial where
  | none | vacant | barredDigits | credit | capacity
deriving DecidableEq, Repr

/-- The lamp states that an order can carry (R18, R127). -/
inductive Lamp where
  | off | steady | slow | fast
deriving DecidableEq, Repr

/-- The flags of a meter and of its CALL record (R144, R18). -/
structure CallFlags where
  timedAnswer : Bool
  free : Bool
  cutCredit : Bool
  interrupted : Bool
  clockUnset : Bool
  saturated : Bool
  grace : Bool
deriving DecidableEq, Repr

/-- A CALL record (R160, R163). -/
structure CallRecord where
  room : RoomIx
  extension : Nat
  trunk : TrunkIx
  digits : List Nat
  band : Option (Fin 32)
  answerDay : Nat
  answerSecond : Nat
  duration : Nat
  units : Nat
  base : Nat
  final : Nat
  flags : CallFlags
deriving DecidableEq, Repr

/-- A FINAL record (R30, R163). -/
structure FinalRecord where
  room : RoomIx
  extension : Nat
  balance : Nat
  inDay : Nat
  inSecond : Nat
  outDay : Nat
  outSecond : Nat
deriving DecidableEq, Repr

/-- A record of the charge queue (R163). -/
inductive ChargeRecord where
  | call (r : CallRecord)
  | final (r : FinalRecord)
deriving DecidableEq, Repr

/-- A frame the device originates (R17, R18). The payload of an ATTENTION frame is fixed when the transmitter takes it
(R14), so the queued frame carries none. -/
inductive OutFrame where
  | reply (tag : Octet) (status : Status) (data : List Octet)
  | attention
  | slotDone (slot : Octet) (outcome : SlotOutcome)
  | denyCall (trunk : TrunkIx) (reason : Denial)
  | lampOrder (orders : List (Nat × Lamp))
  | senseQuery (extensions : List Nat)
  | chargeData (record : ChargeRecord)
deriving DecidableEq, Repr

/-- The stage of the held command (R177). A built reply keeps its status and data (R179). -/
inductive Stage where
  | working
  | offering (status : Status) (data : List Octet)
deriving DecidableEq, Repr

/-- The held command: its kind code, its TAG, the payload octets after the TAG, and its stage (R177). -/
structure Held where
  kind : Octet
  tag : Octet
  fields : List Octet
  stage : Stage
deriving DecidableEq, Repr

/-- The link (R11, R14, R177). -/
structure Link where
  /-- The framer of slot 126 (R11). -/
  framer126 : Framer
  /-- The framer of slot 127 (R11). -/
  framer127 : Framer
  /-- The outbound queue, up to 64 frames, oldest first (R14). -/
  queue : List OutFrame
  /-- The octets of the frame in the transmitter that are still to be sent; empty when it is idle (R14). -/
  sending : List Octet
  /-- The command holder (R177). -/
  holder : Option Held
deriving DecidableEq, Repr

/-! ## Rooms, classes and the extension directory -/

/-- The occupancy of a room (R27). -/
inductive Occupancy where
  | vacant | occupied | checkoutPending
deriving DecidableEq, Repr

/-- The lamp sub-record of a room (R127). -/
structure LampRecord where
  /-- Desired state. -/
  desired : Lamp
  /-- Target, or none. -/
  target : Option Lamp
  /-- Last ordered state; `none` is UNKNOWN. -/
  ordered : Option Lamp
  /-- Last order sweep, or none. -/
  orderSweep : Option Nat
  /-- In the lamp order queue. -/
  queued : Bool
  /-- OFFHOOK source active. -/
  offHook : Bool
  /-- FAULT latch. -/
  fault : Bool
  /-- MAINT source active. -/
  maint : Bool
  /-- Shut down. -/
  shut : Bool
  /-- Sense-failure count, 0–8. -/
  failures : Nat
  /-- The line card reports no lamp. -/
  absent : Bool
deriving DecidableEq, Repr

/-- A room record (R22). -/
structure Room where
  loaded : Bool
  extension : Option Nat
  cls : ClassIx
  occupancy : Occupancy
  /-- Check-in time: day number and seconds-of-day. -/
  inDay : Nat
  inSecond : Nat
  /-- Checkout time: day number and seconds-of-day, present in CHECKOUT_PENDING. -/
  outTime : Option (Nat × Nat)
  creditLimit : Nat
  balance : Nat
  openMeters : Nat
  barred : Bool
  denial : Denial
  desk : Bool
  /-- The serials of the room's NEW and HEARD messages, ascending (R23). -/
  mailbox : List Nat
  newCount : Nat
  urgentCount : Nat
  recordings : Nat
  lamp : LampRecord
deriving DecidableEq, Repr

/-- A class record (R35). -/
structure ClassRecord where
  mailboxLimit : Nat
  maxLength : Nat
  noVoice : Nat
  menuTimeout : Nat
  grace : Nat
  markup : Nat
  timedAnswer : Nat
  billing : Bool
  /-- Credit restart MANUAL (AUTO when false). -/
  creditManual : Bool
  /-- Lamp shutdown state HOLD (OFF when false). -/
  shutdownHold : Bool
  /-- Lamp restart MANUAL (AUTO when false). -/
  lampManual : Bool
  faultThreshold : Nat
deriving DecidableEq, Repr

/-! ## Voice channels -/

/-- The state of a voice channel (R41, R42). -/
inductive ChanState where
  | free | greet | record | flush | announce | replay | listen | closing
deriving DecidableEq, Repr

/-- A play-list item (R41, R45). -/
inductive PlayItem where
  | prompt (id : PromptId)
  | message (serial : Nat)
deriving DecidableEq, Repr

/-- A channel record (R41). Its ring stands in `State.rings`. -/
structure Channel where
  state : ChanState
  kind : Option Purpose
  slot : Option (Fin 126)
  extension : Option Nat
  room : Option RoomIx
  playList : List PlayItem
  keyHolder : Option Key
  /-- One-shot timer: idle, or a count. `some 0` stands for an expiry that is due and not yet taken (R56). -/
  timer : Option Nat
  /-- Menu repeat count, 0–1. -/
  repeats : Nat
  current : Option Nat
  /-- Retrieval cursor: phase KEPT (NEW when false). -/
  kept : Bool
  /-- Retrieval cursor: last serial. -/
  last : Option Nat
  reading : Bool
  callerPresent : Bool
deriving DecidableEq, Repr

/-! ## Speech coder -/

/-- The quantiser: predictor and step index (R71). -/
structure Quantiser where
  p : Int
  i : Nat
deriving DecidableEq, Repr

/-- The state of an encoder (R72). -/
inductive EncState where
  | idle | running | finished
deriving DecidableEq, Repr

/-- An encoder (R72). -/
structure Encoder where
  state : EncState
  quant : Quantiser
  /-- The frame-start predictor and step index. -/
  start : Quantiser
  /-- Samples in the current frame. 160 stands for a frame end that is due and not yet taken (R74). -/
  samples : Nat
  peak : Nat
  nibbles : List Nat
  pendingSilence : Nat
  frames : Nat
  voiceFrames : Nat
  lengthLimit : Nat
  noVoiceLimit : Nat
deriving DecidableEq, Repr

/-- The frame in play of a decoder, with the samples left (R78). -/
inductive InPlay where
  | nothing
  | voice (left : Nat)
  | silence (left : Nat)
deriving DecidableEq, Repr

/-- A decoder (R78). -/
structure Decoder where
  quant : Quantiser
  position : Nat
  extent : Nat
  inPlay : InPlay
  /-- MODEL: the code octet last taken, whose low nibble is the odd sample's (R79). -/
  lastOctet : Octet
deriving DecidableEq, Repr

/-- The speech coder (R67, R69, R72, R74, R78). -/
structure Coder where
  /-- The expansion table (R67). -/
  expansion : Vector Int 256
  /-- The loaded map (R67). -/
  loaded : Vector Bool 256
  /-- The established silence code, or none (R69). -/
  silence : Option Octet
  /-- The silence threshold (R74). -/
  threshold : Nat
  encoders : Vector Encoder 32
  decoders : Vector Decoder 32
deriving DecidableEq, Repr

/-! ## Staging rings and the flash port -/

/-- The status of a recorded page (R81). A requested or programming page carries the flash page the store gave it
(block and page, R104) and the age of its request (R84). -/
inductive RecStatus where
  | filling
  | full
  | requested (block page age : Nat)
  | programming (block page age : Nat)
deriving DecidableEq, Repr

/-- A recorded page: its stream page number, its octets (their number is the fill) and its status (R81). -/
structure RecPage where
  number : Nat
  data : List Octet
  status : RecStatus
deriving DecidableEq, Repr

/-- The status of an item page (R81); an arrived page holds the octets read. -/
inductive ItemStatus where
  | reserved
  | reading
  | arrived (data : List Octet)
deriving DecidableEq, Repr

/-- An item page: its index in the item and its status (R81). -/
structure ItemPage where
  index : Nat
  status : ItemStatus
deriving DecidableEq, Repr

/-- What a held page is tied to: the program or the read in progress (R81). -/
inductive HeldPage where
  | program | read
deriving DecidableEq, Repr

/-- A channel's staging ring (R81). Its use is computed: `State.ringUse`. -/
structure Ring where
  size : Nat
  /-- Recording ended. -/
  ended : Bool
  /-- MODEL: the recording of this ring was exhausted (R107), so a program still in progress is not retried (R108). -/
  exhausted : Bool
  /-- The next stream page number (R83). -/
  nextPage : Nat
  recorded : List RecPage
  item : Option PlayItem
  /-- MODEL: the flash pages of the item's page sequence, read once at the item's start (R88). -/
  itemFlash : List Nat
  itemCount : Nat
  nextItem : Nat
  items : List ItemPage
  held : List HeldPage
deriving DecidableEq, Repr

/-- The use of a ring (R81). -/
inductive RingUse where
  | idle | recording | playback
deriving DecidableEq, Repr

/-- The flash port's states (R93). -/
inductive PortState where
  | starting | idle | busy | recovering
deriving DecidableEq, Repr

/-- The kind of a mark (R111). -/
inductive MarkKind where
  | heard | deleted
deriving DecidableEq, Repr

/-- The flash operation in progress, with its requester (R93, R94, R96). -/
inductive FlashOp where
  /-- PROGRAM_PAGE for a ring page: the channel, the message, the flash page, whether the page carries a HEAD header
  (R106), and the octets sent (R84, R105). -/
  | ringProgram (channel : ChannelIx) (serial block page : Nat) (head : Bool) (data spare : List Octet)
  /-- READ_PAGE for item page `index` of a ring (R89). -/
  | ringRead (channel : ChannelIx) (index page : Nat)
  /-- ERASE_BLOCK of the erase in progress (R100). -/
  | erase (block : Nat)
  /-- PROGRAM_SPARE of the mark in progress (R111). -/
  | mark (page : Nat) (spare : List Octet)
  /-- READ_SPARE of the mount job (R118, R119). -/
  | mountRead (page : Nat)
  /-- ERASE_BLOCK of a PROMPT_ERASE (R126). -/
  | promptErase (block : Nat)
  /-- PROGRAM_PAGE of a PROMPT_COMMIT (R124). -/
  | promptProgram (page : Nat) (data spare : List Octet)
  /-- READ_PAGE of a PROMPT_VERIFY or PROMPT_BLANK (R125). -/
  | promptRead (page : Nat)
  /-- READ_SPARE of a PROMPT_BLANK (R125). -/
  | promptReadSpare (page : Nat)
deriving DecidableEq, Repr

/-- One cycle on the flash pins, all with FCE low (R93): a command octet (FCLE high), an address octet (FALE high), a data
octet written (FWE), the wait for FRB high, the status octet read (its bit 0, 1 on failure), a data octet read (FRE). -/
inductive FlashCycle where
  | command (o : Octet)
  | address (o : Octet)
  | write (o : Octet)
  | ready
  | status (fail : Bool)
  | read (o : Octet)
deriving DecidableEq, Repr

/-- What the port last drove on its pins: the levels of a RESET held low (FCE, FWE and FRE high, FCLE and FALE low, R95), or
a sequence of cycles (R93). -/
inductive FlashDrive where
  | resetLevels
  | cycles (l : List FlashCycle)
deriving DecidableEq, Repr

/-- The flash port and the arbiter (R93, R97). -/
structure Port where
  state : PortState
  op : Option FlashOp
  /-- The round-robin pointer (R97). -/
  pointer : ChannelIx
  /-- MODEL: the cycles last put on the flash pins (R93). -/
  drive : FlashDrive
  /-- MODEL: the age the next program request takes; a smaller age is an older request (R84). -/
  nextAge : Nat
deriving DecidableEq, Repr

/-! ## Message store -/

/-- An entry of a message's block list (R102). -/
structure BlockEntry where
  block : Nat
  valid : Nat
  retire : Bool
deriving DecidableEq, Repr

/-- The state of a message (R102). -/
inductive MsgState where
  | recording | new | heard | deleting
deriving DecidableEq, Repr

/-- A message record (R102). -/
structure Message where
  serial : Nat
  room : RoomIx
  state : MsgState
  urgent : Bool
  origin : Option Nat
  day : Nat
  second : Nat
  readers : Nat
  deletedPending : Bool
  head : Option Nat
  blocks : List BlockEntry
  /-- Mark pages: page 14, and page 15, of the head block is blank. -/
  blank14 : Bool
  blank15 : Bool
  /-- The write position (R102). -/
  written : Nat
deriving DecidableEq, Repr

/-- An entry of the prompt directory (R122). -/
structure PromptEntry where
  first : Nat
  count : Nat
deriving DecidableEq, Repr

/-- The load buffer (R123). -/
structure LoadBuffer where
  target : Option Nat
  data : Vector Octet 512
  sent : Vector Bool 512
deriving DecidableEq, Repr

/-- What the fields of a valid HEAD header say (R21, R102). -/
structure HeadInfo where
  serial : Nat
  room : RoomIx
  day : Nat
  urgent : Bool
  second : Nat
  origin : Option Nat
deriving DecidableEq, Repr

/-- What the mount found in the spare area of a block's page 0 (R118). A block not yet in the working table is unread. -/
inductive BlockClass where
  | free
  | head (h : HeadInfo)
  | cont (serial seq : Nat)
  | dirty
deriving DecidableEq, Repr

/-- A HEAD block of the mount's second step with what its mark pages read (R119). -/
structure MountHead where
  block : Nat
  info : HeadInfo
  heardMark : Bool
  blank14 : Bool
  deletedMark : Bool
  blank15 : Bool
deriving DecidableEq, Repr

/-- The mount job (R117–R119): `classes` is the working table for the blocks read so far, from the first message-area
block upward; `todo` the HEAD blocks whose mark pages are still to be read; `page14` whether page 14 of the first of them
has been read; `found` the HEAD blocks done. -/
structure MountJob where
  classes : List BlockClass
  todo : List MountHead
  page14 : Bool
  found : List MountHead
deriving DecidableEq, Repr

/-- The maintenance job (R96, source 5). -/
inductive Job where
  | none
  | mount (m : MountJob)
  /-- PROMPT_ERASE: the next block, the failed count and the failed blocks listed (R126). -/
  | promptErase (next failed : Nat) (list : List Nat)
  | promptCommit (page : Nat)
  | promptVerify (page : Nat)
  /-- PROMPT_BLANK, before its READ_PAGE and before its READ_SPARE (R125). -/
  | promptBlank (page : Nat)
  | promptBlankSpare (page : Nat) (blank : Bool)
deriving DecidableEq, Repr

/-- The message store (R99–R103, R111, R115, R122, R123). -/
structure Store where
  geometrySet : Bool
  totalBlocks : Nat
  promptBlocks : Nat
  /-- The free list, head first (R100). -/
  free : List Nat
  /-- The dirty list, head first (R100). -/
  dirty : List Nat
  /-- The erase in progress (R100). -/
  erasing : Option Nat
  /-- The bad table (R100). -/
  bad : List Nat
  /-- The message directory (R102), ascending by serial. -/
  messages : List Message
  nextSerial : Nat
  mounted : Bool
  lowWater : Nat
  reserve : Nat
  /-- The mark queue, head first (R111). -/
  marks : List (Nat × MarkKind)
  /-- The mark in progress (R111). -/
  marking : Option (Nat × MarkKind)
  /-- The prompt directory (R122). -/
  prompts : Vector (Option PromptEntry) 32
  buffer : LoadBuffer
  /-- The maintenance job (R96). -/
  job : Job
deriving DecidableEq, Repr

/-! ## Lamp controller -/

/-- The lamp controller beside the room records (R130, R133, R136). -/
structure LampControl where
  /-- The lamp order queue, head first (R130). -/
  queue : List RoomIx
  period : Nat
  sweeps : Nat
  cursor : RoomIx
  /-- MODEL: a tick has begun a sweep (R133) that has not yet been made. -/
  due : Bool
  lampPeriod : Nat
  holdOff : Nat
  senseInterval : Nat
deriving DecidableEq, Repr

/-! ## Meter bank and tariff -/

/-- The state of a meter in use (R144). -/
inductive MeterState where
  | dialling | connected | cut
deriving DecidableEq, Repr

/-- A meter in use (R144). -/
structure Meter where
  trunk : TrunkIx
  room : RoomIx
  extension : Nat
  digits : List Nat
  state : MeterState
  answered : Bool
  band : Option (Fin 32)
  period : Option (Fin 4)
  answer : Option (Nat × Nat)
  /-- Timed-answer timer; `some 0` stands for an expiry that is due and not yet taken (R148). -/
  timer : Option Nat
  /-- Countdown; `some 0` stands for a unit boundary that is due and not yet taken (R157). -/
  countdown : Option Nat
  units : Nat
  base : Nat
  held : Option Nat
  flags : CallFlags
deriving DecidableEq, Repr

/-- An entry of the trunk table (R4, R144). -/
structure Trunk where
  slot : Option (Fin 126)
  mute : Bool
  meter : Option MeterIx
deriving DecidableEq, Repr

/-- The action of a prefix entry: METER with a band, or FREE (R149). -/
inductive Action where
  | free
  | meter (band : Fin 32)
deriving DecidableEq, Repr

/-- A non-empty prefix entry (R149). -/
structure DigitEntry where
  digits : List Nat
  action : Action
  bar : BitVec 16
deriving DecidableEq, Repr

/-- One band-period (R152). -/
structure BandPeriod where
  p0 : Nat
  c0 : Nat
  u : Nat
  cu : Nat
  cmin : Nat
deriving DecidableEq, Repr

/-- The period schedule (R153). -/
structure Schedule where
  entries : List (Nat × Fin 4)
  weekend : BitVec 7
  weekendPeriod : Fin 4
deriving DecidableEq, Repr

/-- The tariff (R149, R152, R153). -/
structure Tariff where
  entries : Vector (Option DigitEntry) 512
  defaultAction : Action
  defaultBar : BitVec 16
  bands : Vector (Vector BandPeriod 4) 32
  schedule : Schedule
deriving DecidableEq, Repr

/-! ## The whole machine -/

/-- The service state (R180). -/
inductive Service where
  | setup | mounting | inService | suspending | suspended
deriving DecidableEq, Repr

structure State where
  /-- MODEL: the commands that wait to be taken, first in, first out. -/
  pending : List Instr
  /-- The RESET pin is held low (R187). -/
  resetLow : Bool
  highway : Highway
  clock : Clock
  link : Link
  service : Service
  /-- The attention set, one bit for each kind (R18, R184). -/
  attention : BitVec 16
  rooms : Vector Room 2048
  /-- The count of rooms in CHECKOUT_PENDING (R27). -/
  checkouts : Nat
  /-- The extension directory, ascending by extension (R32). -/
  directory : List (Nat × RoomIx)
  classes : Vector ClassRecord 16
  channels : Vector Channel 32
  coder : Coder
  rings : Vector Ring 32
  port : Port
  store : Store
  lamps : LampControl
  trunks : Vector Trunk 256
  meters : Vector (Option Meter) 64
  tariff : Tariff
  /-- The charge queue, oldest first (R163). -/
  charges : List ChargeRecord
deriving DecidableEq, Repr

/-- No command of this block stops the machine: the manual gives every step a next state, so there is no fault. -/
inductive Fault where
deriving DecidableEq, Repr

/-- Why a command is not taken. -/
inductive Refusal where
  /-- Raised by an arm of `exec` for a command that has no meaning yet; safe, because nothing follows from it. -/
  | notModelled (mnemonic : String)
deriving DecidableEq, Repr

/-! ## After device reset -/

/-- R127. -/
def LampRecord.reset : LampRecord :=
  { desired := .off, target := none, ordered := none, orderSweep := none, queued := false, offHook := false,
    fault := false, maint := false, shut := false, failures := 0, absent := false }

/-- R22. -/
def Room.reset : Room :=
  { loaded := false, extension := none, cls := 0, occupancy := .vacant, inDay := 0, inSecond := 0, outTime := none,
    creditLimit := 0, balance := 0, openMeters := 0, barred := false, denial := .none, desk := false, mailbox := [],
    newCount := 0, urgentCount := 0, recordings := 0, lamp := LampRecord.reset }

/-- R35. -/
def ClassRecord.reset : ClassRecord :=
  { mailboxLimit := 16, maxLength := 120, noVoice := 8, menuTimeout := 6, grace := 10, markup := 0, timedAnswer := 30,
    billing := false, creditManual := false, shutdownHold := false, lampManual := false, faultThreshold := 2 }

/-- R41. -/
def Channel.reset : Channel :=
  { state := .free, kind := none, slot := none, extension := none, room := none, playList := [], keyHolder := none,
    timer := none, repeats := 0, current := none, kept := false, last := none, reading := false, callerPresent := false }

/-- R72, R78: predictor 0 and step index 8. -/
def Quantiser.reset : Quantiser := { p := 0, i := 8 }

/-- R72. -/
def Encoder.reset : Encoder :=
  { state := .idle, quant := Quantiser.reset, start := Quantiser.reset, samples := 0, peak := 0, nibbles := [],
    pendingSilence := 0, frames := 0, voiceFrames := 0, lengthLimit := 0, noVoiceLimit := 0 }

/-- R78; `lastOctet` is read only after an even sample has written it. -/
def Decoder.reset : Decoder :=
  { quant := Quantiser.reset, position := 0, extent := 0, inPlay := .nothing, lastOctet := 0 }

/-- R81. The manual gives no reset value for the next stream page number; it is 0 here (log entry 42), and R83 sets it at entry
to RECORD before any page is numbered. -/
def Ring.reset : Ring :=
  { size := 8, ended := false, exhausted := false, nextPage := 0, recorded := [], item := none, itemFlash := [],
    itemCount := 0, nextItem := 0, items := [], held := [] }

/-- R123: target none, every octet 0xFF and no octet marked. -/
def LoadBuffer.reset : LoadBuffer :=
  { target := none, data := Vector.replicate 512 0xFF, sent := Vector.replicate 512 false }

/-- R99, R100, R102, R103, R111, R115, R122, R123. -/
def Store.reset : Store :=
  { geometrySet := false, totalBlocks := 0, promptBlocks := 0, free := [], dirty := [], erasing := none, bad := [],
    messages := [], nextSerial := 0, mounted := false, lowWater := 256, reserve := 16, marks := [], marking := none,
    prompts := Vector.replicate 32 none, buffer := LoadBuffer.reset, job := .none }

/-- R130, R133, R136. -/
def LampControl.reset : LampControl :=
  { queue := [], period := 0, sweeps := 0, cursor := 0, due := false, lampPeriod := 2, holdOff := 1, senseInterval := 2 }

/-- R4, R144. -/
def Trunk.reset : Trunk := { slot := none, mute := false, meter := none }

/-- R152. -/
def BandPeriod.reset : BandPeriod := { p0 := 60, c0 := 0, u := 60, cu := 0, cmin := 0 }

/-- R149, R152, R153. -/
def Tariff.reset : Tariff :=
  { entries := Vector.replicate 512 none, defaultAction := .free, defaultBar := 0,
    bands := Vector.replicate 32 (Vector.replicate 4 BandPeriod.reset),
    schedule := { entries := [(0, 0)], weekend := 0, weekendPeriod := 0 } }

/-- R184: the attention set holds CLOCK_UNSET (bit 8) alone. -/
def resetAttention : BitVec 16 := 0x0100

/-- The machine right after device reset (R187): RESET has returned high, the flash port is in STARTING and has issued
command 0xFF (R95), and every block holds its after-reset values. -/
def State.reset : State :=
  { pending := []
    resetLow := false
    highway :=
      { presence := .awaiting, missing := 0, delay := Vector.replicate 128 0xFF,
        bindings := Vector.replicate 126 none, hout := [] }
    clock := { frames := 0, seconds := 0, weekday := 0, day := 0, unset := true }
    link := { framer126 := .hunt, framer127 := .hunt, queue := [], sending := [], holder := none }
    service := .setup
    attention := resetAttention
    rooms := Vector.replicate 2048 Room.reset
    checkouts := 0
    directory := []
    classes := Vector.replicate 16 ClassRecord.reset
    channels := Vector.replicate 32 Channel.reset
    coder :=
      { expansion := Vector.replicate 256 0, loaded := Vector.replicate 256 false, silence := none, threshold := 64,
        encoders := Vector.replicate 32 Encoder.reset, decoders := Vector.replicate 32 Decoder.reset }
    rings := Vector.replicate 32 Ring.reset
    port := { state := .starting, op := none, pointer := 31, drive := .cycles [.command 0xFF], nextAge := 0 }
    store := Store.reset
    lamps := LampControl.reset
    trunks := Vector.replicate 256 Trunk.reset
    meters := Vector.replicate 64 none
    tariff := Tariff.reset
    charges := [] }

end Sys2Proof.Machine
end

