-- ==== Sys2Proof/Machine/Operands.lean ====
section
/-! DEFINITION. The layouts of section 1.6: multi-octet fields (most significant octet first), the payloads of the frames
the device sends and of the commands it takes, the spare-area records of the flash, and the check octets. -/

namespace Sys2Proof.Machine

/-! ## Multi-octet fields (R17) -/

/-- An unsigned field of two octets, most significant first. -/
def field16 (a b : Octet) : Nat := a.toNat * 256 + b.toNat

/-- An unsigned field of three octets, most significant first. -/
def field24 (a b c : Octet) : Nat := a.toNat * 65536 + b.toNat * 256 + c.toNat

/-- An unsigned field of four octets, most significant first. -/
def field32 (a b c d : Octet) : Nat := a.toNat * 16777216 + b.toNat * 65536 + c.toNat * 256 + d.toNat

/-- A two's complement field of two octets. -/
def fieldInt16 (a b : Octet) : Int := if field16 a b < 32768 then field16 a b else (field16 a b : Int) - 65536

/-- A number as one octet. A value above the field's range is sent as its largest value (R18). -/
def octets1 (n : Nat) : List Octet := [BitVec.ofNat 8 (min n 255)]

/-- A number as two octets, held at the field's largest value. -/
def octets2 (n : Nat) : List Octet :=
  let m := min n 65535
  [BitVec.ofNat 8 (m / 256), BitVec.ofNat 8 m]

/-- A number as three octets, held at the field's largest value. -/
def octets3 (n : Nat) : List Octet :=
  let m := min n 16777215
  [BitVec.ofNat 8 (m / 65536), BitVec.ofNat 8 (m / 256), BitVec.ofNat 8 m]

/-- A number as four octets, held at the field's largest value. -/
def octets4 (n : Nat) : List Octet :=
  let m := min n 4294967295
  [BitVec.ofNat 8 (m / 16777216), BitVec.ofNat 8 (m / 65536), BitVec.ofNat 8 (m / 256), BitVec.ofNat 8 m]

/-- A value in −32,768..32,767 as two octets of two's complement. -/
def octetsInt16 (v : Int) : List Octet :=
  let m := (v % 65536).toNat
  [BitVec.ofNat 8 (m / 256), BitVec.ofNat 8 m]

/-- The sum of some octets modulo 256. -/
def octetSum (l : List Octet) : Octet := l.foldl (· + ·) 0

/-- The octet that makes the sum of `l` and itself a multiple of 256 (R10, R21). -/
def checkOctet (l : List Octet) : Octet := 0 - octetSum l

/-- Digits packed two per octet, the first in the high nibble, unused nibbles 0xF, `n` octets in all (R18). -/
def packDigits : Nat → List Nat → List Octet
  | 0, _ => []
  | n + 1, a :: b :: rest => BitVec.ofNat 8 (a * 16 + b) :: packDigits n rest
  | n + 1, [a] => BitVec.ofNat 8 (a * 16 + 15) :: packDigits n []
  | n + 1, [] => 0xFF :: packDigits n []

/-- The nibbles of some octets, high nibble first (R19, R21). -/
def nibblesOf : List Octet → List Nat
  | [] => []
  | o :: rest => o.toNat / 16 :: o.toNat % 16 :: nibblesOf rest

/-! ## Codes (R18, R20) -/

/-- The status octet. -/
def Status.code : Status → Octet
  | .ok => 0 | .badState => 1 | .badArgument => 2 | .badKind => 3 | .notFound => 4 | .full => 5 | .busy => 6
  | .mismatch => 7 | .notBlank => 8

/-- The outcome octet. -/
def SlotOutcome.code : SlotOutcome → Octet
  | .completed => 0 | .reset => 1 | .refusedState => 2 | .refusedSlot => 3 | .refusedBusy => 4

/-- The reason octet. -/
def Denial.code : Denial → Octet
  | .none => 0 | .vacant => 1 | .barredDigits => 2 | .credit => 3 | .capacity => 4

/-- The lamp-state octet of an order. -/
def Lamp.code : Lamp → Octet
  | .off => 0 | .steady => 1 | .slow => 2 | .fast => 3

/-- The lamp-state octet of a last ordered state: 4 when UNKNOWN. -/
def lampStateCode : Option Lamp → Octet
  | some l => l.code
  | none => 4

/-- The service-state octet (R20). -/
def Service.code : Service → Octet
  | .setup => 0 | .mounting => 1 | .inService => 2 | .suspending => 3 | .suspended => 4

/-- The occupancy octet (R20). -/
def Occupancy.code : Occupancy → Octet
  | .vacant => 0 | .occupied => 1 | .checkoutPending => 2

/-- One bit of a flag octet. -/
def flagBit (b : Bool) (k : Nat) : Octet := if b then BitVec.ofNat 8 (2 ^ k) else 0

/-- The flag octet of a CALL record (R18). -/
def CallFlags.code (f : CallFlags) : Octet :=
  flagBit f.timedAnswer 0 ||| flagBit f.free 1 ||| flagBit f.cutCredit 2 ||| flagBit f.interrupted 3 |||
    flagBit f.clockUnset 4 ||| flagBit f.saturated 5 ||| flagBit f.grace 6

/-- An extension as three octets, 0xFFFFFF when absent (R18, R20, R21). -/
def extensionOctets3 : Option Nat → List Octet
  | some x => octets3 x
  | none => [0xFF, 0xFF, 0xFF]

/-! ## Charge records (R18) -/

/-- The payload of a CHARGE_DATA frame that carries a CALL record (LEN 37). -/
def CallRecord.payload (r : CallRecord) : List Octet :=
  [(1 : Octet)] ++ octets2 r.room.val ++ octets3 r.extension ++ octets1 r.trunk.val ++ octets1 r.digits.length ++
    packDigits 10 r.digits ++ [(match r.band with | some b => BitVec.ofNat 8 b.val | none => 0xFF : Octet)] ++
    octets2 r.answerDay ++ octets3 r.answerSecond ++ octets3 r.duration ++ octets3 r.units ++ octets3 r.base ++
    octets3 r.final ++ [r.flags.code]

/-- The payload of a CHARGE_DATA frame that carries a FINAL record (LEN 19). -/
def FinalRecord.payload (r : FinalRecord) : List Octet :=
  [(2 : Octet)] ++ octets2 r.room.val ++ octets3 r.extension ++ octets3 r.balance ++ octets2 r.inDay ++ octets3 r.inSecond ++
    octets2 r.outDay ++ octets3 r.outSecond

/-- The payload of a CHARGE_DATA frame. -/
def ChargeRecord.payload : ChargeRecord → List Octet
  | .call r => r.payload
  | .final r => r.payload

/-! ## Frames the device sends (R10, R17, R18) -/

/-- The ADDR octet: 0x02 for frames to the line cards, 0x01 for the others (R10). -/
def OutFrame.addr : OutFrame → Octet
  | .lampOrder _ | .senseQuery _ => 0x02
  | _ => 0x01

/-- The kind code (R17). -/
def OutFrame.kind : OutFrame → Octet
  | .reply .. => 0x60
  | .attention => 0x61
  | .slotDone .. => 0x62
  | .denyCall .. => 0x63
  | .lampOrder _ => 0x64
  | .senseQuery _ => 0x65
  | .chargeData _ => 0x66

/-- The payload, given the attention set as it stands (R14, R18). -/
def OutFrame.payload (attention : BitVec 16) : OutFrame → List Octet
  | .reply tag st data => tag :: st.code :: data
  | .attention => octets2 attention.toNat
  | .slotDone slot o => [slot, o.code]
  | .denyCall t r => octets1 t.val ++ [r.code]
  | .lampOrder orders => orders.flatMap fun o => octets3 o.1 ++ [o.2.code]
  | .senseQuery xs => xs.flatMap octets3
  | .chargeData r => r.payload

/-- The octets of a frame on the line: SYNC, ADDR, KIND, LEN, payload, CHECK (R10). -/
def OutFrame.line (attention : BitVec 16) (f : OutFrame) : List Octet :=
  let body := f.addr :: f.kind :: BitVec.ofNat 8 (f.payload attention).length :: f.payload attention
  0x7E :: body ++ [checkOctet body]

/-! ## Spare-area records of the flash (R21) -/

/-- A blank spare area. -/
def blankSpare : List Octet := List.replicate 16 0xFF

/-- A record with its check octet after its first 15 octets. -/
def withCheck (l : List Octet) : List Octet := l ++ [checkOctet l]

/-- The HEAD header of a message (R21). Bits 17–22 of octets 9–11, between the urgent bit and the seconds-of-day, are written
as 0 (log entry 41). -/
def headSpare (m : Message) : List Octet :=
  withCheck ([(0x5A : Octet)] ++ octets4 m.serial ++ octets2 m.room.val ++ octets2 m.day ++
    octets3 ((if m.urgent then 8388608 else 0) + m.second) ++ extensionOctets3 m.origin)

/-- The CONT header of a message. -/
def contSpare (serial seq : Nat) : List Octet :=
  withCheck ([(0x5C : Octet)] ++ octets4 serial ++ octets2 seq ++ List.replicate 8 0xFF)

/-- The mark record of a kind. -/
def markSpare (k : MarkKind) (serial : Nat) : List Octet :=
  withCheck ([(match k with | .heard => 0x48 | .deleted => 0x44 : Octet)] ++ octets4 serial ++ List.replicate 10 0xFF)

/-- A spare area whose check holds. -/
def checkHolds (l : List Octet) : Bool := octetSum l = 0

/-- The serial of a spare-area record: octets 1–4. -/
def spareSerial (l : List Octet) : Nat := field32 (l.getD 1 0) (l.getD 2 0) (l.getD 3 0) (l.getD 4 0)

/-- Reads a valid HEAD header: the type, the check, a room of at most 2,047 and a seconds-of-day of at most 86,399. The
urgent flag is the top bit of octets 9–11 and the seconds-of-day their low 17 bits; an origin above 999,999 is absent
(R21, R102). -/
def readHead (l : List Octet) : Option HeadInfo :=
  let room := field16 (l.getD 5 0) (l.getD 6 0)
  let time := field24 (l.getD 9 0) (l.getD 10 0) (l.getD 11 0)
  let second := time % 131072
  let origin := field24 (l.getD 12 0) (l.getD 13 0) (l.getD 14 0)
  if h : l.getD 0 0 = 0x5A ∧ checkHolds l = true ∧ room < 2048 ∧ second < Config.secondsPerDay then
    some { serial := spareSerial l, room := ⟨room, h.2.2.1⟩, day := field16 (l.getD 7 0) (l.getD 8 0),
           urgent := decide (8388608 ≤ time), second := second,
           origin := if origin ≤ Config.maxExtension then some origin else none }
  else none

/-- Reads a valid CONT header: its serial and its seq, 1–319 (R21). -/
def readCont (l : List Octet) : Option (Nat × Nat) :=
  let seq := field16 (l.getD 5 0) (l.getD 6 0)
  if l.getD 0 0 = 0x5C ∧ checkHolds l = true ∧ 1 ≤ seq ∧ seq ≤ 319 then some (spareSerial l, seq) else none

/-- A spare area holds a valid mark of the kind with the serial given (R21, R119). -/
def isMark (k : MarkKind) (serial : Nat) (l : List Octet) : Bool :=
  l.getD 0 0 = (match k with | .heard => 0x48 | .deleted => 0x44) ∧ checkHolds l = true ∧ spareSerial l = serial

/-! ## Dense tables -/

/-- A vector of `n` elements made from a list, cut at `n` or filled with `d`. -/
def vectorOf (n : Nat) (d : α) (l : List α) : Vector α n :=
  ⟨⟨(l ++ List.replicate n d).take n⟩, by simp⟩

end Sys2Proof.Machine
end

