-- ==== Sys2Proof/Machine/Flags.lean ====
section
/-! DEFINITION. The attention kinds and their bits (R18), and the flag octets of the query replies (R20). -/

namespace Sys2Proof.Machine

/-- The attention kinds (R18, R184). -/
inductive Attention where
  | mountDone | storeLow | storeFull | flashFault | dirFull | chargesHigh | chargesFull | lampFault | clockUnset
  | holdExit | promptMissing | cmdOverrun | outboundFull
deriving DecidableEq, Repr

/-- The bit of a kind in the attention set (R18). -/
def attentionBit : Attention → BitVec 16
  | .mountDone => 0x0001
  | .storeLow => 0x0002
  | .storeFull => 0x0004
  | .flashFault => 0x0008
  | .dirFull => 0x0010
  | .chargesHigh => 0x0020
  | .chargesFull => 0x0040
  | .lampFault => 0x0080
  | .clockUnset => 0x0100
  | .holdExit => 0x0200
  | .promptMissing => 0x0400
  | .cmdOverrun => 0x0800
  | .outboundFull => 0x1000

/-- A kind is in the set. -/
def attentionHas (set : BitVec 16) (k : Attention) : Bool := set &&& attentionBit k ≠ 0

/-- The set with a kind joined. -/
def attentionJoin (set : BitVec 16) (k : Attention) : BitVec 16 := set ||| attentionBit k

/-- The set without the kinds a mask names (R185). -/
def attentionRemove (set mask : BitVec 16) : BitVec 16 := set &&& ~~~mask

/-- The room flags of QUERY_ROOM (R20). The bits the manual leaves unnamed, 2–7, are sent as 0 (log entry 40). -/
def roomFlags (r : Room) : Octet := flagBit r.barred 0 ||| flagBit r.desk 1

/-- The lamp flags of QUERY_ROOM (R20). The bits the manual leaves unnamed, 6–7, are sent as 0 (log entry 40). -/
def lampFlags (l : LampRecord) : Octet :=
  flagBit l.shut 0 ||| flagBit l.absent 1 ||| flagBit l.offHook 2 ||| flagBit l.fault 3 ||| flagBit l.maint 4 |||
    flagBit l.queued 5

/-- One octet, 1 for yes and 0 for no (R20). -/
def yesNo (b : Bool) : Octet := if b then 1 else 0

end Sys2Proof.Machine
end

