-- ==== Sys2Proof/Machine/Ops.lean ====
section
/-! DEFINITION. The named operations that every block uses: reading and replacing one record, the attention set, the
outbound queue, the command holder, the extension directory, and the drain test of SUSPENDING. -/

namespace Sys2Proof.Machine

/-! ## Records -/

/-- A vector with a function applied to each element. -/
def mapVector (f : α → β) (v : Vector α n) : Vector β n := ⟨⟨v.toList.map f⟩, by simp⟩

/-- Room record `r`. -/
def State.room (s : State) (r : RoomIx) : Room := s.rooms[r]
/-- `s` with room record `r` replaced. -/
def State.setRoom (s : State) (r : RoomIx) (x : Room) : State := { s with rooms := s.rooms.set r x }
/-- `s` with room record `r` changed by `f`. -/
def State.updRoom (s : State) (r : RoomIx) (f : Room → Room) : State := s.setRoom r (f (s.room r))
/-- `s` with the lamp sub-record of room `r` changed by `f`. -/
def State.updLamp (s : State) (r : RoomIx) (f : LampRecord → LampRecord) : State :=
  s.updRoom r fun x => { x with lamp := f x.lamp }
/-- The class record that room `r` names, as it stands (R36). -/
def State.classOf (s : State) (r : RoomIx) : ClassRecord := s.classes[(s.room r).cls]
/-- The indices of the rooms that satisfy `p`, ascending. -/
def State.roomsWhere (s : State) (p : Room → Bool) : List RoomIx :=
  s.rooms.toList.zipIdx.filterMap fun x => if p x.1 then some (Fin.ofNat 2048 x.2) else none

/-- Channel record `c`. -/
def State.chan (s : State) (c : ChannelIx) : Channel := s.channels[c]
/-- `s` with channel record `c` changed by `f`. -/
def State.updChan (s : State) (c : ChannelIx) (f : Channel → Channel) : State :=
  { s with channels := s.channels.set c (f (s.chan c)) }

/-- Ring `c`. -/
def State.ring (s : State) (c : ChannelIx) : Ring := s.rings[c]
/-- `s` with ring `c` changed by `f`. -/
def State.updRing (s : State) (c : ChannelIx) (f : Ring → Ring) : State :=
  { s with rings := s.rings.set c (f (s.ring c)) }

/-- The encoder of channel `c`. -/
def State.encoder (s : State) (c : ChannelIx) : Encoder := s.coder.encoders[c]
/-- `s` with the encoder of channel `c` changed by `f`. -/
def State.updEncoder (s : State) (c : ChannelIx) (f : Encoder → Encoder) : State :=
  { s with coder := { s.coder with encoders := s.coder.encoders.set c (f (s.encoder c)) } }

/-- The decoder of channel `c`. -/
def State.decoder (s : State) (c : ChannelIx) : Decoder := s.coder.decoders[c]
/-- `s` with the decoder of channel `c` changed by `f`. -/
def State.updDecoder (s : State) (c : ChannelIx) (f : Decoder → Decoder) : State :=
  { s with coder := { s.coder with decoders := s.coder.decoders.set c (f (s.decoder c)) } }

/-- Trunk entry `t`. -/
def State.trunk (s : State) (t : TrunkIx) : Trunk := s.trunks[t]
/-- `s` with trunk entry `t` changed by `f`. -/
def State.updTrunk (s : State) (t : TrunkIx) (f : Trunk → Trunk) : State :=
  { s with trunks := s.trunks.set t (f (s.trunk t)) }

/-- Meter `m`, or none when it is free. -/
def State.meter (s : State) (m : MeterIx) : Option Meter := s.meters[m]
/-- `s` with meter `m` replaced. -/
def State.setMeter (s : State) (m : MeterIx) (x : Option Meter) : State := { s with meters := s.meters.set m x }
/-- The device's open meters: the meters in use (R144). -/
def State.openMeters (s : State) : Nat := s.meters.toList.countP Option.isSome

/-- The channel bound to a slot, or none (R3); a slot above 125 is bound to none. -/
def State.boundTo (s : State) (slot : Octet) : Option ChannelIx :=
  if h : slot.toNat < 126 then s.highway.bindings[slot.toNat] else none
/-- `s` with an entry of the slot binding table replaced (R3). -/
def State.bind (s : State) (slot : Fin 126) (c : Option ChannelIx) : State :=
  { s with highway := { s.highway with bindings := s.highway.bindings.set slot c } }

/-! ## Attention set and outbound queue -/

/-- Free entries of the outbound queue (R14). -/
def State.freeEntries (s : State) : Nat := Config.outboundEntries - s.link.queue.length

/-- A frame joins the tail of the outbound queue. -/
def State.push (s : State) (f : OutFrame) : State := { s with link := { s.link with queue := s.link.queue ++ [f] } }

/-- A kind is placed in the attention set (R184). Into an empty set it brings one ATTENTION frame, whose loss for want of
room places OUTBOUND_FULL beside it. -/
def place (k : Attention) (s : State) : State :=
  if attentionHas s.attention k then s
  else if s.attention ≠ 0 then { s with attention := attentionJoin s.attention k }
  else if 1 ≤ s.freeEntries then { s with attention := attentionBit k }.push .attention
  else { s with attention := attentionJoin (attentionBit k) .outboundFull }

/-- DENY_CALL, SLOT_DONE or ATTENTION is offered: admitted with an entry free, else dropped and OUTBOUND_FULL is placed
(R15). -/
def offerNotice (f : OutFrame) (s : State) : State :=
  if 1 ≤ s.freeEntries then s.push f else place .outboundFull s

/-- LAMP_ORDER or SENSE_QUERY is offered: admitted when at least 32 entries are free (R15). -/
def lampAdmitted (s : State) : Bool := Config.lampReserve ≤ s.freeEntries

/-! ## Command holder -/

/-- What the owner of a command makes of it (R178, R179): a reply built at once, or work whose reply is deferred. -/
inductive Work where
  | done (status : Status) (data : List Octet) (s : State)
  | deferred (s : State)

/-- A refusal: no data and no other effect (R178). -/
def Work.refuse (st : Status) (s : State) : Work := .done st [] s

/-- A built REPLY enters the outbound queue when an entry is free, and the holder becomes empty; else the command waits in
stage OFFERING (R15, R179). -/
def buildReply (st : Status) (data : List Octet) (s : State) : State :=
  match s.link.holder with
  | none => s
  | some h =>
    if 1 ≤ s.freeEntries then
      { s with link := { s.link with queue := s.link.queue ++ [.reply h.tag st data], holder := none } }
    else { s with link := { s.link with holder := some { h with stage := .offering st data } } }

/-- A command frame is offered to the holder (R177). An occupied holder discards it and CMD_OVERRUN is placed. An empty
one takes it in stage WORKING and hands it to its owner. -/
def holderTake (kind tag : Octet) (fields : List Octet) (owner : State → Work) (s : State) : State :=
  match s.link.holder with
  | some _ => place .cmdOverrun s
  | none =>
    match owner { s with link := { s.link with holder := some ⟨kind, tag, fields, .working⟩ } } with
    | .done st data s' => buildReply st data s'
    | .deferred s' => s'

/-! ## Extension directory (R32) -/

/-- The room an extension belongs to. -/
def State.lookup (s : State) (x : Nat) : Option RoomIx := (s.directory.find? (·.1 = x)).map (·.2)

/-- An entry inserted in sorted place. -/
def directoryInsert (e : Nat × RoomIx) : List (Nat × RoomIx) → List (Nat × RoomIx)
  | [] => [e]
  | a :: l => if e.1 < a.1 then e :: a :: l else a :: directoryInsert e l

/-- A serial inserted in ascending order (R23). -/
def serialInsert (n : Nat) : List Nat → List Nat
  | [] => [n]
  | a :: l => if n < a then n :: a :: l else a :: serialInsert n l

/-! ## Service states -/

/-- Metering and lamp sweeps are active (R133, R145). -/
def State.active (s : State) : Bool :=
  match s.service with
  | .inService | .suspending | .suspended => true
  | .setup | .mounting => false

/-- The prompt commands and maintenance operations may run (R96, R123): SETUP or SUSPENDED. -/
def State.promptState (s : State) : Bool := s.service = .setup || s.service = .suspended

/-- A recorded page with a program request, or whose program is in progress. -/
def RecPage.inProgram (p : RecPage) : Bool :=
  match p.status with
  | .requested .. | .programming .. => true
  | .filling | .full => false

/-- A ring has a program requested, in progress or held (R182). -/
def Ring.programPending (r : Ring) : Bool := r.recorded.any RecPage.inProgram || r.held.any (· = .program)

/-- The drain condition of R182. -/
def State.drained (s : State) : Bool :=
  s.channels.toList.all (·.state = .free) && !s.rings.toList.any Ring.programPending && s.store.marks.isEmpty &&
    s.store.marking.isNone

/-- In SUSPENDING, the drain condition is tested and SUSPENDED entered when it holds (R182). -/
def drainTest (s : State) : State :=
  if s.service = .suspending ∧ s.drained = true then { s with service := .suspended } else s

/-! ## Taking an event -/

/-- An event is taken: it has its effect, or none while RESET is held low, when every block stays at its after-reset
values (R187). -/
def event (f : State → State) (s : State) : Host.Outcome State Fault Refusal := .next (if s.resetLow then s else f s)

end Sys2Proof.Machine
end

