-- ==== Sys2Proof/Machine/Rooms.lean ====
section
/-! DEFINITION. The room table's shared operations: exposure and barring (R22, R154, R171), lamp target evaluation
(R128–R130), the re-evaluation order (R25), the charge queue's append and admission (R164, R165), and checkout completion
(R30). -/

namespace Sys2Proof.Machine

/-! ## Exposure and barring -/

/-- A base marked up and rounded: floor((base × (1,000 + markup) + 500) / 1,000) (R154, R160). -/
def markedUp (base markup : Nat) : Nat := (base * (1000 + markup) + 500) / 1000

/-- The provisional charge of a meter under the markup of its room's class (R154). -/
def provisional (markup : Nat) (m : Meter) : Nat :=
  match m.state with
  | .dialling => 0
  | .connected => min Config.maxCharge (markedUp m.base markup)
  | .cut => m.held.getD 0

/-- The provisional charges of the open meters of room `r`, summed. -/
def State.provisionals (s : State) (r : RoomIx) : Nat :=
  (s.meters.toList.map fun m =>
    match m with
    | some x => if x.room = r then provisional (s.classOf r).markup x else 0
    | none => 0).sum

/-- A room's exposure (R22): never stored, held at 9,999,999. -/
def State.exposure (s : State) (r : RoomIx) : Nat := min Config.maxBalance ((s.room r).balance + s.provisionals r)

/-- What a barring evaluation makes of credit-barred (R171). -/
def barredAfter (limit exposure : Nat) (manual barred : Bool) : Bool :=
  if limit ≠ 0 ∧ limit ≤ exposure then true else if manual then barred else false

/-- A barring evaluation of room `r` (R171). -/
def evaluateBarring (r : RoomIx) (s : State) : State :=
  s.updRoom r fun x =>
    { x with barred := barredAfter x.creditLimit (s.exposure r) (s.classOf r).creditManual x.barred }

/-! ## Lamp target -/

/-- The desired state of a room's lamp (R128). -/
def desiredLamp (x : Room) : Lamp :=
  if x.occupancy ≠ .occupied then .off
  else if 0 < x.urgentCount then .fast
  else if 0 < x.newCount then .slow
  else if x.desk || x.barred then .steady
  else .off

/-- The target of a room's lamp, given its class lamp shutdown state and its desired state (R129). -/
def targetLamp (hold : Bool) (x : Room) (desired : Lamp) : Option Lamp :=
  if !x.loaded || x.lamp.absent then none
  else if x.lamp.shut then
    if hold then some (x.lamp.ordered.getD .off) else some .off
  else some desired

/-- A target evaluation calls for an order: the target is not none and differs from the last ordered state. -/
def orderDue (l : LampRecord) : Bool := l.target.isSome && l.target != l.ordered

/-- A room record after its target evaluation (R130, steps 1 and 2, and the queued field of step 3). -/
def lampEvaluated (hold : Bool) (x : Room) : Room :=
  let l := { x.lamp with desired := desiredLamp x, target := targetLamp hold x (desiredLamp x) }
  { x with lamp := { l with queued := l.queued || orderDue l } }

/-- A target evaluation of room `r` (R130): a room that is due an order and not queued joins the tail of the lamp order
queue. -/
def evaluateLamp (r : RoomIx) (s : State) : State :=
  let x := lampEvaluated (s.classOf r).shutdownHold (s.room r)
  let joins := x.lamp.queued && !(s.room r).lamp.queued
  { s.setRoom r x with lamps := { s.lamps with queue := if joins then s.lamps.queue ++ [r] else s.lamps.queue } }

/-- A room is handed over: barring is evaluated first, then the lamp target on the result (R25, R171). -/
def evaluateRoom (r : RoomIx) (s : State) : State := evaluateLamp r (evaluateBarring r s)

/-! ## Charge queue -/

/-- A record joins the tail of the charge queue, and CHARGES_HIGH is placed when the fill reaches 224 (R164). -/
def appendCharge (c : ChargeRecord) (s : State) : State :=
  let s := { s with charges := s.charges ++ [c] }
  if Config.chargesHigh ≤ s.charges.length then place .chargesHigh s else s

/-- The admission sum of R165, without the event that asks. -/
def State.admissionSum (s : State) : Nat := s.charges.length + s.openMeters + s.checkouts

/-- Charge admission of one more place (R165). -/
def State.admits (s : State) : Bool := s.admissionSum + 1 ≤ Config.chargeRecords

/-! ## Checkout completion -/

/-- The FINAL record of a room's stay (R30). A loaded room always has an extension (R22). -/
def finalRecord (r : RoomIx) (x : Room) : FinalRecord :=
  { room := r, extension := x.extension.getD 0, balance := x.balance, inDay := x.inDay, inSecond := x.inSecond,
    outDay := (x.outTime.getD (0, 0)).1, outSecond := (x.outTime.getD (0, 0)).2 }

/-- A room record after checkout completion (R30, step 2). -/
def vacated (x : Room) : Room :=
  { x with occupancy := .vacant, balance := 0, creditLimit := 0, barred := false, desk := false, outTime := none }

/-- A room in CHECKOUT_PENDING with no open meter completes its checkout (R30). -/
def checkoutTest (r : RoomIx) (s : State) : State :=
  if (s.room r).occupancy = .checkoutPending ∧ (s.room r).openMeters = 0 then
    let s := { s with checkouts := s.checkouts - 1 }
    let s := appendCharge (.final (finalRecord r (s.room r))) s
    evaluateRoom r (s.updRoom r vacated)
  else s

/-! ## The checks of the room commands (R26) -/

/-- A room command's checks in the order of R26: the service state (unless `query`), the room index, the other fields, and
loaded (when `loaded`). A command that passes is given its room. -/
def checkedRoom (query loaded : Bool) (a b : Octet) (fieldsOk : Bool) (s : State) (k : RoomIx → Work) : Work :=
  if s.service = .mounting ∧ query = false then .refuse .badState s
  else if h : field16 a b < 2048 then
    if fieldsOk = false then .refuse .badArgument s
    else if loaded = true ∧ (s.room ⟨field16 a b, h⟩).loaded = false then .refuse .notFound s
    else k ⟨field16 a b, h⟩
  else .refuse .badArgument s

end Sys2Proof.Machine
end

