-- ==== Sys2Proof/Machine/Charges.lean ====
section
/-! DEFINITION. Waiting replies and the charge commands: REPLY_ENTRY (R15, R179), FETCH_CHARGES, its entry (R15, R167)
and RELEASE_CHARGES (R168). -/

namespace Sys2Proof.Machine

/-- A built reply that waits in the holder is offered again (R15, R179). -/
def replyEntry (s : State) : State :=
  match s.link.holder with
  | some ⟨_, _, _, .offering st data⟩ => buildReply st data s
  | _ => s

/-- The count to send at an offer of FETCH_CHARGES (n): the smaller of n and the fill (R167). -/
def State.fetchCount (s : State) (n : Nat) : Nat := min n s.charges.length

/-- A FETCH_CHARGES (n) with its TAG is offered (R15, R167): with k + 1 entries free, the k oldest records and the REPLY
enter together and the command leaves the holder. -/
def offerFetch (tag : Octet) (n : Nat) (s : State) : State :=
  let k := s.fetchCount n
  if k + 1 ≤ s.freeEntries then
    { s with link := { s.link with
        queue := s.link.queue ++ (s.charges.take k).map .chargeData ++ [.reply tag .ok (octets1 k)]
        holder := none } }
  else s

/-- FETCH_CHARGES is taken: the command is held and makes its first offer (R167). -/
def workFetchCharges (tag : Octet) : List Octet → State → Work
  | [n], s =>
    if 1 ≤ n.toNat ∧ n.toNat ≤ 8 then .deferred (offerFetch tag n.toNat s) else .refuse .badArgument s
  | _, s => .refuse .badArgument s

/-- A FETCH_CHARGES that waits in the holder is offered again (R15, R167). -/
def fetchEntry (s : State) : State :=
  match s.link.holder with
  | some ⟨0x5E, tag, [n], .working⟩ => offerFetch tag n.toNat s
  | _ => s

/-- RELEASE_CHARGES (R168). -/
def workReleaseCharges : List Octet → State → Work
  | [n1, n0], s =>
    let n := field16 n1 n0
    if s.charges.length < n then .refuse .badArgument s
    else .done .ok (octets2 (s.charges.length - n)) { s with charges := s.charges.drop n }
  | _, s => .refuse .badArgument s

/-! ## The meanings -/

/-- REPLY_ENTRY (R15). -/
def execReplyEntry (s : State) : Host.Outcome State Fault Refusal := event replyEntry s

/-- FETCH_CHARGES_ENTRY (R167). -/
def execFetchChargesEntry (s : State) : Host.Outcome State Fault Refusal := event fetchEntry s

/-- FETCH_CHARGES (R167). -/
def execFetchCharges (tag : Octet) (fields : List Octet) (s : State) : Host.Outcome State Fault Refusal :=
  event (holderTake 0x5E tag fields (workFetchCharges tag fields)) s

/-- RELEASE_CHARGES (R168). -/
def execReleaseCharges (tag : Octet) (fields : List Octet) (s : State) : Host.Outcome State Fault Refusal :=
  event (holderTake 0x5F tag fields (workReleaseCharges fields)) s

end Sys2Proof.Machine
end

