-- ==== Sys2Proof/Machine/Coding.lean ====
section
/-! DEFINITION. Speech coding (Chapter 4) over plain records: the quantiser, recompanding and the silence code, the
encoder's sample and frame end, the stream frames, and the order in which an item's octets are read. -/

namespace Sys2Proof.Machine

/-! ## Expansion table -/

/-- A value held in −8,192..8,191 (R68, R71, R79). -/
def clampLinear (v : Int) : Int := if v < -8192 then -8192 else if 8191 < v then 8191 else v

/-- The index of the entry nearest `v`, the lowest of equals: `i` is the index of the list's head, `best` the nearest index
so far at distance `d`. -/
def nearestFrom (v : Int) : List Int → Nat → Nat → Nat → Nat
  | [], _, best, _ => best
  | e :: l, i, best, d => if (e - v).natAbs < d then nearestFrom v l (i + 1) i (e - v).natAbs else nearestFrom v l (i + 1) best d

/-- The code whose entry is nearest `v`, the lowest of equals (R70). Entries and `v` lie in −8,192..8,191, so every
distance is below 16,384. -/
def recompand (table : Vector Int 256) (v : Int) : Octet := BitVec.ofNat 8 (nearestFrom v table.toList 0 0 16384)

/-- The silence code: the code whose entry has the smallest magnitude, the lowest of equals (R69). -/
def silenceCodeOf (table : Vector Int 256) : Octet := recompand table 0

/-- The code placed where there is nothing to hear: the silence code, or 0xFF while none is established (R2). -/
def Coder.quiet (c : Coder) : Octet := c.silence.getD 0xFF

/-- The expansion table is complete (R67). -/
def Coder.complete (c : Coder) : Bool := c.loaded.toList.all id

/-! ## Quantiser (R71) -/

/-- step(i) = (4 + (i mod 4)) × 2^floor(i/4). -/
def quantStep (i : Nat) : Nat := (4 + i % 4) * 2 ^ (i / 4)

/-- adj(m). -/
def quantAdjust (m : Nat) : Int := if m ≤ 1 then -1 else if m ≤ 3 then 0 else if m ≤ 5 then 1 else if m = 6 then 2 else 4

/-- A step index held in 0–39. -/
def clampIndex (i : Int) : Nat := if i < 0 then 0 else if 39 < i then 39 else i.toNat

/-- Applying a code nibble 0–15. -/
def Quantiser.apply (q : Quantiser) (nibble : Nat) : Quantiser :=
  let m := nibble % 8
  let delta : Int := ((2 * m + 1) * quantStep q.i / 4 : Nat)
  { p := clampLinear (if 8 ≤ nibble then q.p - delta else q.p + delta), i := clampIndex ((q.i : Int) + quantAdjust m) }

/-- The nibble an encoder forms for sample `x` (R73, steps 1 and 2). -/
def Quantiser.nibble (q : Quantiser) (x : Int) : Nat :=
  let d := x - q.p
  (if d < 0 then 8 else 0) + min 7 (2 * d.natAbs / quantStep q.i)

/-! ## Encoder -/

/-- The encoder at entry to RECORD, with the class values the recording keeps (R72). -/
def encoderStarted (maxLength noVoice : Nat) : Encoder :=
  { Encoder.reset with state := .running, lengthLimit := maxLength * 50, noVoiceLimit := noVoice * 50 }

/-- A frame end is due: the 160th sample of the current frame has been taken (R73, step 6). -/
def Encoder.frameDue (e : Encoder) : Bool := e.state = .running && decide (Config.frameSamples ≤ e.samples)

/-- The length limit is reached (R76). -/
def Encoder.lengthDue (e : Encoder) : Bool := e.state = .running && decide (e.lengthLimit ≤ e.frames)

/-- The no-voice limit is reached and the length limit is not (R76). -/
def Encoder.noVoiceDue (e : Encoder) : Bool :=
  e.state = .running && !e.lengthDue && decide (e.noVoiceLimit ≠ 0 ∧ e.noVoiceLimit ≤ e.pendingSilence)

/-- One sample taken in RUNNING (R73). An encoder whose frame end or limit is due takes none until that step is taken. -/
def Encoder.take (x : Int) (e : Encoder) : Encoder :=
  if e.state = .running ∧ e.frameDue = false ∧ e.lengthDue = false ∧ e.noVoiceDue = false then
    let n := e.quant.nibble x
    { e with quant := e.quant.apply n, nibbles := e.nibbles ++ [n], peak := max e.peak x.natAbs, samples := e.samples + 1 }
  else e

/-- The frame just ended is silent (R74). -/
def Encoder.silent (threshold : Nat) (e : Encoder) : Bool := decide (threshold ≠ 0 ∧ e.peak ≤ threshold)

/-- The encoder with its next frame begun from quantiser `q` (R74). -/
def Encoder.nextFrame (e : Encoder) (q : Quantiser) : Encoder :=
  { e with quant := q, start := q, samples := 0, peak := 0, nibbles := [], frames := e.frames + 1 }

/-- After a silent frame: the predictor and step index return to the frame-start values, and the pending silence count
rises (R74). -/
def Encoder.afterSilent (e : Encoder) : Encoder :=
  { e.nextFrame e.start with pendingSilence := e.pendingSilence + 1 }

/-- After a voice frame: the pending silence has been offered (R75). -/
def Encoder.afterVoice (e : Encoder) : Encoder := { e.nextFrame e.quant with pendingSilence := 0 }

/-- The SILENCE stream frames for a pending silence count: whole runs of 127, then the remainder (R75). -/
def silenceRuns (n : Nat) : List (List Octet) :=
  List.replicate (n / 127) [0x7F] ++ if n % 127 = 0 then [] else [[BitVec.ofNat 8 (n % 127)]]

/-- Code nibbles packed two per octet, the first in the high nibble (R73). -/
def packNibbles : List Nat → List Octet
  | a :: b :: l => BitVec.ofNat 8 (a * 16 + b) :: packNibbles l
  | _ => []

/-- The VOICE stream frame of the frame just ended (R75, R21). -/
def Encoder.voiceFrame (e : Encoder) : List Octet :=
  BitVec.ofNat 8 (0x80 + e.start.i) :: octetsInt16 e.start.p ++ packNibbles e.nibbles

/-- The encoder finished (R77, steps 1 and 2): the samples of the incomplete frame and the pending silence are dropped. -/
def Encoder.finish (e : Encoder) : Encoder :=
  { e with state := .finished, samples := 0, peak := 0, nibbles := [], pendingSilence := 0 }

/-! ## Decoder -/

/-- A decoder at the start of an item of the extent given (R78). -/
def decoderStarted (extent : Nat) : Decoder := { Decoder.reset with extent := extent }

/-- What the decoder makes of one highway frame (R79, R80). -/
inductive Decoded where
  /-- An octet is needed that has not arrived: the silence code, and nothing advances. -/
  | wait
  /-- The item ends: the silence code. -/
  | ends
  /-- The silence code of a SILENCE run, with the decoder moved on. -/
  | quiet (d : Decoder)
  /-- The recompanded predictor of the decoder moved on. -/
  | voice (d : Decoder)
deriving DecidableEq, Repr

/-- The decoder after one nibble, with `left` samples left in the VOICE frame. -/
def Decoder.sound (d : Decoder) (nibble left : Nat) : Decoder :=
  { d with quant := d.quant.apply nibble, inPlay := if left = 0 then .nothing else .voice left }

/-- The decoder with a SILENCE run that has `left` samples left. -/
def Decoder.hush (d : Decoder) (left : Nat) : Decoder :=
  { d with inPlay := if left = 0 then .nothing else .silence left }

/-- The first stream frame octet at the position: a new stream frame is begun (R79). `octet` gives the octets of the item
that have arrived. -/
def Decoder.begin (octet : Nat → Option Octet) (d : Decoder) : Decoded :=
  if d.extent ≤ d.position then .ends
  else
    match octet d.position with
    | none => .wait
    | some t =>
      if t = 0 ∨ 0xA8 ≤ t.toNat then .ends
      else if t.toNat ≤ 0x7F then .quiet ({ d with position := d.position + 1 }.hush (160 * t.toNat - 1))
      else if d.extent < d.position + Config.voiceOctets then .ends
      else
        match octet (d.position + 1), octet (d.position + 2), octet (d.position + 3) with
        | some a, some b, some c =>
          .voice ({ d with quant := { p := clampLinear (fieldInt16 a b), i := t.toNat - 0x80 },
                           position := d.position + 4, lastOctet := c }.sound (c.toNat / 16) 159)
        | _, _, _ => .wait

/-- One highway frame of a decoder whose channel has a current item (R79, R80). -/
def Decoder.step (octet : Nat → Option Octet) (d : Decoder) : Decoded :=
  match d.inPlay with
  | .silence (n + 1) => .quiet (d.hush n)
  | .voice (n + 1) =>
    if n % 2 = 1 then
      if d.extent ≤ d.position then .ends
      else
        match octet d.position with
        | none => .wait
        | some o => .voice ({ d with position := d.position + 1, lastOctet := o }.sound (o.toNat / 16) n)
    else .voice (d.sound (d.lastOctet.toNat % 16) n)
  | _ => d.begin octet

end Sys2Proof.Machine
end

