-- ==== Sys2Proof/Machine/Store.lean ====
section
/-! DEFINITION. The message store's operations (Chapter 6): block places, allocation, headers, program results, commit,
heard messages, marks and the delete path. -/

namespace Sys2Proof.Machine

/-! ## Message records -/

/-- The record of a message, by its serial (R102). -/
def State.message (s : State) (n : Nat) : Option Message := s.store.messages.find? (·.serial = n)

/-- `s` with the record of message `n` changed by `f`. -/
def State.updMessage (s : State) (n : Nat) (f : Message → Message) : State :=
  { s with store := { s.store with messages := s.store.messages.map fun m => if m.serial = n then f m else m } }

/-- `s` without the record of message `n`. -/
def State.dropMessage (s : State) (n : Nat) : State :=
  { s with store := { s.store with messages := s.store.messages.filter fun m => m.serial ≠ n } }

/-- No page of the message has been programmed with pass. -/
def Message.unprogrammed (m : Message) : Bool := m.blocks.all (·.valid = 0)

/-- A program of one of the message's pages is in progress (R113). -/
def State.programming (s : State) (n : Nat) : Bool :=
  match s.port.op with
  | some (.ringProgram _ n' ..) => n = n'
  | _ => false

/-! ## Block places (R100) -/

/-- A block joins the bad table, which holds no block twice. -/
def badInsert (b : Nat) (l : List Nat) : List Nat := if l.contains b then l else l ++ [b]

/-- Each block of a list, in order, joins the bad table if its retire flag is set and the dirty-list tail if not (R112,
R113). -/
def releaseBlocks (blocks : List BlockEntry) (s : State) : State :=
  { s with store := { s.store with
      dirty := s.store.dirty ++ (blocks.filter (!·.retire)).map (·.block)
      bad := ((blocks.filter (·.retire)).map (·.block)).foldl (fun l b => badInsert b l) s.store.bad } }

/-- The store-low test (R115). -/
def storeLowTest (s : State) : State :=
  if s.store.mounted = true ∧
      s.store.free.length + s.store.dirty.length + (if s.store.erasing.isSome then 1 else 0) < s.store.lowWater then
    place .storeLow s
  else s

/-- A message's blocks are released and its record leaves the directory (R112 step 3, R113), and the store-low test is
made (R115). -/
def reclaim (n : Nat) (s : State) : State :=
  match s.message n with
  | none => s
  | some m => storeLowTest ((releaseBlocks m.blocks s).dropMessage n)

/-! ## Marks (R111) -/

/-- A mark that failed, or is taken at once as one (R111). -/
def markFailed (k : MarkKind) (n : Nat) (s : State) : State :=
  match k with
  | .heard => place .flashFault s
  | .deleted => reclaim n (place .flashFault s)

/-- A mark is queued, or taken at once as failed when its page is recorded as not blank (R110, R111, R113). -/
def queueMark (k : MarkKind) (n : Nat) (s : State) : State :=
  match s.message n with
  | none => s
  | some m =>
    if (match k with | .heard => m.blank14 | .deleted => m.blank15) then
      { s with store := { s.store with marks := s.store.marks ++ [(n, k)] } }
    else markFailed k n s

/-- A DELETING message is settled when no reader, no program and no DELETED mark stands in the way (R113). -/
def settle (n : Nat) (s : State) : State :=
  match s.message n with
  | none => s
  | some m =>
    if m.state = .deleting ∧ m.readers = 0 ∧ s.programming n = false ∧ m.deletedPending = false then
      queueMark .deleted n (s.updMessage n fun m => { m with deletedPending := true })
    else s

/-! ## The delete path (R112) -/

/-- The room's record after a message of the state given leaves its mailbox, or its recording (R23). -/
def messageLeft (m : Message) (x : Room) : Room :=
  match m.state with
  | .recording => { x with recordings := x.recordings - 1 }
  | .new =>
    { x with mailbox := x.mailbox.filter (· ≠ m.serial), newCount := x.newCount - 1,
             urgentCount := if m.urgent then x.urgentCount - 1 else x.urgentCount }
  | .heard => { x with mailbox := x.mailbox.filter (· ≠ m.serial) }
  | .deleting => x

/-- A message enters the delete path (R112). The event that brought it hands the room over once its changes are made
(R25). A message already DELETING is not entered again. -/
def deletePath (n : Nat) (s : State) : State :=
  match s.message n with
  | none => s
  | some m =>
    if m.state = .deleting then s
    else
      let s := s.updRoom m.room (messageLeft m)
      let s := { s with store := { s.store with marks := s.store.marks.filter (· ≠ (n, .heard)) } }
      if m.unprogrammed then reclaim n s
      else settle n (s.updMessage n fun m => { m with state := .deleting })

/-! ## Heard messages (R110) -/

/-- A channel asks the store to make a message HEARD. -/
def makeHeard (n : Nat) (s : State) : State :=
  match s.message n with
  | none => s
  | some m =>
    if m.state = .new then
      let s := s.updMessage n fun m => { m with state := .heard }
      let s := s.updRoom m.room fun x =>
        { x with newCount := x.newCount - 1, urgentCount := if m.urgent then x.urgentCount - 1 else x.urgentCount }
      queueMark .heard n (evaluateLamp m.room s)
    else s

/-! ## Creation and commit -/

/-- The store can create a message (R103). -/
def State.canCreate (s : State) : Bool :=
  decide (s.store.messages.length < Config.maxMessages ∧ s.store.nextSerial ≠ Config.maxSerial)

/-- A RECORDING message is created for a room with the next serial (R51, R102, R103), and the room's recording count rises
(R23). -/
def createMessage (r : RoomIx) (s : State) : State :=
  let m : Message :=
    { serial := s.store.nextSerial, room := r, state := .recording, urgent := false, origin := none, day := s.clock.day,
      second := s.clock.seconds, readers := 0, deletedPending := false, head := none, blocks := [], blank14 := true,
      blank15 := true, written := 0 }
  let s := { s with store := { s.store with messages := s.store.messages ++ [m], nextSerial := s.store.nextSerial + 1 } }
  s.updRoom r fun x => { x with recordings := x.recordings + 1 }

/-- The room's record after a message is committed as NEW, or entered NEW or HEARD by a mount (R23). -/
def messageEntered (n : Nat) (new urgent : Bool) (x : Room) : Room :=
  { x with mailbox := serialInsert n x.mailbox, newCount := if new then x.newCount + 1 else x.newCount,
           urgentCount := if new && urgent then x.urgentCount + 1 else x.urgentCount }

/-- At the end of a flush the message is committed or takes the delete path (R109). -/
def commit (n voiceFrames : Nat) (s : State) : State :=
  match s.message n with
  | none => s
  | some m =>
    if m.unprogrammed = true ∨ voiceFrames < Config.minVoiceFrames ∨ (s.room m.room).occupancy ≠ .occupied then
      deletePath n s
    else
      let s := s.updMessage n fun m => { m with state := .new }
      let s := s.updRoom m.room fun x => messageEntered n true m.urgent { x with recordings := x.recordings - 1 }
      evaluateLamp m.room s

/-! ## Flash pages for a recording -/

/-- A block can be allocated to a message (R104, R107). -/
def State.canAllocate (s : State) (m : Message) : Bool := m.blocks.length < Config.maxBlocks && !s.store.free.isEmpty

/-- The free-list head is appended to the block list of message `n`, with `given` of its pages given out (R104, R106). -/
def allocate (n given : Nat) (s : State) : State :=
  match s.store.free with
  | [] => s
  | b :: rest =>
    let s := { s with store := { s.store with free := rest } }
    storeLowTest (s.updMessage n fun m =>
      { m with blocks := m.blocks ++ [{ block := b, valid := 0, retire := false }], written := given })

/-- The flash page the store gives for the next stream page of message `n` (R104): none when the recording is
exhausted. -/
def givePage (n : Nat) (s : State) : Option (Nat × Nat) × State :=
  match s.message n with
  | none => (none, s)
  | some m =>
    match m.blocks.getLast? with
    | some e =>
      if m.written < 16 then (some (e.block, m.written), s.updMessage n fun m => { m with written := m.written + 1 })
      else if s.canAllocate m then (some (s.store.free.headD 0, 0), allocate n 1 s) else (none, s)
    | none => if s.canAllocate m then (some (s.store.free.headD 0, 0), allocate n 1 s) else (none, s)

/-- The blocks before `b` in a block list whose page 0 has been programmed with pass (R105). -/
def passedBefore (b : Nat) (l : List BlockEntry) : Nat := (l.takeWhile (·.block ≠ b)).countP fun e => decide (1 ≤ e.valid)

/-- Page 0 of block `b` of the message carries the HEAD header (R105). -/
def Message.headAt (m : Message) (b : Nat) : Bool := passedBefore b m.blocks = 0

/-- The spare area programmed with page `p` of block `b` of the message, as the record stands at the issue (R105). -/
def Message.spareFor (m : Message) (b p : Nat) : List Octet :=
  if p ≠ 0 then blankSpare else if m.headAt b then headSpare m else contSpare m.serial (passedBefore b m.blocks)

/-- A program passed on page `p` of block `b` (R106). -/
def pagePassed (n b p : Nat) (head : Bool) (s : State) : State :=
  s.updMessage n fun m =>
    { m with blocks := m.blocks.map fun e => if e.block = b then { e with valid := p + 1 } else e
             head := if p = 0 ∧ head = true then some b else m.head }

/-- A program failed on block `b`: its retire flag is set and FLASH_FAULT is placed (R106, R108). -/
def blockRetired (n b : Nat) (s : State) : State :=
  place .flashFault (s.updMessage n fun m =>
    { m with blocks := m.blocks.map fun e => if e.block = b then { e with retire := true } else e })

/-- The block after `b` in a block list. -/
def blockAfter (b : Nat) : List BlockEntry → Option Nat
  | [] => none
  | e :: l => if e.block = b then (l.head?).map (·.block) else blockAfter b l

end Sys2Proof.Machine
end

