-- ==== Sys2Proof/Machine/Rings.lean ====
section
/-! DEFINITION. The staging rings (Chapter 5): room, stream pages, program and read requests, items, discards. -/

namespace Sys2Proof.Machine

/-! ## Counts of a ring (R81) -/

/-- Pages in use. -/
def Ring.inUse (r : Ring) : Nat := r.recorded.length + r.items.length + r.held.length

/-- Free pages. -/
def Ring.freePages (r : Ring) : Nat := r.size - r.inUse

/-- Outstanding programs. -/
def Ring.outPrograms (r : Ring) : Nat := r.recorded.countP RecPage.inProgram + r.held.countP (· = .program)

/-- An item page whose read is requested or in progress. -/
def ItemPage.awaited (p : ItemPage) : Bool :=
  match p.status with
  | .reserved | .reading => true
  | .arrived _ => false

/-- Outstanding reads. -/
def Ring.outReads (r : Ring) : Nat := r.items.countP ItemPage.awaited + r.held.countP (· = .read)

/-- A recorded page that is FULL. -/
def RecPage.isFull (p : RecPage) : Bool := p.status = .full

/-- A recorded page whose program is in progress. -/
def RecPage.isProgramming (p : RecPage) : Bool :=
  match p.status with
  | .programming .. => true
  | _ => false

/-- The use of channel `c`'s ring (R81). -/
def State.ringUse (s : State) (c : ChannelIx) : RingUse :=
  if (s.ring c).recorded ≠ [] ∨ (s.chan c).state = .record then .recording
  else if (s.ring c).item.isSome then .playback else .idle

/-! ## Recording into a ring (R83) -/

/-- The ring's room: the octets left in the FILLING page, and 512 for each free page. -/
def Ring.room (r : Ring) : Nat :=
  (match r.recorded.find? (·.status = .filling) with | some p => Config.pageOctets - p.data.length | none => 0) +
    Config.pageOctets * r.freePages

/-- A page with one octet more, FULL when it holds 512. -/
def RecPage.add (o : Octet) (p : RecPage) : RecPage :=
  { p with data := p.data ++ [o], status := if p.data.length + 1 = Config.pageOctets then .full else .filling }

/-- One octet appended to the stream: into the FILLING page, or into a new page with the next stream page number. -/
def Ring.add (r : Ring) (o : Octet) : Ring :=
  if r.recorded.any (·.status = .filling) then
    { r with recorded := r.recorded.map fun p => if p.status = .filling then p.add o else p }
  else
    { r with recorded := r.recorded ++ [RecPage.add o { number := r.nextPage, data := [], status := .filling }],
             nextPage := r.nextPage + 1 }

/-- The ring takes a stream frame: a recording not ended, and a length within the room. -/
def Ring.accepts (r : Ring) (frame : List Octet) : Bool := !r.ended && decide (frame.length ≤ r.room)

/-- The FILLING page completed with 0xFF octets becomes FULL. -/
def Ring.pad (r : Ring) : Ring :=
  { r with recorded := r.recorded.map fun p =>
      if p.status = .filling then
        { p with data := p.data ++ List.replicate (Config.pageOctets - p.data.length) 0xFF, status := .full }
      else p }

/-- The encoder's finish reaches the ring: END is offered, recording ended becomes yes, and the FILLING page is padded
(R77, R83). -/
def Ring.finish (r : Ring) : Ring :=
  let r := if r.accepts [0x00] then r.add 0x00 else r
  { r with ended := true }.pad

/-- The ring at entry to RECORD (R83). -/
def Ring.startRecording (r : Ring) : Ring := { r with ended := false, exhausted := false, nextPage := 0 }

/-- A program request is due (R84). -/
def Ring.programDue (r : Ring) : Bool :=
  (r.outPrograms = 0 && decide (1 ≤ r.recorded.countP RecPage.isFull)) ||
    (r.outPrograms = 1 && decide ((if r.ended then 1 else 2) ≤ r.recorded.countP RecPage.isFull))

/-- The oldest FULL page becomes REQUESTED with its flash page and age. -/
def requestFirst (block page age : Nat) : List RecPage → List RecPage
  | [] => []
  | p :: l =>
    if p.isFull then { p with status := .requested block page age } :: l else p :: requestFirst block page age l

/-- Every recorded page that is not PROGRAMMING leaves the ring (R87). -/
def Ring.discard (r : Ring) : Ring := { r with recorded := r.recorded.filter RecPage.isProgramming }

/-- RESET_CHANNEL's discard: a PROGRAMMING page becomes a held page, and recording ended becomes no (R87). -/
def Ring.discardReset (r : Ring) : Ring :=
  { r with recorded := [], ended := false, exhausted := false,
           held := r.held ++ (r.recorded.filter RecPage.isProgramming).map fun _ => .program }

/-! ## Playing from a ring -/

/-- A read request is due (R89). -/
def Ring.readDue (r : Ring) : Bool :=
  decide (r.nextItem < r.itemCount) &&
    ((r.outReads = 0 && decide (1 ≤ r.freePages)) || (r.outReads = 1 && decide (2 ≤ r.freePages)))

/-- One read request raised when it is due (R89). -/
def Ring.raiseRead (r : Ring) : Ring :=
  if r.readDue then
    { r with items := r.items ++ [{ index := r.nextItem, status := .reserved }], nextItem := r.nextItem + 1 }
  else r

/-- The read requests due are raised: at most two stand at once (R89). -/
def Ring.raiseReads (r : Ring) : Ring := r.raiseRead.raiseRead

/-- An item leaves the ring (R92): ARRIVED and RESERVED pages leave, a READING page becomes a held page. -/
def Ring.leave (r : Ring) : Ring :=
  { r with item := none, itemFlash := [], itemCount := 0, nextItem := 0, items := [],
           held := r.held ++ (r.items.filter (·.status = .reading)).map fun _ => .read }

/-- The ring takes an item with its page sequence (R88), and its first read requests are raised. -/
def Ring.take (item : PlayItem) (pages : List Nat) (r : Ring) : Ring :=
  Ring.raiseReads { r with item := some item, itemFlash := pages, itemCount := pages.length, nextItem := 0, items := [] }

/-- The octet of the item's stream at a position, if it has arrived (R80, R88). -/
def Ring.octet (r : Ring) (pos : Nat) : Option Octet :=
  match r.items.find? (·.index = pos / Config.pageOctets) with
  | some { status := .arrived data, .. } => data[pos % Config.pageOctets]?
  | _ => none

/-- Item pages that the position has moved past leave the ring, and read requests are raised (R89, R90). -/
def Ring.advance (r : Ring) (pos : Nat) : Ring :=
  Ring.raiseReads { r with items := r.items.filter fun p => decide (pos < Config.pageOctets * (p.index + 1)) }

/-- A read passed: the READING page has ARRIVED (R90). -/
def Ring.arrive (data : List Octet) (r : Ring) : Ring :=
  Ring.raiseReads
    { r with items := r.items.map fun p => if p.status = .reading then { p with status := .arrived data } else p }

/-- A read of item page `k` failed: the item is cut there (R91). -/
def Ring.cut (k : Nat) (r : Ring) : Ring :=
  { r with itemCount := k, nextItem := k, items := r.items.filter fun p => decide (p.index < k) }

/-- One held page of a kind leaves the ring (R87, R92). -/
def Ring.dropHeld (k : HeldPage) (r : Ring) : Ring := { r with held := r.held.erase k }

/-! ## The pages of an item (R88) -/

/-- The flash pages of a message: the valid pages of each block of its block list, in order. -/
def Message.pages (m : Message) : List Nat := m.blocks.flatMap fun e => (List.range e.valid).map (e.block * 16 + ·)

/-- The flash pages of a prompt. -/
def PromptEntry.pages (e : PromptEntry) : List Nat := (List.range e.count).map (e.first + ·)

end Sys2Proof.Machine
end

