-- ==== Sys2Proof/Machine/Voice.lean ====
section
/-! DEFINITION. The voice channels (Chapter 3): play lists, the three dialogues, flushing, program requests with their
exhaustion (R84, R107), keys, closing and freeing. -/

namespace Sys2Proof.Machine

/-! ## Prompts (R46) -/

/-- GREETING. -/
def pGreeting : PlayItem := .prompt 0
/-- TONE. -/
def pTone : PlayItem := .prompt 1
/-- NOT_IN_SERVICE. -/
def pNotInService : PlayItem := .prompt 2
/-- MAILBOX_FULL. -/
def pMailboxFull : PlayItem := .prompt 3
/-- STORE_FULL. -/
def pStoreFull : PlayItem := .prompt 4
/-- YOU_HAVE. -/
def pYouHave : PlayItem := .prompt 5
/-- NEW_MESSAGES. -/
def pNewMessages : PlayItem := .prompt 6
/-- KEPT_MESSAGES. -/
def pKeptMessages : PlayItem := .prompt 7
/-- NO_MESSAGES. -/
def pNoMessages : PlayItem := .prompt 8
/-- AFTER_MENU. -/
def pAfterMenu : PlayItem := .prompt 9
/-- DELETED. -/
def pDeleted : PlayItem := .prompt 10
/-- GOODBYE. -/
def pGoodbye : PlayItem := .prompt 11
/-- CALL_DENIED. -/
def pCallDenied : PlayItem := .prompt 12
/-- CREDIT_LIMIT. -/
def pCreditLimit : PlayItem := .prompt 13
/-- TRY_LATER. -/
def pTryLater : PlayItem := .prompt 14
/-- URGENT. -/
def pUrgent : PlayItem := .prompt 15
/-- END_OF_MESSAGES. -/
def pEndOfMessages : PlayItem := .prompt 16
/-- CONTACT_DESK. -/
def pContactDesk : PlayItem := .prompt 17
/-- TIME_LIMIT. -/
def pTimeLimit : PlayItem := .prompt 18
/-- MESSAGE_SAVED. -/
def pMessageSaved : PlayItem := .prompt 19

/-- The decimal digits of a number below 10^`fuel`, most significant first, without leading zeros. -/
def decimalFrom : Nat → Nat → List Nat
  | 0, _ => []
  | fuel + 1, n => if n < 10 then [n] else decimalFrom fuel (n / 10) ++ [n % 10]

/-- A number spoken as DIGIT_0 to DIGIT_9 (R46). -/
def spoken (n : Nat) : List PlayItem := (decimalFrom 7 n).map fun d => .prompt (Fin.ofNat 32 (20 + d))

/-- A message count spoken: a count above 99 is spoken as 99 (R46). -/
def spokenCount (n : Nat) : List PlayItem := spoken (min n 99)

/-! ## Play lists (R45) -/

/-- The current item of a channel stops and leaves its ring (R45, R92). -/
def leaveItem (c : ChannelIx) (s : State) : State := s.updRing c Ring.leave

/-- The ring is given to an item and the decoder starts on its stream (R45, R78, R88). -/
def takeItem (c : ChannelIx) (item : PlayItem) (pages : List Nat) (s : State) : State :=
  (s.updRing c (Ring.take item pages)).updDecoder c fun _ => decoderStarted (Config.pageOctets * pages.length)

/-- A list is played from its head: prompts with no directory entry are removed with PROMPT_MISSING, and the first other
item becomes current (R45). -/
def startList (c : ChannelIx) : List PlayItem → State → State
  | [], s => s.updChan c fun x => { x with playList := [] }
  | .prompt id :: rest, s =>
    match s.store.prompts[id] with
    | none => startList c rest (place .promptMissing s)
    | some e => takeItem c (.prompt id) e.pages (s.updChan c fun x => { x with playList := .prompt id :: rest })
  | .message n :: rest, s =>
    takeItem c (.message n) ((s.message n).elim [] Message.pages)
      (s.updChan c fun x => { x with playList := .message n :: rest })

/-- The current item stops and a new list is played (R45). -/
def setList (c : ChannelIx) (l : List PlayItem) (s : State) : State := startList c l (leaveItem c s)

/-! ## Leaving a message, freeing and closing -/

/-- The channel leaves its current message (R59). -/
def leaveMessage (c : ChannelIx) (s : State) : State :=
  let x := s.chan c
  let s := s.updChan c fun x => { x with reading := false, current := none }
  match x.reading, x.current with
  | true, some n => settle n (s.updMessage n fun m => { m with readers := m.readers - 1 })
  | _, _ => s

/-- The channel enters FREE (R42): the reader count, the play list and key holder, the timer, and the slot are given up. -/
def enterFree (c : ChannelIx) (s : State) : State :=
  let slot := (s.chan c).slot
  let s := leaveItem c (leaveMessage c s)
  let s := s.updChan c fun x => { x with state := .free, playList := [], keyHolder := none, timer := none, slot := none }
  match slot with
  | some k => s.bind k none
  | none => s

/-- The closing ends (R61). -/
def closingEnd (c : ChannelIx) (s : State) : State :=
  enterFree c
    (match (s.chan c).slot with
     | some k => offerNotice (.slotDone (BitVec.ofNat 8 k.val) .completed) s
     | none => s)

/-- The channel enters CLOSING with a list; a list that empties at once ends the closing (R61). -/
def enterClosing (c : ChannelIx) (l : List PlayItem) (s : State) : State :=
  let s := setList c l (s.updChan c fun x => { x with state := .closing })
  if (s.chan c).playList = [] then closingEnd c s else s

/-! ## Recording: flush and exhaustion -/

/-- The flush ends (R50, R86): the message is handed for commit, the encoder becomes IDLE, and the channel goes on to
CLOSING, or to FREE when the caller has gone. -/
def flushEnd (c : ChannelIx) (s : State) : State :=
  let x := s.chan c
  let s :=
    match x.current with
    | some n => commit n (s.encoder c).voiceFrames s
    | none => s
  let s := s.updEncoder c fun e => { e with state := .idle }
  let s := s.updChan c fun x => { x with current := none }
  if x.callerPresent then enterClosing c x.playList s else enterFree c s

/-- In FLUSH, the flush ends when the recording has ended and the ring holds no recorded page (R86). -/
def flushTest (c : ChannelIx) (s : State) : State :=
  if (s.chan c).state = .flush ∧ (s.ring c).ended = true ∧ (s.ring c).recorded = [] then flushEnd c s else s

/-- A recording is exhausted (R107): STORE_FULL when the free list is empty, the store discard of the ring, and the end of
the recording when the channel is still in RECORD. Where the free list is empty and the block list holds 320 entries, the
cause given is the empty free list (log entry 35). -/
def exhaust (c : ChannelIx) (s : State) : State :=
  let full := s.store.free.isEmpty
  let s := if full then place .storeFull s else s
  let s := s.updRing c fun r => { r.discard with ended := true, exhausted := true }
  let s :=
    if (s.chan c).state = .record then
      (s.updEncoder c Encoder.finish).updChan c fun x =>
        { x with state := .flush, playList := [if full then pStoreFull else pTimeLimit, pGoodbye] }
    else s
  flushTest c s

/-- One program request is raised when it is due (R84): the store gives its flash page, or the recording is exhausted. -/
def raiseProgram (c : ChannelIx) (s : State) : State :=
  if (s.ring c).programDue then
    match givePage ((s.chan c).current.getD 0) s with
    | (some (b, p), s') =>
      let s' := s'.updRing c fun r => { r with recorded := requestFirst b p s'.port.nextAge r.recorded }
      { s' with port := { s'.port with nextAge := s'.port.nextAge + 1 } }
    | (none, s') => exhaust c s'
  else s

/-- The program requests due are raised: at most two stand at once (R84). -/
def raisePrograms (c : ChannelIx) (s : State) : State := raiseProgram c (raiseProgram c s)

/-- A recording ends by a cause other than exhaustion (R49): the encoder finishes, the closing list is loaded, the channel
enters FLUSH, and the ring drains its last pages (R84, R86). -/
def recordingEnd (c : ChannelIx) (l : List PlayItem) (callerGone : Bool) (s : State) : State :=
  let s := (s.updEncoder c Encoder.finish).updRing c Ring.finish
  let s := s.updChan c fun x =>
    { x with state := .flush, playList := l, callerPresent := x.callerPresent && !callerGone }
  flushTest c (raisePrograms c s)

/-- A stream frame is offered to the ring (R75, R83): accepted and appended, or dropped whole. An accepted VOICE frame
raises the voice-frame count. -/
def offerStream (c : ChannelIx) (voice : Bool) (frame : List Octet) (s : State) : State :=
  if (s.ring c).accepts frame then
    let s := s.updRing c fun r => frame.foldl Ring.add r
    let s := if voice then s.updEncoder c fun e => { e with voiceFrames := e.voiceFrames + 1 } else s
    raisePrograms c s
  else s

/-! ## Retrieval -/

/-- The menu timer starts with the menu timeout of the room's class (R56). -/
def startMenuTimer (c : ChannelIx) (s : State) : State :=
  match (s.chan c).room with
  | some r => s.updChan c fun x => { x with timer := some (s.classOf r).menuTimeout }
  | none => s

/-- The channel's list becomes [AFTER_MENU]; when it empties at once, the menu timer starts (R56). -/
def playMenu (c : ChannelIx) (s : State) : State :=
  let s := setList c [pAfterMenu] s
  if (s.chan c).playList = [] then startMenuTimer c s else s

/-- The message played has ended (R55). -/
def replayEnd (c : ChannelIx) (s : State) : State :=
  let s :=
    match (s.chan c).current with
    | some n => makeHeard n s
    | none => s
  playMenu c (s.updChan c fun x => { x with state := .listen, repeats := 0 })

/-- The first message of a mailbox in the state given with a serial above `last` (R54). -/
def State.candidate (s : State) (box : List Nat) (st : MsgState) (last : Option Nat) : Option Nat :=
  box.find? fun n =>
    (match last with | some k => decide (k < n) | none => true) &&
      (match s.message n with | some m => decide (m.state = st) | none => false)

/-- The next message, with the cursor's phase after the choice (R54, steps 1 and 2): KEPT when the second part is true. -/
def State.choice (s : State) (c : ChannelIx) : Option Nat × Bool :=
  let x := s.chan c
  let box := (x.room.map fun r => (s.room r).mailbox).getD []
  if x.kept then (s.candidate box .heard x.last, true)
  else
    match s.candidate box .new x.last with
    | some n => (some n, false)
    | none => (s.candidate box .heard none, true)

/-- The channel chooses its next message (R54) and becomes a reader of it (R59), or closes with END_OF_MESSAGES. -/
def chooseNext (c : ChannelIx) (s : State) : State :=
  match s.choice c with
  | (some n, kept) =>
    let s := s.updChan c fun x =>
      { x with state := .replay, kept := kept, last := some n, current := some n, reading := true }
    let s := s.updMessage n fun m => { m with readers := m.readers + 1 }
    let urgent := (s.message n).elim false (·.urgent)
    let s := setList c (if urgent then [pUrgent, .message n] else [.message n]) s
    if (s.chan c).playList = [] then replayEnd c s else s
  | (none, kept) =>
    let s := s.updChan c fun x => { x with kept := kept, last := if x.kept then x.last else none }
    enterClosing c [pEndOfMessages, pGoodbye] s

/-- The channel enters ANNOUNCE with a list; when it empties at once, the next message is chosen (R53). -/
def enterAnnounce (c : ChannelIx) (l : List PlayItem) (s : State) : State :=
  let s := setList c l (s.updChan c fun x => { x with state := .announce })
  if (s.chan c).playList = [] then chooseNext c s else s

/-! ## Deposit -/

/-- The channel enters RECORD for a message just created (R48, R49, R72, R83). -/
def enterRecord (c : ChannelIx) (r : RoomIx) (s : State) : State :=
  let n := s.store.nextSerial
  let k := s.classOf r
  let s := createMessage r s
  let s := s.updChan c fun x => { x with state := .record, playList := [], current := some n }
  (s.updEncoder c fun _ => encoderStarted k.maxLength k.noVoice).updRing c Ring.startRecording

/-- The GREET list has emptied: a message is created and recording begins, or the channel closes with STORE_FULL (R48). -/
def toneEnd (c : ChannelIx) (s : State) : State :=
  match (s.chan c).room with
  | some r =>
    if s.canCreate then enterRecord c r (leaveItem c s)
    else enterClosing c [pStoreFull, pGoodbye] (place .storeFull s)
  | none => s

/-- The channel enters, or goes on in, GREET with a list (R48). -/
def enterGreet (c : ChannelIx) (l : List PlayItem) (s : State) : State :=
  let s := setList c l (s.updChan c fun x => { x with state := .greet })
  if (s.chan c).playList = [] then toneEnd c s else s

/-! ## Items that end -/

/-- What the channel does when its play list has become empty (R45). -/
def listEmptied (c : ChannelIx) (s : State) : State :=
  match (s.chan c).state with
  | .greet => toneEnd c s
  | .announce => chooseNext c s
  | .replay => replayEnd c s
  | .listen => startMenuTimer c s
  | .closing => closingEnd c s
  | .free | .record | .flush => s

/-- The current item ends: it is removed and the next item becomes current (R45, R79). -/
def itemEnd (c : ChannelIx) (s : State) : State :=
  let s := setList c (s.chan c).playList.tail s
  if (s.chan c).playList = [] then listEmptied c s else s

/-! ## Diverts (R43, R44) -/

/-- DEPOSIT (R48). -/
def startDeposit (c : ChannelIx) (s : State) : State :=
  match (s.chan c).room with
  | none => enterClosing c [pNotInService, pGoodbye] s
  | some r =>
    if (s.room r).occupancy ≠ .occupied then enterClosing c [pNotInService, pGoodbye] s
    else if (s.classOf r).mailboxLimit ≤ (s.room r).mailbox.length then enterClosing c [pMailboxFull, pGoodbye] s
    else if Config.maxMessages ≤ s.store.messages.length ∨ s.store.free.length < s.store.reserve then
      enterClosing c [pStoreFull, pGoodbye] (place .storeFull s)
    else enterGreet c (pGreeting :: spoken ((s.chan c).extension.getD 0) ++ [pTone]) s

/-- RETRIEVE (R52). -/
def startRetrieve (c : ChannelIx) (s : State) : State :=
  match (s.chan c).room with
  | none => enterClosing c [pNotInService, pGoodbye] s
  | some r =>
    let x := s.room r
    let desk := if x.barred || x.desk then [pContactDesk] else []
    let k := x.mailbox.length - x.newCount
    if x.occupancy ≠ .occupied then enterClosing c [pNotInService, pGoodbye] s
    else if x.newCount = 0 ∧ k = 0 then enterClosing c (desk ++ [pNoMessages, pGoodbye]) s
    else
      enterAnnounce c
        (desk ++ [pYouHave] ++ spokenCount x.newCount ++ [pNewMessages] ++ spokenCount k ++ [pKeptMessages]) s

/-- The list of a NOTICE (R60). -/
def noticeList : Denial → List PlayItem
  | .vacant => [pNotInService, pGoodbye]
  | .barredDigits => [pCallDenied, pGoodbye]
  | .credit => [pCreditLimit, pGoodbye]
  | .capacity => [pTryLater, pGoodbye]
  | .none => [pGoodbye]

/-- NOTICE (R60). -/
def startNotice (c : ChannelIx) (s : State) : State :=
  match (s.chan c).room with
  | none => enterClosing c [pNotInService, pGoodbye] s
  | some r => enterClosing c (noticeList (s.room r).denial) s

/-- The lowest-numbered FREE channel. -/
def State.freeChannel (s : State) : Option ChannelIx :=
  (s.channels.toList.findIdx? fun x => decide (x.state = .free)).map (Fin.ofNat 32)

/-- A slot is the mapped slot of a trunk (R4). -/
def State.slotMapped (s : State) (k : Fin 126) : Bool := s.trunks.toList.any fun t => decide (t.slot = some k)

/-- The channel record at grant (R41). -/
def granted (slot : Fin 126) (x : Nat) (room : Option RoomIx) (p : Purpose) : Channel :=
  { Channel.reset with kind := some p, slot := some slot, extension := if x ≤ Config.maxExtension then some x else none,
                       room := room, callerPresent := true }

/-- The dialogue of a purpose starts (R44). -/
def startDialogue (c : ChannelIx) (p : Purpose) (s : State) : State :=
  match p with
  | .deposit => startDeposit c s
  | .retrieve => startRetrieve c s
  | .notice => startNotice c s

/-- A channel is granted: its record, its slot's binding, and the dialogue (R41, R43). -/
def grant (c : ChannelIx) (slot : Fin 126) (x : Nat) (p : Purpose) (s : State) : State :=
  startDialogue c p ((s.updChan c fun _ => granted slot x (s.lookup x) p).bind slot (some c))

/-- A DIVERT reaches the channel pool (R43). -/
def takeDivert (slot : Octet) (x : Nat) (p : Purpose) (s : State) : State :=
  if s.service ≠ .inService then offerNotice (.slotDone slot .refusedState) s
  else if h : slot.toNat < 126 then
    if (s.boundTo slot).isSome ∨ s.slotMapped ⟨slot.toNat, h⟩ = true then offerNotice (.slotDone slot .refusedSlot) s
    else
      match s.freeChannel with
      | none => offerNotice (.slotDone slot .refusedBusy) s
      | some c => grant c ⟨slot.toNat, h⟩ x p s
  else offerNotice (.slotDone slot .refusedSlot) s

/-! ## Keys (R47) -/

/-- The keys of REPLAY and LISTEN (R57). A key that acts makes the menu timer idle first (R56). -/
def messageKey (c : ChannelIx) (k : Key) (s : State) : State :=
  let idle := s.updChan c fun x => { x with timer := none }
  match (s.chan c).current with
  | none => s
  | some n =>
    match k with
    | .digit 1 =>
      let s := setList c [.message n] (idle.updChan c fun x => { x with state := .replay })
      if (s.chan c).playList = [] then replayEnd c s else s
    | .digit 2 => chooseNext c (leaveMessage c (makeHeard n idle))
    | .digit 3 =>
      let s := deletePath n idle
      let s :=
        match idle.message n with
        | some m => if m.state = .new ∨ m.state = .heard then evaluateLamp m.room s else s
        | none => s
      enterAnnounce c [pDeleted] (leaveMessage c s)
    | .hash => enterClosing c [pGoodbye] (leaveMessage c idle)
    | _ => s

/-- A key reaches the channel bound to its slot (R47). -/
def channelKey (c : ChannelIx) (k : Key) (s : State) : State :=
  let x := s.chan c
  match x.state with
  | .free => s
  | .greet => if k = .hash ∧ x.playList.head? ≠ some pTone then enterGreet c [pTone] s else s
  | .record =>
    match k with
    | .star =>
      match x.current with
      | some n => s.updMessage n fun m => { m with urgent := true }
      | none => s
    | .hash => recordingEnd c [pMessageSaved, pGoodbye] false s
    | .digit _ => s
  | .announce => chooseNext c (setList c [] s)
  | .replay | .listen => messageKey c k s
  | .flush | .closing =>
    if x.keyHolder.isNone then s.updChan c fun x => { x with keyHolder := some k } else s

/-- A KEY frame (R47). -/
def takeKey (slot : Octet) (k : Key) (s : State) : State :=
  match s.boundTo slot with
  | none => s
  | some c => drainTest (channelKey c k s)

/-! ## SLOT_CLEAR, close requests and RESET_CHANNEL -/

/-- The caller of channel `c` has gone (R62). A channel freed at once keeps caller present as it was: R42 keeps it, and the
sentence of R41 that makes it no is applied in RECORD and FLUSH alone (log entry 43). -/
def slotCleared (c : ChannelIx) (s : State) : State :=
  match (s.chan c).state with
  | .record => recordingEnd c [] true s
  | .flush => s.updChan c fun x => { x with callerPresent := false }
  | .free => s
  | .greet | .announce | .replay | .listen | .closing => enterFree c s

/-- A SLOT_CLEAR frame (R62). -/
def takeSlotClear (slot : Octet) (s : State) : State :=
  match s.boundTo slot with
  | none => s
  | some c => drainTest (slotCleared c s)

/-- A close request reaches channel `c` (R65). -/
def closeRequest (c : ChannelIx) (s : State) : State :=
  match (s.chan c).state with
  | .greet => enterClosing c [pGoodbye] s
  | .record => recordingEnd c [pMessageSaved, pGoodbye] false s
  | .announce | .replay | .listen => enterClosing c [pGoodbye] (leaveMessage c s)
  | .free | .flush | .closing => s

/-- The channels, in number order. -/
def channelIndices : List ChannelIx := List.finRange 32

/-- A non-FREE channel is reset (R63). -/
def channelReset (c : ChannelIx) (s : State) : State :=
  let x := s.chan c
  let s :=
    if x.state = .record ∨ x.state = .flush then
      match x.current with
      | some n => deletePath n s
      | none => s
    else s
  let s := (s.updRing c fun r => r.discardReset.leave).updEncoder c fun _ => Encoder.reset
  let s := enterFree c s
  match x.slot with
  | some k => offerNotice (.slotDone (BitVec.ofNat 8 k.val) .reset) s
  | none => s

/-! ## Menu timer and encoder steps -/

/-- The menu timer expires (R56): only in LISTEN, with its count at 0. -/
def menuExpiry (c : ChannelIx) (s : State) : State :=
  let x := s.chan c
  if x.state = .listen ∧ x.timer = some 0 then
    if x.repeats = 0 then playMenu c (s.updChan c fun x => { x with timer := none, repeats := 1 })
    else enterClosing c [pGoodbye] (leaveMessage c (s.updChan c fun x => { x with timer := none }))
  else s

/-- A speech frame ends on channel `c` (R74, R75): only when its 160th sample has been taken. -/
def speechFrameEnd (c : ChannelIx) (s : State) : State :=
  let e := s.encoder c
  if (s.chan c).state = .record ∧ e.frameDue = true then
    if e.silent s.coder.threshold then s.updEncoder c Encoder.afterSilent
    else
      let s := (silenceRuns e.pendingSilence).foldl (fun s run => offerStream c false run s)
        (s.updEncoder c Encoder.afterVoice)
      offerStream c true e.voiceFrame s
  else s

/-- The recording of channel `c` reaches its length limit (R76). -/
def maxLength (c : ChannelIx) (s : State) : State :=
  if (s.chan c).state = .record ∧ (s.encoder c).lengthDue = true then recordingEnd c [pTimeLimit, pGoodbye] false s else s

/-- The recording of channel `c` reaches its no-voice limit (R76). -/
def noVoice (c : ChannelIx) (s : State) : State :=
  if (s.chan c).state = .record ∧ (s.encoder c).noVoiceDue = true then
    recordingEnd c [pMessageSaved, pGoodbye] false s
  else s

/-! ## The meanings of the channel events -/

/-- DIVERT (R43). -/
def execDivert (slot : Octet) (x : Nat) (p : Purpose) (s : State) : Host.Outcome State Fault Refusal :=
  event (takeDivert slot x p) s

/-- SLOT_CLEAR (R62). -/
def execSlotClear (slot : Octet) (s : State) : Host.Outcome State Fault Refusal := event (takeSlotClear slot) s

/-- KEY (R47). -/
def execKey (slot : Octet) (k : Key) (s : State) : Host.Outcome State Fault Refusal := event (takeKey slot k) s

/-- SPEECH_FRAME_END (R74). -/
def execSpeechFrameEnd (c : ChannelIx) (s : State) : Host.Outcome State Fault Refusal :=
  event (fun s => drainTest (speechFrameEnd c s)) s

/-- MAX_LENGTH_REACHED (R76). -/
def execMaxLengthReached (c : ChannelIx) (s : State) : Host.Outcome State Fault Refusal :=
  event (fun s => drainTest (maxLength c s)) s

/-- NO_VOICE_TIMEOUT (R76). -/
def execNoVoiceTimeout (c : ChannelIx) (s : State) : Host.Outcome State Fault Refusal :=
  event (fun s => drainTest (noVoice c s)) s

/-- MENU_TIMER_EXPIRY (R56). -/
def execMenuTimerExpiry (c : ChannelIx) (s : State) : Host.Outcome State Fault Refusal :=
  event (fun s => drainTest (menuExpiry c s)) s

end Sys2Proof.Machine
end

