-- ==== Sys2Proof/Machine/Maintenance.lean ====
section
/-! DEFINITION. The store and prompt commands (Chapter 6): SET_GEOMETRY, MOUNT, QUERY_STORE and the PROMPT commands, with
the end of the prompt jobs and the resolution of a mount (R118–R121). -/

namespace Sys2Proof.Machine

/-! ## Geometry (R82, R99) -/

/-- The total block count of a code 0–4 (R19). -/
def totalBlocksOf (code : Nat) : Nat := 4096 * 2 ^ code

/-- The prompt-area block count of a code 0–3 (R19). -/
def promptBlocksOf (code : Nat) : Nat := 64 * 2 ^ code

/-- The prompt-area page count (R99). -/
def Store.promptPages (t : Store) : Nat := t.promptBlocks * 16

/-- A prompt directory entry kept when it fits an area of `pages` pages (R99, R122). -/
def keepPrompt (pages : Nat) (e : Option PromptEntry) : Option PromptEntry :=
  e.filter fun x => decide (x.first + x.count ≤ pages)

/-- The geometry and the ring sizes loaded together (R82, R99). -/
def setGeometry (total area : Nat) (sizes : List Octet) (s : State) : State :=
  { s with
    store := { s.store with geometrySet := true, totalBlocks := totalBlocksOf total, promptBlocks := promptBlocksOf area,
                            prompts := mapVector (keepPrompt (promptBlocksOf area * 16)) s.store.prompts,
                            buffer := LoadBuffer.reset }
    rings := Vector.zipWith (fun r (z : Octet) => { r with size := z.toNat }) s.rings (vectorOf 32 0 sizes) }

/-- SET_GEOMETRY (R82, R99). -/
def workSetGeometry : List Octet → State → Work
  | total :: area :: sizes, s =>
    if sizes.length ≠ 32 then .refuse .badArgument s
    else if s.service ≠ .setup then .refuse .badState s
    else if sizes.all (fun z => decide (2 ≤ z.toNat ∧ z.toNat ≤ 16)) = false then .refuse .badArgument s
    else if Config.poolPages < (sizes.map (·.toNat)).sum then .refuse .badArgument s
    else if 4 < total.toNat ∨ 3 < area.toNat then .refuse .badArgument s
    else if s.store.mounted then .refuse .badState s
    else .done .ok [] (setGeometry total.toNat area.toNat sizes s)
  | _, s => .refuse .badArgument s

/-! ## MOUNT and QUERY_STORE -/

/-- The mount job at its start: every entry of the working table unread (R117). -/
def MountJob.start : MountJob := { classes := [], todo := [], page14 := false, found := [] }

/-- MOUNT (R117, R183). -/
def workMount : List Octet → State → Work
  | [], s =>
    if s.service = .setup ∧ s.store.geometrySet = true ∧ s.store.mounted = false then
      .done .ok [] { s with service := .mounting, store := { s.store with job := .mount MountJob.start } }
    else .refuse .badState s
  | _, s => .refuse .badArgument s

/-- The reply data of QUERY_STORE (R20, R116): zeros until a mount has completed. -/
def Store.report (t : Store) : List Octet :=
  if t.mounted then
    [(1 : Octet)] ++ octets3 t.free.length ++ octets3 t.dirty.length ++ octets3 t.bad.length ++
      octets2 t.messages.length ++ octets4 t.nextSerial ++ octets2 t.marks.length
  else List.replicate 18 0

/-- QUERY_STORE (R116). -/
def workQueryStore : List Octet → State → Work
  | [], s => .done .ok s.store.report s
  | _, s => .refuse .badArgument s

/-! ## Prompt commands -/

/-- The condition of every prompt command: SETUP or SUSPENDED with the geometry set (R122, R123, R183). -/
def State.promptReady (s : State) : Bool := s.promptState && s.store.geometrySet

/-- `s` with the maintenance job replaced. -/
def State.setJob (s : State) (j : Job) : State := { s with store := { s.store with job := j } }

/-- PROMPT_ERASE (R126). -/
def workPromptErase : List Octet → State → Work
  | [], s =>
    if s.promptReady then
      .deferred { s with store := { s.store with prompts := Vector.replicate 32 none, buffer := LoadBuffer.reset,
                                                 job := .promptErase 0 0 [] } }
    else .refuse .badState s
  | _, s => .refuse .badArgument s

/-- The load buffer when a PROMPT_PAGE for `page` is accepted: emptied first when the page differs from the target
(R123). -/
def LoadBuffer.target1 (page : Nat) (b : LoadBuffer) : LoadBuffer :=
  if b.target = some page then b else { LoadBuffer.reset with target := some page }

/-- Octets written from an offset onward and marked sent (R123). -/
def LoadBuffer.write (offset : Nat) : List Octet → LoadBuffer → LoadBuffer
  | [], b => b
  | o :: l, b =>
    LoadBuffer.write (offset + 1) l
      { b with data := b.data.setIfInBounds offset o, sent := b.sent.setIfInBounds offset true }

/-- PROMPT_PAGE (R123). -/
def workPromptPage : List Octet → State → Work
  | a2 :: a1 :: a0 :: l, s =>
    let page := field24 a2 a1 a0 / Config.pageOctets
    let offset := field24 a2 a1 a0 % Config.pageOctets
    if l.length = 0 ∨ 56 < l.length then .refuse .badArgument s
    else if s.promptReady = false then .refuse .badState s
    else if s.store.promptPages ≤ page ∨ Config.pageOctets < offset + l.length then .refuse .badArgument s
    else .done .ok [] { s with store := { s.store with buffer := (s.store.buffer.target1 page).write offset l } }
  | _, s => .refuse .badArgument s

/-- PROMPT_COMMIT (R124). -/
def workPromptCommit : List Octet → State → Work
  | [], s =>
    if s.promptReady = false then .refuse .badState s
    else
      match s.store.buffer.target with
      | none => .refuse .badArgument s
      | some page => .deferred (s.setJob (.promptCommit page))
  | _, s => .refuse .badArgument s

/-- PROMPT_VERIFY (R125). -/
def workPromptVerify : List Octet → State → Work
  | [], s =>
    if s.promptReady = false then .refuse .badState s
    else
      match s.store.buffer.target with
      | none => .refuse .badArgument s
      | some page => .deferred (s.setJob (.promptVerify page))
  | _, s => .refuse .badArgument s

/-- PROMPT_BLANK (R125). -/
def workPromptBlank : List Octet → State → Work
  | [p1, p0], s =>
    if s.promptReady = false then .refuse .badState s
    else if s.store.promptPages ≤ field16 p1 p0 then .refuse .badArgument s
    else .deferred (s.setJob (.promptBlank (field16 p1 p0)))
  | _, s => .refuse .badArgument s

/-- `s` with one prompt directory entry replaced. -/
def State.setPrompt (s : State) (id : PromptId) (e : Option PromptEntry) : State :=
  { s with store := { s.store with prompts := s.store.prompts.set id e } }

/-- PROMPT_DIR (R122). -/
def workPromptDir : List Octet → State → Work
  | [id, f1, f0, c1, c0], s =>
    let first := field16 f1 f0
    let count := field16 c1 c0
    if s.promptReady = false then .refuse .badState s
    else if 31 < id.toNat then .refuse .badArgument s
    else if first = 0xFFFF then .done .ok [] (s.setPrompt (Fin.ofNat 32 id.toNat) none)
    else if s.store.promptPages < first + count then .refuse .badArgument s
    else .done .ok [] (s.setPrompt (Fin.ofNat 32 id.toNat) (some { first := first, count := count }))
  | _, s => .refuse .badArgument s

/-! ## The ends of the prompt jobs -/

/-- A prompt job ends with its reply (R179). -/
def jobReply (st : Status) (data : List Octet) (s : State) : State := buildReply st data (s.setJob .none)

/-- FLASH_FAULT is placed when work failed. -/
def faultIf (failed : Bool) (s : State) : State := if failed then place .flashFault s else s

/-- A prompt-area erase completes (R126). -/
def promptEraseDone (pass : Bool) (s : State) : State :=
  match s.store.job with
  | .promptErase next failed l =>
    let failed' := if pass then failed else failed + 1
    let l' := if pass || decide (28 ≤ l.length) then l else l ++ [next]
    if next + 1 < s.store.promptBlocks then s.setJob (.promptErase (next + 1) failed' l')
    else jobReply .ok (octets2 failed' ++ l'.flatMap octets2) (faultIf (0 < failed') s)
  | _ => s

/-- The PROMPT_COMMIT program completes (R124). -/
def promptProgramDone (pass : Bool) (s : State) : State :=
  jobReply (if pass then .ok else .full) [] (faultIf (!pass) s)

/-- Every sent octet of the buffer equals the octet read (R125). -/
def LoadBuffer.matches (b : LoadBuffer) (data : Vector Octet 512) : Bool :=
  (List.finRange 512).all fun i => !b.sent[i] || b.data[i] == data[i]

/-- Every octet is 0xFF. -/
def blankOctets (l : List Octet) : Bool := l.all (· == 0xFF)

/-- A READ_PAGE of a prompt job completes (R125); none is a failure. -/
def promptPageRead (data : Option (Vector Octet 512)) (s : State) : State :=
  match s.store.job, data with
  | .promptVerify _, some d => jobReply (if s.store.buffer.matches d then .ok else .mismatch) [] s
  | .promptVerify _, none => jobReply .mismatch [] (faultIf true s)
  | .promptBlank page, some d => s.setJob (.promptBlankSpare page (blankOctets d.toList))
  | .promptBlank _, none => jobReply .notBlank [] (faultIf true s)
  | _, _ => s

/-- The READ_SPARE of a PROMPT_BLANK completes (R125); none is a failure. -/
def promptSpareRead (spare : Option (Vector Octet 16)) (s : State) : State :=
  match s.store.job, spare with
  | .promptBlankSpare _ blank, some d => jobReply (if blank && blankOctets d.toList then .ok else .notBlank) [] s
  | .promptBlankSpare _ _, none => jobReply .notBlank [] (faultIf true s)
  | _, _ => s

/-! ## The mount (R118–R121) -/

/-- The class of a block by the spare area of its page 0 (R118). -/
def classifySpare (l : List Octet) : BlockClass :=
  if blankOctets l then .free
  else
    match readHead l with
    | some h => .head h
    | none =>
      match readCont l with
      | some (n, q) => .cont n q
      | none => .dirty

/-- The size of the message area (R99). -/
def Store.areaBlocks (t : Store) : Nat := t.totalBlocks - t.promptBlocks

/-- The blocks of the working table with their classes, ascending. -/
def MountJob.blocks (m : MountJob) (first : Nat) : List (Nat × BlockClass) := m.classes.zipIdx.map fun x => (first + x.2, x.1)

/-- The HEAD blocks of the working table, their mark pages not yet read (R119). -/
def headsOf (l : List (Nat × BlockClass)) : List MountHead :=
  l.filterMap fun x =>
    match x.2 with
    | .head h => some { block := x.1, info := h, heardMark := false, blank14 := false, deletedMark := false, blank15 := false }
    | _ => none

/-- The first of each serial is kept, the list being ascending by block (R120, Duplicates). -/
def firstHeads : List MountHead → List MountHead → List MountHead
  | kept, [] => kept
  | kept, h :: l => firstHeads (if kept.any (·.info.serial = h.info.serial) then kept else kept ++ [h]) l

/-- The lowest-numbered CONT block of a serial and seq (R120, Duplicates). -/
def contBlock (l : List (Nat × BlockClass)) (serial seq : Nat) : Option Nat :=
  (l.find? fun x => decide (x.2 = .cont serial seq)).map (·.1)

/-- The CONT blocks of a serial from a seq upward to the first missing one (R120, Chains). -/
def chainFrom (l : List (Nat × BlockClass)) (serial : Nat) : Nat → Nat → List Nat
  | 0, _ => []
  | fuel + 1, seq =>
    match contBlock l serial seq with
    | some b => b :: chainFrom l serial fuel (seq + 1)
    | none => []

/-- The chain of a HEAD (R120): its block, then its CONT blocks of seq 1–319. -/
def chainOf (l : List (Nat × BlockClass)) (h : MountHead) : List Nat := h.block :: chainFrom l h.info.serial 319 1

/-- A HEAD inserted in ascending serial order. -/
def headInsert (h : MountHead) : List MountHead → List MountHead
  | [] => [h]
  | a :: l => if h.info.serial < a.info.serial then h :: a :: l else a :: headInsert h l

/-- The candidates for the directory, ascending by serial (R120). -/
def candidates (found : List MountHead) : List MountHead :=
  ((firstHeads [] found).filter (!·.deletedMark)).foldl (fun l h => headInsert h l) []

/-- The record of a message entered by a mount (R102, R119): every block 16 valid pages. -/
def mountedMessage (l : List (Nat × BlockClass)) (h : MountHead) : Message :=
  { serial := h.info.serial, room := h.info.room, state := if h.heardMark then .heard else .new, urgent := h.info.urgent,
    origin := h.info.origin, day := h.info.day, second := h.info.second, readers := 0, deletedPending := false,
    head := some h.block, blocks := (chainOf l h).map fun b => { block := b, valid := 16, retire := false },
    blank14 := h.blank14, blank15 := h.blank15, written := 0 }

/-- The serial of a valid header. -/
def BlockClass.serial : BlockClass → Option Nat
  | .head h => some h.serial
  | .cont n _ => some n
  | .free | .dirty => none

/-- The next serial after a mount (R121, step 2). -/
def serialAfter (l : List (Nat × BlockClass)) : Nat :=
  match (l.filterMap (·.2.serial)).max? with
  | some n => min (n + 1) Config.maxSerial
  | none => 1

/-- The rooms' mailboxes with the messages entered (R23, R121). -/
def enterMailboxes (l : List Message) (s : State) : State :=
  l.foldl (fun s m => s.updRoom m.room (messageEntered m.serial (m.state = .new) m.urgent)) s

/-- The last step of the mount (R120, R121), from the working table and the HEAD blocks found. -/
def mountEnd (m : MountJob) (s : State) : State :=
  let l := m.blocks s.store.promptBlocks
  let cs := candidates m.found
  let messages := (cs.take Config.maxMessages).map (mountedMessage l)
  let used := messages.flatMap fun x => x.blocks.map (·.block)
  let s := enterMailboxes messages s
  let s := if Config.maxMessages < cs.length then place .dirFull s else s
  let s :=
    { s with store := { s.store with
        messages := messages, nextSerial := serialAfter l, free := (l.filter (·.2 = .free)).map (·.1),
        dirty := (l.filter fun x => decide (x.2 ≠ .free) && !used.contains x.1).map (·.1), bad := [], marks := [],
        erasing := none, mounted := true, job := .none } }
  let s := storeLowTest s
  let s := ((List.finRange 2048).filter fun r => messages.any (·.room = r)).foldl (fun s r => evaluateLamp r s) s
  { place .mountDone s with service := .setup }

/-- The mount goes on after a read, or ends when no read is left (R117–R121). -/
def mountNext (m : MountJob) (s : State) : State :=
  if m.classes.length < s.store.areaBlocks ∨ m.todo ≠ [] then s.setJob (.mount m) else mountEnd m s

/-- The job after the first-step read of a block (R118); the HEAD blocks are listed when it was the last. -/
def MountJob.classified (area first : Nat) (c : BlockClass) (m : MountJob) : MountJob :=
  let m := { m with classes := m.classes ++ [c] }
  if m.classes.length < area then m else { m with todo := headsOf (m.blocks first) }

/-- The job after a second-step read (R119); none is a failed read. -/
def MountJob.marked (spare : Option (List Octet)) (m : MountJob) : MountJob :=
  match m.todo with
  | [] => m
  | h :: rest =>
    let found (k : MarkKind) := spare.elim false (isMark k h.info.serial)
    let blank := spare.elim false blankOctets
    if m.page14 then
      { m with todo := rest, page14 := false, found := m.found ++ [{ h with deletedMark := found .deleted, blank15 := blank }] }
    else { m with todo := { h with heardMark := found .heard, blank14 := blank } :: rest, page14 := true }

/-- A mount READ_SPARE completes (R118, R119); none is a failed read. -/
def mountReadDone (spare : Option (Vector Octet 16)) (s : State) : State :=
  match s.store.job with
  | .mount m =>
    let s := faultIf spare.isNone s
    if m.classes.length < s.store.areaBlocks then
      let c := spare.elim .dirty fun d => classifySpare d.toList
      mountNext (m.classified s.store.areaBlocks s.store.promptBlocks c) s
    else mountNext (m.marked (spare.map (·.toList))) s
  | _ => s

/-! ## The meanings -/

/-- SET_GEOMETRY (R82). -/
def execSetGeometry (tag : Octet) (fields : List Octet) (s : State) : Host.Outcome State Fault Refusal :=
  event (holderTake 0x51 tag fields (workSetGeometry fields)) s

/-- MOUNT (R117). -/
def execMount (tag : Octet) (fields : List Octet) (s : State) : Host.Outcome State Fault Refusal :=
  event (holderTake 0x52 tag fields (workMount fields)) s

/-- QUERY_STORE (R116). -/
def execQueryStore (tag : Octet) (fields : List Octet) (s : State) : Host.Outcome State Fault Refusal :=
  event (holderTake 0x53 tag fields (workQueryStore fields)) s

/-- PROMPT_ERASE (R126). -/
def execPromptErase (tag : Octet) (fields : List Octet) (s : State) : Host.Outcome State Fault Refusal :=
  event (holderTake 0x54 tag fields (workPromptErase fields)) s

/-- PROMPT_PAGE (R123). -/
def execPromptPage (tag : Octet) (fields : List Octet) (s : State) : Host.Outcome State Fault Refusal :=
  event (holderTake 0x55 tag fields (workPromptPage fields)) s

/-- PROMPT_COMMIT (R124). -/
def execPromptCommit (tag : Octet) (fields : List Octet) (s : State) : Host.Outcome State Fault Refusal :=
  event (holderTake 0x56 tag fields (workPromptCommit fields)) s

/-- PROMPT_VERIFY (R125). -/
def execPromptVerify (tag : Octet) (fields : List Octet) (s : State) : Host.Outcome State Fault Refusal :=
  event (holderTake 0x57 tag fields (workPromptVerify fields)) s

/-- PROMPT_BLANK (R125). -/
def execPromptBlank (tag : Octet) (fields : List Octet) (s : State) : Host.Outcome State Fault Refusal :=
  event (holderTake 0x58 tag fields (workPromptBlank fields)) s

/-- PROMPT_DIR (R122). -/
def execPromptDir (tag : Octet) (fields : List Octet) (s : State) : Host.Outcome State Fault Refusal :=
  event (holderTake 0x59 tag fields (workPromptDir fields)) s

end Sys2Proof.Machine
end

