-- ==== Sys2Proof/Machine/Port.lean ====
section
/-! DEFINITION. The flash port and its arbiter (sections 5.4 to 5.6): the choice and issue of an operation, and what each
completion, timeout and recovery does. -/

namespace Sys2Proof.Machine

/-! ## Cycles on the flash pins (R93) -/

/-- A row address: the page number in three octets, low octet first. -/
def rowCycles (page : Nat) : List FlashCycle :=
  [.address (BitVec.ofNat 8 page), .address (BitVec.ofNat 8 (page / 256)), .address (BitVec.ofNat 8 (page / 65536))]

/-- A column address in two octets, low octet first: 0 for the data area, 512 for the spare area. -/
def columnCycles (spare : Bool) : List FlashCycle := [.address 0, .address (if spare then 2 else 0)]

/-- The cycles of READ_PAGE, or of READ_SPARE, up to the ready wait. -/
def readCycles (spare : Bool) (page : Nat) : List FlashCycle :=
  [.command 0x00] ++ columnCycles spare ++ rowCycles page ++ [.command 0x30]

/-- The cycles of PROGRAM_PAGE, or of PROGRAM_SPARE, up to the ready wait. -/
def programCycles (spare : Bool) (page : Nat) (octets : List Octet) : List FlashCycle :=
  [.command 0x80] ++ columnCycles spare ++ rowCycles page ++ octets.map .write ++ [.command 0x10]

/-- The cycles of ERASE_BLOCK up to the ready wait. -/
def eraseCycles (block : Nat) : List FlashCycle := [.command 0x60] ++ rowCycles (block * 16) ++ [.command 0xD0]

/-- The cycles issued for an operation (R93). -/
def FlashOp.cycles : FlashOp → List FlashCycle
  | .ringProgram _ _ b p _ data spare => programCycles false (b * 16 + p) (data ++ spare)
  | .ringRead _ _ page => readCycles false page
  | .erase b => eraseCycles b
  | .mark page spare => programCycles true page spare
  | .mountRead page => readCycles true page
  | .promptErase b => eraseCycles b
  | .promptProgram page data spare => programCycles false page (data ++ spare)
  | .promptRead page => readCycles false page
  | .promptReadSpare page => readCycles true page

/-- The cycles after ready (R93, R94): the status, and the octets of a read that passed. -/
def readyCycles (pass : Bool) (read : List Octet) : List FlashCycle :=
  [.ready, .command 0x70, .status (!pass)] ++ if read = [] then [] else .command 0x00 :: read.map .read

/-! ## The arbiter's choice (R96, R97) -/

/-- The channels in the order of the round robin: pointer + 1 and so on, ending at the pointer. -/
def pollOrder (p : ChannelIx) : List ChannelIx := (List.range 32).map fun k => Fin.ofNat 32 (p.val + 1 + k)

/-- The index of the lowest RESERVED item page of a ring. -/
def Ring.reserved (r : Ring) : Option Nat := (r.items.find? (·.status = .reserved)).map (·.index)

/-- The choice of source 2: the first channel of the round robin with a RESERVED item page. -/
def State.readChoice (s : State) : Option (ChannelIx × Nat) :=
  (pollOrder s.port.pointer).findSome? fun c => (s.ring c).reserved.map fun k => (c, k)

/-- A program request as the arbiter sees it: its channel, flash page, age and data (R84). -/
structure ProgramRequest where
  channel : ChannelIx
  block : Nat
  page : Nat
  age : Nat
  data : List Octet
deriving DecidableEq, Repr

/-- The requests of a ring. -/
def Ring.requests (c : ChannelIx) (r : Ring) : List ProgramRequest :=
  r.recorded.filterMap fun p =>
    match p.status with
    | .requested b g a => some ⟨c, b, g, a, p.data⟩
    | _ => none

/-- The older of two requests. -/
def older (a : Option ProgramRequest) (b : ProgramRequest) : Option ProgramRequest :=
  match a with
  | some x => if x.age ≤ b.age then some x else some b
  | none => some b

/-- The choice of source 3: the request of lowest age. -/
def State.programChoice (s : State) : Option ProgramRequest :=
  (channelIndices.flatMap fun c => (s.ring c).requests c).foldl older none

/-- The next operation of the maintenance job (source 5), when the service state allows one. -/
def State.maintenanceChoice (s : State) : Option FlashOp :=
  if s.service ≠ .setup ∧ s.service ≠ .mounting ∧ s.service ≠ .suspended then none
  else
    match s.store.job with
    | .none => none
    | .mount m =>
      if m.classes.length < s.store.areaBlocks then some (.mountRead ((s.store.promptBlocks + m.classes.length) * 16))
      else m.todo.head?.map fun h => .mountRead (h.block * 16 + if m.page14 then 15 else 14)
    | .promptErase next _ _ => some (.promptErase next)
    | .promptCommit page => some (.promptProgram page s.store.buffer.data.toList blankSpare)
    | .promptVerify page => some (.promptRead page)
    | .promptBlank page => some (.promptRead page)
    | .promptBlankSpare page _ => some (.promptReadSpare page)

/-- The mark page of a message's head block (R111): 14 for HEARD, 15 for DELETED. -/
def State.markPage (s : State) (n : Nat) (k : MarkKind) : Nat :=
  ((s.message n).bind (·.head)).getD 0 * 16 + (match k with | .heard => 14 | .deleted => 15)

/-- The port issues an operation and enters BUSY (R93). -/
def issue (op : FlashOp) (s : State) : State :=
  { s with port := { s.port with state := .busy, op := some op, drive := .cycles op.cycles } }

/-- An erase is chosen: the dirty-list head becomes the erase in progress (R96, R100). -/
def issueErase (s : State) : State :=
  match s.store.dirty with
  | [] => s
  | b :: rest => issue (.erase b) { s with store := { s.store with dirty := rest, erasing := some b } }

/-- A read request is issued: its page becomes READING and the pointer becomes its channel (R96, R97). -/
def issueRead (c : ChannelIx) (k : Nat) (s : State) : State :=
  let page := (s.ring c).itemFlash.getD k 0
  let s := s.updRing c fun r =>
    { r with items := r.items.map fun p => if p.index = k then { p with status := .reading } else p }
  issue (.ringRead c k page) { s with port := { s.port with pointer := c } }

/-- A program request is issued: its page becomes PROGRAMMING, with the header of R105. -/
def issueProgram (q : ProgramRequest) (s : State) : State :=
  let n := (s.chan q.channel).current.getD 0
  let head := q.page = 0 && (s.message n).elim false (·.headAt q.block)
  let spare := (s.message n).elim blankSpare fun m => m.spareFor q.block q.page
  let s := s.updRing q.channel fun r =>
    { r with recorded := r.recorded.map fun p =>
        if p.status = .requested q.block q.page q.age then { p with status := .programming q.block q.page q.age } else p }
  issue (.ringProgram q.channel n q.block q.page head q.data spare) s

/-- A mark program is issued: the queue head becomes the mark in progress (R111). -/
def issueMark (s : State) : State :=
  match s.store.marks with
  | [] => s
  | (n, k) :: rest =>
    issue (.mark (s.markPage n k) (markSpare k n)) { s with store := { s.store with marks := rest, marking := some (n, k) } }

/-- Sources 4 to 6 of R96. -/
def chooseUpkeep (s : State) : State :=
  if s.store.marks ≠ [] then issueMark s
  else
    match s.maintenanceChoice with
    | some op => issue op s
    | none => issueErase s

/-- The arbiter's choice (R96): only with the port IDLE. With no operation eligible nothing is issued. -/
def arbiterChoice (s : State) : State :=
  if s.port.state ≠ .idle then s
  else if s.store.free.length < Config.urgentFree ∧ s.store.dirty ≠ [] then issueErase s
  else
    match s.readChoice with
    | some (c, k) => issueRead c k s
    | none =>
      match s.programChoice with
      | some q => issueProgram q s
      | none => chooseUpkeep s

/-! ## Completions of ring programs (R85, R87, R106–R108) -/

/-- The port after an operation: it holds none and stands in state `p`, having driven `cycles` (R94). -/
def endOp (p : PortState) (cycles : List FlashCycle) (s : State) : State :=
  { s with port := { s.port with state := p, op := none, drive := .cycles cycles } }

/-- The PROGRAMMING page of ring `c` leaves the ring. -/
def pageProgrammed (c : ChannelIx) (s : State) : State :=
  s.updRing c fun r => { r with recorded := r.recorded.filter (!·.isProgramming) }

/-- A program of ring `c` passed (R85, R106). -/
def programPassed (c : ChannelIx) (n b p : Nat) (head : Bool) (s : State) : State :=
  flushTest c (raisePrograms c (pageProgrammed c (pagePassed n b p head s)))

/-- The PROGRAMMING and REQUESTED pages of a ring given the pages of block `b` from page `k`, in stream order (R106). -/
def regive (b : Nat) : Nat → List RecPage → List RecPage
  | _, [] => []
  | k, p :: l =>
    match p.status with
    | .programming _ _ a | .requested _ _ a => { p with status := .requested b k a } :: regive b (k + 1) l
    | .filling | .full => p :: regive b k l

/-- The stream of ring `c` continues in block `b`, and the write position is the number of pages given (R106). -/
def continueIn (c : ChannelIx) (n b : Nat) (s : State) : State :=
  let given := (s.ring c).recorded.countP RecPage.inProgram
  (s.updRing c fun r => { r with recorded := regive b 0 r.recorded }).updMessage n fun m => { m with written := given }

/-- The failed page of ring `c` is no longer in progress, so that the store discard drops it (R107, step 2). -/
def failedDropped (c : ChannelIx) (s : State) : State :=
  s.updRing c fun r => { r with recorded := r.recorded.map fun p => if p.isProgramming then { p with status := .full } else p }

/-- A failed page is given a fresh block, or the recording is exhausted (R106, R107). -/
def retryProgram (c : ChannelIx) (n b : Nat) (s : State) : State :=
  match s.message n with
  | none => s
  | some m =>
    match blockAfter b m.blocks with
    | some fresh => continueIn c n fresh s
    | none =>
      if s.canAllocate m then continueIn c n (s.store.free.headD 0) (allocate n 1 s) else exhaust c (failedDropped c s)

/-- A program of ring `c` completes while the store is taking the message's pages (R85, R106). -/
def programDone (pass : Bool) (c : ChannelIx) (n b p : Nat) (head : Bool) (s : State) : State :=
  if pass then programPassed c n b p head s else retryProgram c n b (blockRetired n b s)

/-- A program's result reaches the store with no retry: the message's record if it has one, else the block (R108). -/
def programAccepted (pass : Bool) (n b p : Nat) (head : Bool) (s : State) : State :=
  match s.message n with
  | some _ => settle n (if pass then pagePassed n b p head s else blockRetired n b s)
  | none =>
    if pass then s
    else
      place .flashFault
        { s with store := { s.store with dirty := s.store.dirty.erase b, bad := badInsert b s.store.bad } }

/-- The program in progress belongs to a held page (R87). -/
def State.programHeld (s : State) (c : ChannelIx) : Bool := (s.ring c).held.contains .program

/-- The program in progress was held or discarded (R108). -/
def State.programLeft (s : State) (c : ChannelIx) : Bool := s.programHeld c || (s.ring c).exhausted

/-- A program of a held or discarded page completes (R87, R108). -/
def heldProgramDone (pass : Bool) (c : ChannelIx) (n b p : Nat) (head : Bool) (s : State) : State :=
  let held := s.programHeld c
  let s := programAccepted pass n b p head s
  if held then raisePrograms c (s.updRing c fun r => (r.dropHeld .program).raiseReads)
  else flushTest c (pageProgrammed c s)

/-! ## Completions of ring reads (R90–R92) -/

/-- The read in progress belongs to a held page (R92). -/
def State.readHeld (s : State) (c : ChannelIx) : Bool := (s.ring c).held.contains .read

/-- A prompt whose page `k` could not be read plays shortened until it is reloaded (R91): the page count of its directory
entry falls to `k`, and PROMPT_DIR or PROMPT_ERASE replaces the entry (log entry 37). -/
def promptCut (item : Option PlayItem) (k : Nat) (s : State) : State :=
  match item with
  | some (.prompt id) => s.setPrompt id ((s.store.prompts[id]).map fun e => { e with count := min e.count k })
  | some (.message _) | none => s

/-- A read of item page `k` completes; none is a failure (R90, R91). -/
def readDone (data : Option (List Octet)) (c : ChannelIx) (k : Nat) (s : State) : State :=
  match data with
  | some d => s.updRing c (Ring.arrive d)
  | none =>
    place .flashFault
      (promptCut (s.ring c).item k
        ((s.updRing c (Ring.cut k)).updDecoder c fun d => { d with extent := Config.pageOctets * k }))

/-- A held read completes: its data is discarded (R92). -/
def heldReadDone (c : ChannelIx) (s : State) : State := s.updRing c fun r => (r.dropHeld .read).raiseReads

/-! ## Completions of erases and marks (R101, R111) -/

/-- An erase completes (R101). -/
def eraseDone (pass : Bool) (b : Nat) (s : State) : State :=
  let t := { s.store with erasing := none }
  storeLowTest
    (if pass then { s with store := { t with free := t.free ++ [b] } }
     else place .flashFault { s with store := { t with bad := badInsert b t.bad } })

/-- A mark completes (R111). -/
def markDone (pass : Bool) (s : State) : State :=
  match s.store.marking with
  | none => s
  | some (n, k) =>
    let s := { s with store := { s.store with marking := none } }
    if pass then (match k with | .heard => s | .deleted => reclaim n s) else markFailed k n s

/-! ## Timeouts (R94) -/

/-- The failed completion of an operation, handed to its requester. -/
def opFailed (op : FlashOp) (s : State) : State :=
  match op with
  | .ringProgram c n b p head _ _ =>
    if s.programLeft c then heldProgramDone false c n b p head s else programDone false c n b p head s
  | .ringRead c k _ => if s.readHeld c then heldReadDone c s else readDone none c k s
  | .erase b => eraseDone false b s
  | .mark _ _ => markDone false s
  | .mountRead _ => mountReadDone none s
  | .promptErase _ => promptEraseDone false s
  | .promptProgram _ _ _ => promptProgramDone false s
  | .promptRead _ => promptPageRead none s
  | .promptReadSpare _ => promptSpareRead none s

/-- FLASH_TIMEOUT (R94): the operation completes with fail, and the port enters RECOVERING with command 0xFF issued. -/
def takeTimeout (s : State) : State :=
  match s.port.op with
  | some op => drainTest (opFailed op (endOp .recovering [.command 0xFF] s))
  | none => s

/-! ## The completions as events: each only while its operation is in progress -/

/-- PROGRAM_COMPLETE (R85). -/
def takeProgram (pass : Bool) (s : State) : State :=
  match s.port.op with
  | some (.ringProgram c n b p head _ _) =>
    if s.programLeft c then s else drainTest (programDone pass c n b p head (endOp .idle (readyCycles pass []) s))
  | _ => s

/-- HELD_PROGRAM_COMPLETE (R108). -/
def takeHeldProgram (pass : Bool) (s : State) : State :=
  match s.port.op with
  | some (.ringProgram c n b p head _ _) =>
    if s.programLeft c then drainTest (heldProgramDone pass c n b p head (endOp .idle (readyCycles pass []) s)) else s
  | _ => s

/-- READ_COMPLETE (R90). -/
def takeRead (result : FlashRead) (s : State) : State :=
  match s.port.op, result with
  | some (.ringRead c k _), .fail =>
    if s.readHeld c then s else readDone none c k (endOp .idle (readyCycles false []) s)
  | some (.ringRead c k _), .page d =>
    if s.readHeld c then s else readDone (some d.toList) c k (endOp .idle (readyCycles true d.toList) s)
  | _, _ => s

/-- HELD_READ_COMPLETE (R92). -/
def takeHeldRead (result : FlashRead) (s : State) : State :=
  match s.port.op, result with
  | some (.ringRead c _ _), .fail =>
    if s.readHeld c then heldReadDone c (endOp .idle (readyCycles false []) s) else s
  | some (.ringRead c _ _), .page d =>
    if s.readHeld c then heldReadDone c (endOp .idle (readyCycles true d.toList) s) else s
  | _, _ => s

/-- ERASE_COMPLETE (R101). -/
def takeErase (pass : Bool) (s : State) : State :=
  match s.port.op with
  | some (.erase b) => eraseDone pass b (endOp .idle (readyCycles pass []) s)
  | _ => s

/-- MARK_COMPLETE (R111). -/
def takeMark (pass : Bool) (s : State) : State :=
  match s.port.op with
  | some (.mark _ _) => drainTest (markDone pass (endOp .idle (readyCycles pass []) s))
  | _ => s

/-- MOUNT_READ_COMPLETE (R118). -/
def takeMountRead (result : FlashRead) (s : State) : State :=
  match s.port.op, result with
  | some (.mountRead _), .fail => mountReadDone none (endOp .idle (readyCycles false []) s)
  | some (.mountRead _), .spare d => mountReadDone (some d) (endOp .idle (readyCycles true d.toList) s)
  | _, _ => s

/-- PROMPT_ERASE_COMPLETE (R126). -/
def takePromptErase (pass : Bool) (s : State) : State :=
  match s.port.op with
  | some (.promptErase _) => promptEraseDone pass (endOp .idle (readyCycles pass []) s)
  | _ => s

/-- PROMPT_PROGRAM_COMPLETE (R124). -/
def takePromptProgram (pass : Bool) (s : State) : State :=
  match s.port.op with
  | some (.promptProgram _ _ _) => promptProgramDone pass (endOp .idle (readyCycles pass []) s)
  | _ => s

/-- PROMPT_READ_COMPLETE (R125). -/
def takePromptRead (result : FlashRead) (s : State) : State :=
  match s.port.op, result with
  | some (.promptRead _), .fail => promptPageRead none (endOp .idle (readyCycles false []) s)
  | some (.promptRead _), .page d => promptPageRead (some d) (endOp .idle (readyCycles true d.toList) s)
  | some (.promptReadSpare _), .fail => promptSpareRead none (endOp .idle (readyCycles false []) s)
  | some (.promptReadSpare _), .spare d => promptSpareRead (some d) (endOp .idle (readyCycles true d.toList) s)
  | _, _ => s

/-- PORT_RECOVERY_END (R94): RECOVERING becomes IDLE. -/
def takeRecoveryEnd (s : State) : State :=
  if s.port.state = .recovering then { s with port := { s.port with state := .idle } } else s

/-- PORT_START_END (R95): STARTING becomes IDLE. -/
def takeStartEnd (s : State) : State :=
  if s.port.state = .starting then { s with port := { s.port with state := .idle } } else s

/-! ## The meanings -/

/-- ARBITER_CHOICE (R96). -/
def execArbiterChoice (s : State) : Host.Outcome State Fault Refusal := event arbiterChoice s

/-- PROGRAM_COMPLETE (R85). -/
def execProgramComplete (pass : Bool) (s : State) : Host.Outcome State Fault Refusal := event (takeProgram pass) s

/-- HELD_PROGRAM_COMPLETE (R108). -/
def execHeldProgramComplete (pass : Bool) (s : State) : Host.Outcome State Fault Refusal :=
  event (takeHeldProgram pass) s

/-- READ_COMPLETE (R90). -/
def execReadComplete (result : FlashRead) (s : State) : Host.Outcome State Fault Refusal := event (takeRead result) s

/-- HELD_READ_COMPLETE (R92). -/
def execHeldReadComplete (result : FlashRead) (s : State) : Host.Outcome State Fault Refusal :=
  event (takeHeldRead result) s

/-- ERASE_COMPLETE (R101). -/
def execEraseComplete (pass : Bool) (s : State) : Host.Outcome State Fault Refusal := event (takeErase pass) s

/-- MARK_COMPLETE (R111). -/
def execMarkComplete (pass : Bool) (s : State) : Host.Outcome State Fault Refusal := event (takeMark pass) s

/-- MOUNT_READ_COMPLETE (R118). -/
def execMountReadComplete (result : FlashRead) (s : State) : Host.Outcome State Fault Refusal :=
  event (takeMountRead result) s

/-- PROMPT_ERASE_COMPLETE (R126). -/
def execPromptEraseComplete (pass : Bool) (s : State) : Host.Outcome State Fault Refusal :=
  event (takePromptErase pass) s

/-- PROMPT_PROGRAM_COMPLETE (R124). -/
def execPromptProgramComplete (pass : Bool) (s : State) : Host.Outcome State Fault Refusal :=
  event (takePromptProgram pass) s

/-- PROMPT_READ_COMPLETE (R125). -/
def execPromptReadComplete (result : FlashRead) (s : State) : Host.Outcome State Fault Refusal :=
  event (takePromptRead result) s

/-- FLASH_TIMEOUT (R94). -/
def execFlashTimeout (s : State) : Host.Outcome State Fault Refusal := event takeTimeout s

/-- PORT_RECOVERY_END (R94). -/
def execPortRecoveryEnd (s : State) : Host.Outcome State Fault Refusal := event takeRecoveryEnd s

/-- PORT_START_END (R95). -/
def execPortStartEnd (s : State) : Host.Outcome State Fault Refusal := event takeStartEnd s

end Sys2Proof.Machine
end

