-- ==== Sys2Proof/WellFormed.lean ====
section
/-! DEFINITION. Which terms of `Instr` a sender can really send. Every meaning is total: it says what happens on the
other terms too (a frame that fails the value test of R12 is passed over, a wrong length is answered BAD_ARGUMENT). -/

namespace Sys2Proof

/-- A command payload of LEN 1–60 leaves at most 59 octets after the TAG (R11). -/
def payloadFits (fields : List Octet) : Bool := fields.length ≤ 59

/-- A LOAD_TABLE payload has the table number after its TAG (R19). -/
def tableFits (fields : List Octet) : Bool := fields.length ≤ 58

/-- An extension as slot 126 frames carry it: 0–999,999 (R12, R17). -/
def extensionFits (x : Nat) : Bool := x ≤ Config.maxExtension

/-- Three octets of extension, as the slot 127 frames carry it without a range test of the link (R13). -/
def extensionOctets (x : Nat) : Bool := x < 16777216

/-- The digits of one DIGIT frame: 1–20 digits, each 0–9 (R17). -/
def digitsFit (ds : List Nat) : Bool := decide (1 ≤ ds.length) && decide (ds.length ≤ 20) && ds.all (· ≤ 9)

/-- A command is well formed when its operands can stand on the highway or in a link frame. -/
def Instr.wf : Instr → Bool
  | .highwayFrame hin => hin.length ≤ 128
  | .seizeOut _ x => extensionFits x
  | .digit _ ds => digitsFit ds
  | .hook x _ => extensionFits x
  | .divert _ x _ => extensionOctets x
  | .lampSense x _ => extensionOctets x
  | .loadTableClass _ fs | .loadTablePrefix _ fs | .loadTableBand _ fs | .loadTableSchedule _ fs
  | .loadTableParameters _ fs => tableFits fs
  | .queryStatus _ fs | .startService _ fs | .suspend _ fs | .clearAttention _ fs | .setClock _ fs
  | .loadRoom _ fs | .checkIn _ fs | .checkOut _ fs | .setCredit _ fs | .postPayment _ fs | .unbar _ fs
  | .deskFlag _ fs | .deleteMessages _ fs | .queryRoom _ fs | .resetChannel _ fs | .loadExpansion _ fs
  | .setGeometry _ fs | .mount _ fs | .queryStore _ fs | .promptErase _ fs | .promptPage _ fs
  | .promptCommit _ fs | .promptVerify _ fs | .promptBlank _ fs | .promptDir _ fs | .lampForce _ fs
  | .lampResume _ fs | .lampResync _ fs | .loadTrunk _ fs | .fetchCharges _ fs | .releaseCharges _ fs =>
    payloadFits fs
  | .syncWindowEnd | .tick | .deviceReset | .portStartEnd | .answered _ | .timedAnswerExpiry _ | .unitBoundary _
  | .cleared _ | .slotClear _ | .key _ _ | .speechFrameEnd _ | .maxLengthReached _ | .noVoiceTimeout _
  | .menuTimerExpiry _ | .sweep | .arbiterChoice | .programComplete _ | .heldProgramComplete _ | .readComplete _
  | .heldReadComplete _ | .eraseComplete _ | .markComplete _ | .mountReadComplete _ | .promptEraseComplete _
  | .promptProgramComplete _ | .promptReadComplete _ | .flashTimeout | .portRecoveryEnd | .replyEntry
  | .fetchChargesEntry | .resetRelease => true

end Sys2Proof
end

