-- ==== Sys2Proof/Machine/Meters.lean ====
section
/-! DEFINITION. The meter bank (Chapter 8): seizure, dialling, connection, units, clearing and pricing. -/

namespace Sys2Proof.Machine

/-! ## Tariff readings -/

/-- The longest match of a list of dialled digits (R149): the first of the longest, and strings are unique. -/
def longestMatch (digits : List Nat) (l : List (Option DigitEntry)) : Option DigitEntry :=
  l.foldl
    (fun best e =>
      match e with
      | some x =>
        if x.digits.isPrefixOf digits && best.all (fun b => decide (b.digits.length < x.digits.length)) then some x
        else best
      | none => best)
    none

/-- The period in force (R153): 0 while the clock is unset, the weekend period on a weekend day, else the period of the
entry with the greatest start at or below the seconds-of-day. -/
def State.periodInForce (s : State) : Fin 4 :=
  if s.clock.unset then 0
  else if s.tariff.schedule.weekend.getLsbD s.clock.weekday then s.tariff.schedule.weekendPeriod
  else (((s.tariff.schedule.entries.filter fun e => decide (e.1 ≤ s.clock.seconds)).getLast?).map (·.2)).getD 0

/-- A band-period as the band table stands (R152). -/
def State.bandPeriod (s : State) (b : Fin 32) (p : Fin 4) : BandPeriod := (s.tariff.bands[b])[p]

/-- A bar mask bars the class of room `r` as it stands (R149, R151). -/
def State.bars (s : State) (bar : BitVec 16) (r : RoomIx) : Bool := bar.getLsbD (s.room r).cls.val

/-- A timer value: 0 leaves the timer idle (R148). -/
def timerFrom (n : Nat) : Option Nat := if n = 0 then none else some n

/-- A running count lowered by one tick; 0 stays 0, an expiry that is due. -/
def lowered : Option Nat → Option Nat
  | some (n + 1) => some n
  | x => x

/-! ## Denials and cuts -/

/-- The denial steps (R147): the trunk is muted, the room's last denial reason is set, and DENY_CALL is offered. -/
def deny (t : TrunkIx) (r : RoomIx) (why : Denial) (s : State) : State :=
  offerNotice (.denyCall t why)
    ((s.updTrunk t fun x => { x with mute := true }).updRoom r fun x => { x with denial := why })

/-- A cut for PREFIX (R151). -/
def digitCut (m : MeterIx) (x : Meter) (s : State) : State :=
  deny x.trunk x.room .barredDigits
    (s.setMeter m (some { x with state := .cut, timer := none, held := some 0 }))

/-- A credit cut (R155). -/
def creditCut (m : MeterIx) (x : Meter) (s : State) : State :=
  let held := provisional (s.classOf x.room).markup { x with state := .connected }
  deny x.trunk x.room .credit
    (s.setMeter m
      (some { x with state := .cut, held := some held, countdown := none, flags := { x.flags with cutCredit := true } }))

/-- A meter with a charge added to its base (R154). -/
def charged (c : Nat) (x : Meter) : Meter :=
  { x with base := min (x.base + c) Config.maxCharge
           flags := { x.flags with saturated := x.flags.saturated || decide (Config.maxCharge < x.base + c) } }

/-! ## Connection and units -/

/-- A unit boundary (R157): a credit cut when the room is barred, else Cu of the period in force is added and the countdown
takes its U. -/
def boundary (m : MeterIx) (s : State) : State :=
  match s.meter m with
  | none => s
  | some x =>
    let x := { x with flags := { x.flags with clockUnset := x.flags.clockUnset || s.clock.unset } }
    if (s.room x.room).barred then creditCut m x s
    else
      match x.band with
      | none => s
      | some b =>
        let bp := s.bandPeriod b s.periodInForce
        let x := { charged bp.cu x with units := min (x.units + 1) Config.maxUnits, countdown := some bp.u }
        evaluateRoom x.room (s.setMeter m (some x))

/-- The connection proper (R156, steps 3 to 7), with the action of the entry used. -/
def answer (m : MeterIx) (timed : Bool) (action : Action) (x : Meter) (s : State) : State :=
  let p := s.periodInForce
  let x :=
    { x with state := .connected, answered := true, timer := none, answer := some (s.clock.day, s.clock.seconds),
             period := some p,
             flags := { x.flags with timedAnswer := x.flags.timedAnswer || timed,
                                     clockUnset := x.flags.clockUnset || s.clock.unset } }
  match action with
  | .free => s.setMeter m (some { x with flags := { x.flags with free := true } })
  | .meter b =>
    let x := { x with band := some b }
    if (s.room x.room).barred then creditCut m x s
    else
      let bp := s.bandPeriod b p
      let s := evaluateRoom x.room (s.setMeter m (some { charged bp.c0 x with countdown := some bp.p0 }))
      if bp.p0 = 0 then boundary m s else s

/-- A connection (R156): the band selection and the default bar come first. -/
def connect (m : MeterIx) (timed : Bool) (s : State) : State :=
  match s.meter m with
  | none => s
  | some x =>
    match longestMatch x.digits s.tariff.entries.toList with
    | some e => answer m timed e.action x s
    | none => if s.bars s.tariff.defaultBar x.room then digitCut m x s else answer m timed s.tariff.defaultAction x s

/-! ## Clearing and pricing -/

/-- The duration of a call in seconds (R159), from the answer time to the clock. -/
def duration (answerDay answerSecond : Nat) (c : Clock) : Nat :=
  (((c.day + 65536 - answerDay) % 65536 * 86400 : Nat) + ((c.seconds : Int) - answerSecond)).toNat

/-- The CALL record of a priced close (R160). `k` is the room's class and `cmin` the Cmin that applies at the close. -/
def callRecord (x : Meter) (c : Clock) (k : ClassRecord) (cmin : Nat) : CallRecord :=
  let ans := x.answer.getD (0, 0)
  let d := duration ans.1 ans.2 c
  let grace := decide (d < k.grace)
  let base :=
    if grace then 0
    else if x.band.isSome && !x.flags.free && !x.flags.cutCredit then max x.base cmin
    else x.base
  let final := markedUp base k.markup
  { room := x.room, extension := x.extension, trunk := x.trunk, digits := x.digits, band := x.band,
    answerDay := ans.1, answerSecond := ans.2, duration := d, units := x.units, base := base,
    final := min final Config.maxCharge,
    flags := { x.flags with clockUnset := x.flags.clockUnset || c.unset, grace := x.flags.grace || grace,
                            saturated := x.flags.saturated || decide (Config.maxCharge < final) } }

/-- Cmin of a meter's band at its answer period, as the band table stands (R160). -/
def State.cminOf (s : State) (x : Meter) : Nat :=
  match x.band, x.period with
  | some b, some p => (s.bandPeriod b p).cmin
  | _, _ => 0

/-- A meter whose close is priced (R158). -/
def Meter.priced (x : Meter) : Bool := decide (x.state = .connected) || (decide (x.state = .cut) && x.answered)

/-- Steps 1 and 2 of a priced close: the CALL record joins the charge queue and its final charge the balance (R158). -/
def pricedClose (x : Meter) (s : State) : State :=
  let rec1 := callRecord x s.clock (s.classOf x.room) (s.cminOf x)
  (appendCharge (.call rec1) s).updRoom x.room fun r => { r with balance := min (r.balance + rec1.final) Config.maxBalance }

/-- Step 3 of a close: the meter becomes free, its trunk has none, and the room's open-meter count falls (R158). -/
def freeMeter (m : MeterIx) (x : Meter) (s : State) : State :=
  ((s.setMeter m none).updTrunk x.trunk fun t => { t with meter := none }).updRoom x.room fun r =>
    { r with openMeters := r.openMeters - 1 }

/-- A meter is closed (R158): priced or not, freed, its room re-evaluated, and a pending checkout completed. The record
takes the place the meter held, so the meter is freed as the record is appended (R165). -/
def closeMeter (m : MeterIx) (s : State) : State :=
  match s.meter m with
  | none => s
  | some x =>
    let s := if x.priced then pricedClose x s else s
    checkoutTest x.room (evaluateRoom x.room (freeMeter m x s))

/-- The clearing of a trunk in an active state (R158). -/
def clearTrunk (t : TrunkIx) (s : State) : State :=
  let s := s.updTrunk t fun x => { x with mute := false }
  match (s.trunk t).meter with
  | some m => closeMeter m s
  | none => s

/-- CLEARED (R145, R158). -/
def takeCleared (t : TrunkIx) (s : State) : State := if s.active then clearTrunk t s else s

/-! ## Seizure -/

/-- The lowest-numbered free meter. -/
def State.freeMeterIx (s : State) : Option MeterIx :=
  (s.meters.toList.findIdx? Option.isNone).map (Fin.ofNat 64)

/-- No flag set (R144). -/
def CallFlags.clear : CallFlags :=
  { timedAnswer := false, free := false, cutCredit := false, interrupted := false, clockUnset := false,
    saturated := false, grace := false }

/-- A meter at allocation (R144, R148). -/
def allocated (t : TrunkIx) (r : RoomIx) (x timedAnswer : Nat) : Meter :=
  { trunk := t, room := r, extension := x, digits := [], state := .dialling, answered := false, band := none,
    period := none, answer := none, timer := timerFrom timedAnswer, countdown := none, units := 0, base := 0,
    held := none, flags := CallFlags.clear }

/-- Step 5 of a seizure: the meter is allocated (R146). -/
def allocateMeter (m : MeterIx) (t : TrunkIx) (r : RoomIx) (x : Nat) (s : State) : State :=
  ((s.setMeter m (some (allocated t r x (s.classOf r).timedAnswer))).updTrunk t fun e =>
    { e with meter := some m }).updRoom r fun y => { y with openMeters := y.openMeters + 1 }

/-- Step 4 and 5 of a seizure by an OCCUPIED room with billing enabled (R146). -/
def seizeRoom (t : TrunkIx) (r : RoomIx) (x : Nat) (s : State) : State :=
  if (s.room r).barred then deny t r .credit s
  else
    match s.freeMeterIx with
    | none => deny t r .capacity s
    | some m => if s.admits then allocateMeter m t r x s else place .chargesFull (deny t r .capacity s)

/-- Step 1 of a seizure: an old meter is closed with INTERRUPTED set (R146). -/
def closeOld (t : TrunkIx) (s : State) : State :=
  match (s.trunk t).meter with
  | none => s
  | some m =>
    match s.meter m with
    | none => s
    | some x => clearTrunk t (s.setMeter m (some { x with flags := { x.flags with interrupted := true } }))

/-- SEIZE_OUT in an active state (R146). -/
def seize (t : TrunkIx) (x : Nat) (s : State) : State :=
  let s := (closeOld t s).updTrunk t fun e => { e with mute := false }
  match s.lookup x with
  | none => s
  | some r =>
    if (s.room r).occupancy ≠ .occupied then deny t r .vacant s
    else if (s.classOf r).billing then seizeRoom t r x s
    else s

/-- SEIZE_OUT (R145, R146); a frame whose extension is out of range is passed over (R12). -/
def takeSeize (t : TrunkIx) (x : Nat) (s : State) : State :=
  if s.active && extensionFits x then seize t x s else s

/-! ## Dialling and answering -/

/-- DIGIT for a meter in DIALLING (R151). -/
def dial (m : MeterIx) (x : Meter) (ds : List Nat) (s : State) : State :=
  let x :=
    { x with digits := (x.digits ++ ds).take Config.dialledDigits, timer := timerFrom (s.classOf x.room).timedAnswer }
  match longestMatch x.digits s.tariff.entries.toList with
  | some e => if s.bars e.bar x.room then digitCut m x s else s.setMeter m (some x)
  | none => s.setMeter m (some x)

/-- The meter of a trunk that is in DIALLING, if any. -/
def State.dialling (s : State) (t : TrunkIx) : Option (MeterIx × Meter) :=
  match (s.trunk t).meter with
  | none => none
  | some m =>
    match s.meter m with
    | some x => if x.state = .dialling then some (m, x) else none
    | none => none

/-- DIGIT (R145, R151); a frame that fails the value test is passed over (R12). -/
def takeDigit (t : TrunkIx) (ds : List Nat) (s : State) : State :=
  if s.active && digitsFit ds then
    match s.dialling t with
    | some (m, x) => dial m x ds s
    | none => s
  else s

/-- ANSWERED (R145, R156). -/
def takeAnswered (t : TrunkIx) (s : State) : State :=
  if s.active then
    match s.dialling t with
    | some (m, _) => connect m false s
    | none => s
  else s

/-- The timed-answer timer of a DIALLING meter expires (R148): only with its count at 0. -/
def timedExpiry (m : MeterIx) (s : State) : State :=
  match s.meter m with
  | some x => if x.state = .dialling ∧ x.timer = some 0 then connect m true s else s
  | none => s

/-- A unit boundary falls due on a CONNECTED meter (R157): only with its countdown at 0. -/
def boundaryDue (m : MeterIx) (s : State) : State :=
  match s.meter m with
  | some x => if x.state = .connected ∧ x.countdown = some 0 then boundary m s else s
  | none => s

/-- One tick given to a meter in use (R145, R148, R157). -/
def meterTick (x : Meter) : Meter :=
  { x with timer := lowered x.timer, countdown := if x.state = .connected then lowered x.countdown else x.countdown }

/-- Highway loss marks a meter INTERRUPTED (R161). -/
def meterLost (x : Meter) : Meter := { x with flags := { x.flags with interrupted := true } }

/-! ## The meanings -/

/-- SEIZE_OUT (R146). -/
def execSeizeOut (t : TrunkIx) (x : Nat) (s : State) : Host.Outcome State Fault Refusal := event (takeSeize t x) s

/-- DIGIT (R151). -/
def execDigit (t : TrunkIx) (ds : List Nat) (s : State) : Host.Outcome State Fault Refusal := event (takeDigit t ds) s

/-- ANSWERED (R156). -/
def execAnswered (t : TrunkIx) (s : State) : Host.Outcome State Fault Refusal := event (takeAnswered t) s

/-- TIMED_ANSWER_EXPIRY (R148). -/
def execTimedAnswerExpiry (m : MeterIx) (s : State) : Host.Outcome State Fault Refusal := event (timedExpiry m) s

/-- UNIT_BOUNDARY (R157). -/
def execUnitBoundary (m : MeterIx) (s : State) : Host.Outcome State Fault Refusal := event (boundaryDue m) s

/-- CLEARED (R158). -/
def execCleared (t : TrunkIx) (s : State) : Host.Outcome State Fault Refusal := event (takeCleared t) s

end Sys2Proof.Machine
end

