-- ==== Sys2Proof/Machine/Desk.lean ====
section
/-! DEFINITION. The room and credit commands: LOAD_ROOM, CHECK_IN, CHECK_OUT, DESK_FLAG, DELETE_MESSAGES, QUERY_ROOM
(Chapter 2), SET_CREDIT, POST_PAYMENT and UNBAR (Chapter 9). -/

namespace Sys2Proof.Machine

/-! ## Classes and loading (R33, R37) -/

/-- A changed class needs a barring evaluation: markup or credit restart (R37). -/
def barringChanged (old new : ClassRecord) : Bool := old.markup != new.markup || old.creditManual != new.creditManual

/-- What a changed class does to room `r` (R37): the sense-failure count for a changed fault threshold, then barring, then
the lamp target. -/
def classChanged (old new : ClassRecord) (r : RoomIx) (s : State) : State :=
  let s := if old.faultThreshold ≠ new.faultThreshold then s.updLamp r fun l => { l with failures := 0 } else s
  if barringChanged old new then evaluateRoom r s
  else if old.shutdownHold != new.shutdownHold then evaluateLamp r s
  else s

/-- The extension is held in the directory by another room (R33). -/
def State.heldElsewhere (s : State) (x : Nat) (r : RoomIx) : Bool :=
  s.directory.any fun e => decide (e.1 = x ∧ e.2 ≠ r)

/-- The lamp sub-record of a room reloaded (R33). -/
def lampReloaded (extensionChanged : Bool) (l : LampRecord) : LampRecord :=
  { l with ordered := none, absent := false, offHook := l.offHook && !extensionChanged,
           failures := if extensionChanged then 0 else l.failures }

/-- The room record of a room loaded or reloaded (R33). -/
def roomLoaded (x : Nat) (k : ClassIx) (y : Room) : Room :=
  { y with loaded := true, extension := some x, cls := k, lamp := lampReloaded (y.extension != some x) y.lamp }

/-- LOAD_ROOM taken (R33, R37). -/
def loadRoom (r : RoomIx) (x : Nat) (k : ClassIx) (s : State) : State :=
  let old := s.classOf r
  let s := { s with directory := directoryInsert (x, r) (s.directory.filter (·.2 ≠ r)) }
  let s := s.updRoom r (roomLoaded x k)
  evaluateLamp r (classChanged old (s.classOf r) r s)

/-- LOAD_ROOM (R33). -/
def workLoadRoom : List Octet → State → Work
  | [a, b, x2, x1, x0, k], s =>
    let x := field24 x2 x1 x0
    checkedRoom false false a b (decide (x ≤ Config.maxExtension ∧ k.toNat ≤ 15)) s fun r =>
      if s.heldElsewhere x r then .refuse .badArgument s
      else .done .ok [] (loadRoom r x (Fin.ofNat 16 k.toNat) s)
  | _, s => .refuse .badArgument s

/-! ## The stay -/

/-- The room record of a stay just opened (R28). -/
def roomOpened (limit : Nat) (c : Clock) (x : Room) : Room :=
  { x with occupancy := .occupied, creditLimit := limit, balance := 0, barred := false, desk := false, denial := .none,
           inDay := c.day, inSecond := c.seconds }

/-- CHECK_IN (R28). -/
def workCheckIn : List Octet → State → Work
  | [a, b, l2, l1, l0], s =>
    let limit := field24 l2 l1 l0
    checkedRoom false true a b (decide (limit ≤ Config.maxBalance)) s fun r =>
      if (s.room r).occupancy ≠ .vacant then .refuse .badState s
      else if 0 < (s.room r).recordings then .refuse .busy s
      else .done .ok [] (evaluateRoom r (s.updRoom r (roomOpened limit s.clock)))
  | _, s => .refuse .badArgument s

/-- Every message of a room's mailbox takes the delete path, in serial order (R29, R39). -/
def deleteMailbox (r : RoomIx) (s : State) : State := (s.room r).mailbox.foldl (fun s n => deletePath n s) s

/-- The channels that have a bound slot and satisfy `p` receive a close request, in number order (R65). -/
def closeChannels (p : Channel → Bool) (s : State) : State :=
  (channelIndices.filter fun c => (s.chan c).slot.isSome && p (s.chan c)).foldl (fun s c => closeRequest c s) s

/-- Step 1 of a CHECK_OUT (R29). -/
def beginCheckout (r : RoomIx) (s : State) : State :=
  let s := s.updRoom r fun x => { x with occupancy := .checkoutPending, outTime := some (s.clock.day, s.clock.seconds) }
  { s with checkouts := s.checkouts + 1 }

/-- CHECK_OUT taken (R29). -/
def checkOut (r : RoomIx) (s : State) : State :=
  let s := deleteMailbox r (beginCheckout r s)
  let s := closeChannels (fun x => decide (x.kind = some .retrieve ∧ x.room = some r)) s
  drainTest (checkoutTest r (evaluateLamp r s))

/-- CHECK_OUT (R29). -/
def workCheckOut : List Octet → State → Work
  | [a, b], s =>
    checkedRoom false true a b true s fun r =>
      if (s.room r).occupancy ≠ .occupied then .refuse .badState s
      else if s.admits then .done .ok [] (checkOut r s)
      else .done .full [] (place .chargesFull s)
  | _, s => .refuse .badArgument s

/-! ## Credit commands -/

/-- SET_CREDIT (R173). -/
def workSetCredit : List Octet → State → Work
  | [a, b, l2, l1, l0], s =>
    let limit := field24 l2 l1 l0
    checkedRoom false true a b (decide (limit ≤ Config.maxBalance)) s fun r =>
      if (s.room r).occupancy = .vacant then .refuse .badState s
      else .done .ok [] (evaluateRoom r (s.updRoom r fun x => { x with creditLimit := limit }))
  | _, s => .refuse .badArgument s

/-- POST_PAYMENT (R174): the balance falls by the amount, held at 0. -/
def workPostPayment : List Octet → State → Work
  | [a, b, m2, m1, m0], s =>
    let amount := field24 m2 m1 m0
    checkedRoom false true a b (decide (amount ≤ Config.maxBalance)) s fun r =>
      if (s.room r).occupancy = .vacant then .refuse .badState s
      else .done .ok [] (evaluateRoom r (s.updRoom r fun x => { x with balance := x.balance - amount }))
  | _, s => .refuse .badArgument s

/-- UNBAR (R175). -/
def workUnbar : List Octet → State → Work
  | [a, b], s =>
    checkedRoom false true a b true s fun r =>
      if (s.room r).creditLimit ≠ 0 ∧ (s.room r).creditLimit ≤ s.exposure r then .refuse .busy s
      else .done .ok [] (evaluateLamp r (s.updRoom r fun x => { x with barred := false }))
  | _, s => .refuse .badArgument s

/-! ## Desk flag, deletion and query -/

/-- DESK_FLAG (R38). -/
def workDeskFlag : List Octet → State → Work
  | [a, b, f], s =>
    checkedRoom false true a b (decide (f.toNat ≤ 1)) s fun r =>
      if (s.room r).occupancy ≠ .occupied then .refuse .badState s
      else .done .ok [] (evaluateLamp r (s.updRoom r fun x => { x with desk := f == 1 }))
  | _, s => .refuse .badArgument s

/-- DELETE_MESSAGES (R39). -/
def workDeleteMessages : List Octet → State → Work
  | [a, b], s =>
    checkedRoom false false a b true s fun r => .done .ok [] (drainTest (evaluateLamp r (deleteMailbox r s)))
  | _, s => .refuse .badArgument s

/-- The reply data of QUERY_ROOM (R20, R40). -/
def State.roomReport (s : State) (r : RoomIx) : List Octet :=
  let x := s.room r
  [yesNo x.loaded] ++ extensionOctets3 x.extension ++ octets1 x.cls.val ++ [x.occupancy.code] ++ octets2 x.inDay ++
    octets3 x.inSecond ++ octets3 x.creditLimit ++ octets3 x.balance ++ octets3 (s.exposure r) ++ octets1 x.openMeters ++
    [roomFlags x, x.denial.code] ++ octets1 x.mailbox.length ++ octets1 x.newCount ++ octets1 x.urgentCount ++
    [lampStateCode x.lamp.ordered, lampFlags x.lamp] ++ octets1 x.lamp.failures

/-- QUERY_ROOM (R40). -/
def workQueryRoom : List Octet → State → Work
  | [a, b], s => checkedRoom true false a b true s fun r => .done .ok (s.roomReport r) s
  | _, s => .refuse .badArgument s

/-! ## The meanings -/

/-- LOAD_ROOM (R33). -/
def execLoadRoom (tag : Octet) (fields : List Octet) (s : State) : Host.Outcome State Fault Refusal :=
  event (holderTake 0x46 tag fields (workLoadRoom fields)) s

/-- CHECK_IN (R28). -/
def execCheckIn (tag : Octet) (fields : List Octet) (s : State) : Host.Outcome State Fault Refusal :=
  event (holderTake 0x47 tag fields (workCheckIn fields)) s

/-- CHECK_OUT (R29). -/
def execCheckOut (tag : Octet) (fields : List Octet) (s : State) : Host.Outcome State Fault Refusal :=
  event (holderTake 0x48 tag fields (workCheckOut fields)) s

/-- SET_CREDIT (R173). -/
def execSetCredit (tag : Octet) (fields : List Octet) (s : State) : Host.Outcome State Fault Refusal :=
  event (holderTake 0x49 tag fields (workSetCredit fields)) s

/-- POST_PAYMENT (R174). -/
def execPostPayment (tag : Octet) (fields : List Octet) (s : State) : Host.Outcome State Fault Refusal :=
  event (holderTake 0x4A tag fields (workPostPayment fields)) s

/-- UNBAR (R175). -/
def execUnbar (tag : Octet) (fields : List Octet) (s : State) : Host.Outcome State Fault Refusal :=
  event (holderTake 0x4B tag fields (workUnbar fields)) s

/-- DESK_FLAG (R38). -/
def execDeskFlag (tag : Octet) (fields : List Octet) (s : State) : Host.Outcome State Fault Refusal :=
  event (holderTake 0x4C tag fields (workDeskFlag fields)) s

/-- DELETE_MESSAGES (R39). -/
def execDeleteMessages (tag : Octet) (fields : List Octet) (s : State) : Host.Outcome State Fault Refusal :=
  event (holderTake 0x4D tag fields (workDeleteMessages fields)) s

/-- QUERY_ROOM (R40). -/
def execQueryRoom (tag : Octet) (fields : List Octet) (s : State) : Host.Outcome State Fault Refusal :=
  event (holderTake 0x4E tag fields (workQueryRoom fields)) s

end Sys2Proof.Machine
end

