-- ==== Sys2Proof/Machine/Lamps.lean ====
section
/-! DEFINITION. The lamp controller (Chapter 7): hook and sense events, sweeps with their shut test, orders and sense
queries, and the lamp commands. -/

namespace Sys2Proof.Machine

/-! ## Readings of a lamp sub-record (R127) -/

/-- A lamp is lit when its last ordered state is STEADY, SLOW or FAST. -/
def LampRecord.lit (l : LampRecord) : Bool :=
  match l.ordered with
  | some .steady | some .slow | some .fast => true
  | some .off | none => false

/-- One or more shutdown sources are active. -/
def LampRecord.sourced (l : LampRecord) : Bool := l.offHook || l.fault || l.maint

/-- A room's lamp can stand in a sense query: loaded, present and lit (R136). -/
def Room.senseable (x : Room) : Bool := x.loaded && !x.lamp.absent && x.lamp.lit

/-! ## Hook and sense events -/

/-- HOOK (R131); a frame whose extension is out of range is passed over (R12). -/
def takeHook (x : Nat) (offHook : Bool) (s : State) : State :=
  if extensionFits x then
    match s.lookup x with
    | none => s
    | some r => s.updLamp r fun l => { l with offHook := offHook }
  else s

/-- A failed check of room `r`'s lamp, and the fault test (R137). -/
def senseFailed (r : RoomIx) (s : State) : State :=
  let l := (s.room r).lamp
  if l.lit then
    let n := min (l.failures + 1) 8
    let latches := decide ((s.classOf r).faultThreshold ≤ n) && !l.fault
    let s := s.updLamp r fun l => { l with failures := n, fault := l.fault || latches }
    if latches then place .lampFault s else s
  else s

/-- An ABSENT result for room `r` (R138). -/
def lampAbsent (r : RoomIx) (s : State) : State :=
  let s := s.updLamp r fun l => { l with absent := true, queued := false, target := none }
  { s with lamps := { s.lamps with queue := s.lamps.queue.filter (· ≠ r) } }

/-- LAMP_SENSE (R137). -/
def takeSense (x : Nat) (result : Sense) (s : State) : State :=
  match s.lookup x with
  | none => s
  | some r =>
    match result with
    | .ok => s.updLamp r fun l => { l with failures := 0 }
    | .openLine | .short => senseFailed r s
    | .absent => lampAbsent r s

/-! ## Sweeps -/

/-- A lamp's shut field after the shut test (R132), `manual` being its class lamp restart. -/
def shutAfter (manual : Bool) (l : LampRecord) : Bool := if l.sourced then true else if manual then l.shut else false

/-- The shut test (R132): each room whose shut field changes is evaluated at once, in index order. -/
def shutTest (s : State) : State :=
  (s.roomsWhere fun x => shutAfter (s.classes[x.cls]).lampManual x.lamp != x.lamp.shut).foldl
    (fun s r => evaluateLamp r (s.updLamp r fun l => { l with shut := !l.shut })) s

/-- `s` with the lamp order queue replaced. -/
def State.withLampQueue (s : State) (q : List RoomIx) : State := { s with lamps := { s.lamps with queue := q } }

/-- A room taken by a sweep needs no order (R134, way 1). -/
def LampRecord.settled (l : LampRecord) : Bool := l.target.isNone || l.target == l.ordered

/-- A room taken by sweep `number` is held off (R134, way 2). -/
def heldOff (number holdOff : Nat) (l : LampRecord) : Bool :=
  match l.orderSweep with
  | some k => decide ((number + Config.sweepModulus - k) % Config.sweepModulus ≤ holdOff)
  | none => false

/-- The order of room `r`: its current extension and its target. -/
def State.orderOf (s : State) (r : RoomIx) : Nat × Lamp :=
  ((s.room r).extension.getD 0, (s.room r).lamp.target.getD .off)

/-- A frame of orders is admitted (R135). -/
def ordersAdmitted (number : Nat) (frame : List RoomIx) (s : State) : State :=
  frame.foldl
    (fun s r => s.updLamp r fun l => { l with queued := false, ordered := l.target, orderSweep := some number })
    (s.push (.lampOrder (frame.map s.orderOf)))

/-- The taking of a sweep (R134, R135). The first list holds the rooms of the queue not yet taken, `off` those held off,
`frame` the rooms of the frame being built, and `left` the frames that may still be built. The second part of the result
is true when a frame was refused. -/
def buildOrders (number : Nat) : List RoomIx → List RoomIx → List RoomIx → Nat → State → State × Bool
  | [], off, frame, _, s =>
    if frame = [] then (s.withLampQueue off, false)
    else if lampAdmitted s then ((ordersAdmitted number frame s).withLampQueue off, false)
    else (s.withLampQueue (frame ++ off), true)
  | r :: rest, off, frame, left, s =>
    let l := (s.room r).lamp
    if l.settled then buildOrders number rest off frame left (s.updLamp r fun l => { l with queued := false })
    else if heldOff number s.lamps.holdOff l then buildOrders number rest (off ++ [r]) frame left s
    else if frame.length + 1 < Config.lampFrameRooms then buildOrders number rest off (frame ++ [r]) left s
    else if lampAdmitted s then
      let s := ordersAdmitted number (frame ++ [r]) s
      if left ≤ 1 then (s.withLampQueue (rest ++ off), false) else buildOrders number rest off [] (left - 1) s
    else (s.withLampQueue (frame ++ [r] ++ rest ++ off), true)

/-- The rooms of a sense query: the first 14 senseable rooms in index order from the cursor, wrapping (R136). -/
def State.queryRooms (s : State) : List RoomIx :=
  let l := s.roomsWhere Room.senseable
  (l.filter (s.lamps.cursor ≤ ·) ++ l.filter (· < s.lamps.cursor)).take Config.lampFrameRooms

/-- The sense query of a sense turn (R136). -/
def senseQuery (s : State) : State :=
  match s.queryRooms.getLast? with
  | none => s
  | some r =>
    if lampAdmitted s then
      let s := s.push (.senseQuery (s.queryRooms.map fun r => (s.room r).extension.getD 0))
      { s with lamps := { s.lamps with cursor := r + 1 } }
    else s

/-- The work of sweep `number` in its order (R133): the shut test, the order frames, and on a sense turn with no frame
refused the sense query. -/
def sweepWork (number : Nat) (s : State) : State :=
  let s := shutTest s
  let built := buildOrders number s.lamps.queue [] [] Config.sweepFrames s
  if !built.2 && number % s.lamps.senseInterval = 0 then senseQuery built.1 else built.1

/-- A sweep (R133): only when a tick has begun one. -/
def takeSweep (s : State) : State :=
  if s.lamps.due then
    let number := (s.lamps.sweeps + 1) % Config.sweepModulus
    sweepWork number { s with lamps := { s.lamps with due := false, sweeps := number } }
  else s

/-- One tick given to the lamp controller (R133): the period count rises in the active states, and a sweep begins when it
reaches the lamp period. -/
def lampTick (s : State) : State :=
  if s.active then
    if s.lamps.lampPeriod ≤ s.lamps.period + 1 then { s with lamps := { s.lamps with period := 0, due := true } }
    else { s with lamps := { s.lamps with period := s.lamps.period + 1 } }
  else s

/-! ## Lamp commands -/

/-- LAMP_FORCE (R139). -/
def workLampForce : List Octet → State → Work
  | [a, b, f], s =>
    checkedRoom false true a b (decide (f.toNat ≤ 1)) s fun r =>
      .done .ok [] (s.updLamp r fun l => { l with maint := f == 1 })
  | _, s => .refuse .badArgument s

/-- A lamp sub-record after LAMP_RESUME's steps 1 and 2 (R140). -/
def lampResumed (l : LampRecord) : LampRecord :=
  { l with maint := false, fault := false, failures := 0, absent := false, shut := l.shut && l.offHook }

/-- LAMP_RESUME (R140). -/
def workLampResume : List Octet → State → Work
  | [a, b], s =>
    checkedRoom false true a b true s fun r =>
      if (s.classOf r).lampManual = true ∧ (s.room r).lamp.offHook = true then .refuse .busy s
      else .done .ok [] (evaluateLamp r (s.updLamp r lampResumed))
  | _, s => .refuse .badArgument s

/-- Every room's last ordered state becomes UNKNOWN, and every room is evaluated in ascending index (R141). -/
def lampResync (s : State) : State :=
  (List.finRange 2048).foldl (fun s r => evaluateLamp r s)
    { s with rooms := mapVector (fun x => { x with lamp := { x.lamp with ordered := none } }) s.rooms }

/-- LAMP_RESYNC (R141). -/
def workLampResync : List Octet → State → Work
  | [], s => if s.service = .mounting then .refuse .badState s else .done .ok [] (lampResync s)
  | _, s => .refuse .badArgument s

/-! ## The meanings -/

/-- HOOK (R131). -/
def execHook (x : Nat) (offHook : Bool) (s : State) : Host.Outcome State Fault Refusal := event (takeHook x offHook) s

/-- LAMP_SENSE (R137). -/
def execLampSense (x : Nat) (result : Sense) (s : State) : Host.Outcome State Fault Refusal :=
  event (takeSense x result) s

/-- SWEEP (R133). -/
def execSweep (s : State) : Host.Outcome State Fault Refusal := event takeSweep s

/-- LAMP_FORCE (R139). -/
def execLampForce (tag : Octet) (fields : List Octet) (s : State) : Host.Outcome State Fault Refusal :=
  event (holderTake 0x5A tag fields (workLampForce fields)) s

/-- LAMP_RESUME (R140). -/
def execLampResume (tag : Octet) (fields : List Octet) (s : State) : Host.Outcome State Fault Refusal :=
  event (holderTake 0x5B tag fields (workLampResume fields)) s

/-- LAMP_RESYNC (R141). -/
def execLampResync (tag : Octet) (fields : List Octet) (s : State) : Host.Outcome State Fault Refusal :=
  event (holderTake 0x5C tag fields (workLampResync fields)) s

end Sys2Proof.Machine
end

