-- ==== Sys2Proof/Machine/Tables.lean ====
section
/-! DEFINITION. The table, trunk, clock and service commands: LOAD_TABLE, LOAD_TRUNK, LOAD_EXPANSION, SET_CLOCK,
QUERY_STATUS, START_SERVICE, SUSPEND, CLEAR_ATTENTION and RESET_CHANNEL. -/

namespace Sys2Proof.Machine

/-! ## LOAD_TABLE: classes (R35) -/

/-- A value lies in a range, both ends included. -/
def within (lo hi n : Nat) : Bool := decide (lo ≤ n ∧ n ≤ hi)

/-- Every field of a class record lies in its range (R35). -/
def ClassRecord.ranged (k : ClassRecord) : Bool :=
  within 1 64 k.mailboxLimit && within 10 600 k.maxLength && within 0 30 k.noVoice && within 2 30 k.menuTimeout &&
    within 0 60 k.grace && within 0 2000 k.markup && within 0 120 k.timedAnswer && [1, 2, 4, 8].contains k.faultThreshold

/-- A class record replaced, with the effects of R37 on the rooms of the class in index order. -/
def loadClass (k : ClassIx) (new : ClassRecord) (s : State) : State :=
  let old := s.classes[k]
  (s.roomsWhere fun x => x.cls == k).foldl (fun s r => classChanged old new r s)
    { s with classes := s.classes.set k new }

/-- LOAD_TABLE_CLASS (R35). -/
def workLoadClass : List Octet → State → Work
  | [k, mb, l1, l0, nv, mt, gr, m1, m0, ta, bl, cr, sd, lr, ft], s =>
    let new : ClassRecord :=
      { mailboxLimit := mb.toNat, maxLength := field16 l1 l0, noVoice := nv.toNat, menuTimeout := mt.toNat,
        grace := gr.toNat, markup := field16 m1 m0, timedAnswer := ta.toNat, billing := bl == 1, creditManual := cr == 1,
        shutdownHold := sd == 1, lampManual := lr == 1, faultThreshold := ft.toNat }
    let codes := decide (k.toNat ≤ 15 ∧ bl.toNat ≤ 1 ∧ cr.toNat ≤ 1 ∧ sd.toNat ≤ 1 ∧ lr.toNat ≤ 1)
    if s.service = .mounting then .refuse .badState s
    else if codes && new.ranged then .done .ok [] (loadClass (Fin.ofNat 16 k.toNat) new s)
    else .refuse .badArgument s
  | _, s => .refuse .badArgument s

/-! ## LOAD_TABLE: the tariff (R150, R152, R153) -/

/-- The digit string is held by a non-empty prefix entry other than entry `i` (R150). -/
def Tariff.holdsElsewhere (t : Tariff) (digits : List Nat) (i : Nat) : Bool :=
  t.entries.toList.zipIdx.any fun e => decide (e.2 ≠ i) && e.1.any (fun x => x.digits == digits)

/-- The action of a PREFIX load whose checks have passed. -/
def actionOf (act band : Octet) : Action := if act = 0 then .free else .meter (Fin.ofNat 32 band.toNat)

/-- One prefix entry written or emptied, or the default entry written (R150). -/
def writePrefix (index count : Nat) (digits : List Nat) (action : Action) (bar : BitVec 16) (t : Tariff) : Tariff :=
  if index = 512 then { t with defaultAction := action, defaultBar := bar }
  else
    { t with entries := t.entries.set (Fin.ofNat 512 index)
               (if count = 0 then none else some { digits := digits, action := action, bar := bar }) }

/-- LOAD_TABLE_PREFIX (R150). -/
def workLoadPrefix : List Octet → State → Work
  | [i1, i0, n, d0, d1, d2, d3, d4, d5, d6, d7, act, band, b1, b0], s =>
    let index := field16 i1 i0
    let count := n.toNat
    let digits := (nibblesOf [d0, d1, d2, d3, d4, d5, d6, d7]).take count
    if s.service = .mounting then .refuse .badState s
    else if 512 < index then .refuse .badArgument s
    else if index < 512 ∧ (16 < count ∨ digits.any (9 < ·) = true) then .refuse .badArgument s
    else if 1 < act.toNat ∨ (act = 1 ∧ 31 < band.toNat) then .refuse .badArgument s
    else if index < 512 ∧ count ≠ 0 ∧ s.tariff.holdsElsewhere digits index = true then .refuse .badArgument s
    else .done .ok [] { s with tariff := writePrefix index count digits (actionOf act band) (b1 ++ b0) s.tariff }
  | _, s => .refuse .badArgument s

/-- LOAD_TABLE_BAND (R152). -/
def workLoadBand : List Octet → State → Work
  | [b, p, p1, p0, c1, c0, u1, u0, cu1, cu0, m1, m0], s =>
    let new : BandPeriod :=
      { p0 := field16 p1 p0, c0 := field16 c1 c0, u := field16 u1 u0, cu := field16 cu1 cu0, cmin := field16 m1 m0 }
    if s.service = .mounting then .refuse .badState s
    else if b.toNat ≤ 31 ∧ p.toNat ≤ 3 ∧ new.p0 ≤ 3600 ∧ 1 ≤ new.u ∧ new.u ≤ 3600 then
      let band : Fin 32 := Fin.ofNat 32 b.toNat
      .done .ok []
        { s with tariff := { s.tariff with
            bands := s.tariff.bands.set band ((s.tariff.bands[band]).set (Fin.ofNat 4 p.toNat) new) } }
    else .refuse .badArgument s
  | _, s => .refuse .badArgument s

/-- The entries of a SCHEDULE load: start second and period octet. -/
def scheduleEntries : List Octet → List (Nat × Nat)
  | a :: b :: c :: p :: l => (field24 a b c, p.toNat) :: scheduleEntries l
  | _ => []

/-- The starts of some schedule entries strictly ascend. -/
def ascending : List (Nat × Nat) → Bool
  | a :: b :: l => decide (a.1 < b.1) && ascending (b :: l)
  | _ => true

/-- The entries, mask and weekend period of a SCHEDULE load lie in their ranges (R153). -/
def scheduleRanged (entries : List (Nat × Nat)) (mask weekend : Octet) : Bool :=
  within 1 8 entries.length && (entries.head?.map (·.1) == some 0) && ascending entries &&
    entries.all (fun e => decide (e.1 < Config.secondsPerDay ∧ e.2 ≤ 3)) && decide (weekend.toNat ≤ 3 ∧ mask.toNat < 128)

/-- The schedule of a load whose checks have passed. -/
def scheduleOf (entries : List (Nat × Nat)) (mask weekend : Octet) : Schedule :=
  { entries := entries.map fun e => (e.1, Fin.ofNat 4 e.2), weekend := mask.truncate 7,
    weekendPeriod := Fin.ofNat 4 weekend.toNat }

/-- LOAD_TABLE_SCHEDULE (R153). The length the table gives is that of the entry count carried (R19). -/
def workLoadSchedule : List Octet → State → Work
  | n :: l, s =>
    if l.length ≠ 4 * n.toNat + 2 then .refuse .badArgument s
    else if s.service = .mounting then .refuse .badState s
    else
      let entries := scheduleEntries (l.take (4 * n.toNat))
      let mask := l.getD (4 * n.toNat) 0
      let weekend := l.getD (4 * n.toNat + 1) 0
      if scheduleRanged entries mask weekend then
        .done .ok [] { s with tariff := { s.tariff with schedule := scheduleOf entries mask weekend } }
      else .refuse .badArgument s
  | [], s => .refuse .badArgument s

/-! ## LOAD_TABLE: parameters (R74, R115, R133) -/

/-- LOAD_TABLE_PARAMETERS (R74). The store-low test follows a load that passes (R115); the lamp period count is kept
(R133). -/
def workLoadParameters : List Octet → State → Work
  | [t1, t0, w2, w1, w0, rs, lp, ho, si], s =>
    if s.service = .mounting then .refuse .badState s
    else if within 0 8191 (field16 t1 t0) && within 0 65536 (field24 w2 w1 w0) && within 1 64 rs.toNat &&
        within 1 10 lp.toNat && within 0 3 ho.toNat && [1, 2, 4, 8].contains si.toNat then
      .done .ok []
        (storeLowTest
          { s with coder := { s.coder with threshold := field16 t1 t0 }
                   store := { s.store with lowWater := field24 w2 w1 w0, reserve := rs.toNat }
                   lamps := { s.lamps with lampPeriod := lp.toNat, holdOff := ho.toNat, senseInterval := si.toNat } })
    else .refuse .badArgument s
  | _, s => .refuse .badArgument s

/-- LOAD_TABLE as the holder takes it (R178): BAD_KIND for a table number that is not 1–5, BAD_ARGUMENT for none. -/
def workLoadTable : List Octet → State → Work
  | [], s => .refuse .badArgument s
  | t :: fields, s =>
    match t.toNat with
    | 1 => workLoadClass fields s
    | 2 => workLoadPrefix fields s
    | 3 => workLoadBand fields s
    | 4 => workLoadSchedule fields s
    | 5 => workLoadParameters fields s
    | _ => .refuse .badKind s

/-! ## LOAD_TRUNK and LOAD_EXPANSION -/

/-- A slot is the mapped slot of a trunk other than `t` (R4). -/
def State.mappedElsewhere (s : State) (k : Fin 126) (t : TrunkIx) : Bool :=
  s.trunks.toList.zipIdx.any fun e => decide (e.2 ≠ t.val ∧ e.1.slot = some k)

/-- LOAD_TRUNK for a mapping, or for none (R4). -/
def mapTrunk (t : TrunkIx) (slot : Option (Fin 126)) (s : State) : Work :=
  if (s.trunk t).meter.isSome then .refuse .busy s else .done .ok [] (s.updTrunk t fun x => { x with slot := slot })

/-- LOAD_TRUNK (R4). -/
def workLoadTrunk : List Octet → State → Work
  | [t, k], s =>
    let t : TrunkIx := Fin.ofNat 256 t.toNat
    if s.service = .mounting then .refuse .badState s
    else if h : k.toNat < 126 then
      if (s.boundTo k).isSome then .refuse .badArgument s
      else if s.mappedElsewhere ⟨k.toNat, h⟩ t then .refuse .badArgument s
      else mapTrunk t (some ⟨k.toNat, h⟩) s
    else if k = 0xFF then mapTrunk t none s
    else .refuse .badArgument s
  | _, s => .refuse .badArgument s

/-- Consecutive entries of the expansion table written from index `i`, clamped and marked (R68). -/
def writeEntries : Nat → List Octet → Coder → Coder
  | i, a :: b :: l, c =>
    writeEntries (i + 1) l
      { c with expansion := c.expansion.setIfInBounds i (clampLinear (fieldInt16 a b))
               loaded := c.loaded.setIfInBounds i true }
  | _, _, c => c

/-- LOAD_EXPANSION (R68): 1–28 entries of two octets. -/
def workLoadExpansion : List Octet → State → Work
  | i :: l, s =>
    if l.length % 2 ≠ 0 ∨ l.length = 0 ∨ 56 < l.length then .refuse .badArgument s
    else if s.service ≠ .setup then .refuse .badState s
    else if 256 < i.toNat + l.length / 2 then .refuse .badArgument s
    else .done .ok [] { s with coder := writeEntries i.toNat l s.coder }
  | [], s => .refuse .badArgument s

/-! ## Clock, status and service -/

/-- SET_CLOCK taken (R6). -/
def setClock (second weekday day : Nat) (s : State) : State :=
  { s with clock := { frames := 0, seconds := second, weekday := weekday, day := day, unset := false }
           attention := attentionRemove s.attention (attentionBit .clockUnset) }

/-- SET_CLOCK (R6). -/
def workSetClock : List Octet → State → Work
  | [s2, s1, s0, w, d1, d0], s =>
    if field24 s2 s1 s0 < Config.secondsPerDay ∧ w.toNat ≤ 6 then
      .done .ok [] (setClock (field24 s2 s1 s0) w.toNat (field16 d1 d0) s)
    else .refuse .badArgument s
  | _, s => .refuse .badArgument s

/-- The reply data of QUERY_STATUS (R20, R186). -/
def State.statusReport (s : State) : List Octet :=
  [s.service.code] ++ octets2 s.attention.toNat ++ octets3 s.clock.seconds ++ octets1 s.clock.weekday ++
    octets2 s.clock.day ++ [yesNo s.clock.unset] ++ octets1 s.link.queue.length ++ octets2 s.charges.length ++
    octets1 s.openMeters ++ octets2 s.checkouts

/-- QUERY_STATUS (R186). -/
def workQueryStatus : List Octet → State → Work
  | [], s => .done .ok s.statusReport s
  | _, s => .refuse .badArgument s

/-- The start conditions (R181). -/
def State.startReady (s : State) : Bool := s.store.geometrySet && s.store.mounted && s.coder.complete

/-- The device enters IN_SERVICE with the silence code chosen (R69, R181). -/
def enterService (s : State) : State :=
  { s with service := .inService, coder := { s.coder with silence := some (silenceCodeOf s.coder.expansion) } }

/-- START_SERVICE (R181). -/
def workStartService : List Octet → State → Work
  | [], s =>
    if (s.service = .setup ∧ s.startReady = true) ∨ s.service = .suspended then .done .ok [] (enterService s)
    else .refuse .badState s
  | _, s => .refuse .badArgument s

/-- SUSPEND taken (R182). -/
def suspend (s : State) : State := drainTest (closeChannels (fun _ => true) { s with service := .suspending })

/-- SUSPEND (R182). -/
def workSuspend : List Octet → State → Work
  | [], s => if s.service = .inService then .done .ok [] (suspend s) else .refuse .badState s
  | _, s => .refuse .badArgument s

/-- The kinds a CLEAR_ATTENTION mask names: bits 13–15 are ignored (R18, R185). -/
def maskKinds (mask : BitVec 16) : BitVec 16 := mask &&& 0x1FFF

/-- CLEAR_ATTENTION taken (R185). -/
def clearAttention (mask : BitVec 16) (s : State) : State :=
  let s := { s with attention := attentionRemove s.attention (maskKinds mask) }
  if s.attention = 0 then s else offerNotice .attention s

/-- CLEAR_ATTENTION (R185). -/
def workClearAttention : List Octet → State → Work
  | [m1, m0], s => .done .ok [] (clearAttention (m1 ++ m0) s)
  | _, s => .refuse .badArgument s

/-- RESET_CHANNEL (R63). A FREE channel is left as it is, its encoder's counts of the last recording among the rest (log
entry 36). -/
def workResetChannel : List Octet → State → Work
  | [c], s =>
    if 31 < c.toNat then .refuse .badArgument s
    else
      let c : ChannelIx := Fin.ofNat 32 c.toNat
      if (s.chan c).state = .free then .done .ok [] s else .done .ok [] (drainTest (channelReset c s))
  | _, s => .refuse .badArgument s

/-! ## The meanings -/

/-- QUERY_STATUS (R186). -/
def execQueryStatus (tag : Octet) (fields : List Octet) (s : State) : Host.Outcome State Fault Refusal :=
  event (holderTake 0x40 tag fields (workQueryStatus fields)) s

/-- START_SERVICE (R181). -/
def execStartService (tag : Octet) (fields : List Octet) (s : State) : Host.Outcome State Fault Refusal :=
  event (holderTake 0x41 tag fields (workStartService fields)) s

/-- SUSPEND (R182). -/
def execSuspend (tag : Octet) (fields : List Octet) (s : State) : Host.Outcome State Fault Refusal :=
  event (holderTake 0x42 tag fields (workSuspend fields)) s

/-- CLEAR_ATTENTION (R185). -/
def execClearAttention (tag : Octet) (fields : List Octet) (s : State) : Host.Outcome State Fault Refusal :=
  event (holderTake 0x43 tag fields (workClearAttention fields)) s

/-- SET_CLOCK (R6). -/
def execSetClock (tag : Octet) (fields : List Octet) (s : State) : Host.Outcome State Fault Refusal :=
  event (holderTake 0x44 tag fields (workSetClock fields)) s

/-- LOAD_TABLE_CLASS (R35). -/
def execLoadTableClass (tag : Octet) (fields : List Octet) (s : State) : Host.Outcome State Fault Refusal :=
  event (holderTake 0x45 tag (1 :: fields) (workLoadClass fields)) s

/-- LOAD_TABLE_PREFIX (R150). -/
def execLoadTablePrefix (tag : Octet) (fields : List Octet) (s : State) : Host.Outcome State Fault Refusal :=
  event (holderTake 0x45 tag (2 :: fields) (workLoadPrefix fields)) s

/-- LOAD_TABLE_BAND (R152). -/
def execLoadTableBand (tag : Octet) (fields : List Octet) (s : State) : Host.Outcome State Fault Refusal :=
  event (holderTake 0x45 tag (3 :: fields) (workLoadBand fields)) s

/-- LOAD_TABLE_SCHEDULE (R153). -/
def execLoadTableSchedule (tag : Octet) (fields : List Octet) (s : State) : Host.Outcome State Fault Refusal :=
  event (holderTake 0x45 tag (4 :: fields) (workLoadSchedule fields)) s

/-- LOAD_TABLE_PARAMETERS (R74). -/
def execLoadTableParameters (tag : Octet) (fields : List Octet) (s : State) : Host.Outcome State Fault Refusal :=
  event (holderTake 0x45 tag (5 :: fields) (workLoadParameters fields)) s

/-- RESET_CHANNEL (R63). -/
def execResetChannel (tag : Octet) (fields : List Octet) (s : State) : Host.Outcome State Fault Refusal :=
  event (holderTake 0x4F tag fields (workResetChannel fields)) s

/-- LOAD_EXPANSION (R68). -/
def execLoadExpansion (tag : Octet) (fields : List Octet) (s : State) : Host.Outcome State Fault Refusal :=
  event (holderTake 0x50 tag fields (workLoadExpansion fields)) s

/-- LOAD_TRUNK (R4). -/
def execLoadTrunk (tag : Octet) (fields : List Octet) (s : State) : Host.Outcome State Fault Refusal :=
  event (holderTake 0x5D tag fields (workLoadTrunk fields)) s

end Sys2Proof.Machine
end

