-- ==== Sys2Proof/Machine/Highway.lean ====
section
/-! DEFINITION. The highway and the link (Chapter 1): the framers and the dispatch of their frames, the transmitter, one
highway frame, highway loss and return, the tick, and device reset. -/

namespace Sys2Proof.Machine

/-! ## Framers (R11) -/

/-- A framer that holds its LEN goes on to its payload, or to its CHECK when LEN is 0. -/
def Framer.lengthTaken (a k o : Octet) : Framer :=
  if 60 < o.toNat then .hunt else if o = 0 then .check a k o [] else .payload a k o []

/-- A frame delivered: its KIND and its payload. -/
abbrev Delivered := Octet × List Octet

/-- One octet taken by a framer, with the frame it delivers, if any (R11). -/
def Framer.take (o : Octet) : Framer → Framer × Option Delivered
  | .hunt => (if o = 0x7E then .addr else .hunt, none)
  | .addr => (.kind o, none)
  | .kind a => (.len a o, none)
  | .len a k => (Framer.lengthTaken a k o, none)
  | .payload a k n held =>
    (if held.length + 1 < n.toNat then .payload a k n (held ++ [o]) else .check a k n (held ++ [o]), none)
  | .check a k n held =>
    (.hunt, if octetSum (a :: k :: n :: held ++ [o]) = 0 then some (k, held) else none)

/-! ## Dispatch (R12, R13) -/

/-- A trunk octet. -/
def trunkOf (o : Octet) : TrunkIx := Fin.ofNat 256 o.toNat

/-- The purpose of a DIVERT, or none for a code outside the table (R17). -/
def purposeOf (o : Octet) : Option Purpose :=
  match o.toNat with
  | 0 => some .deposit
  | 1 => some .retrieve
  | 2 => some .notice
  | _ => none

/-- The key of a KEY frame, or none for a code outside the table (R17). -/
def keyOf (o : Octet) : Option Key :=
  if h : o.toNat < 10 then some (.digit ⟨o.toNat, h⟩)
  else if o = 0x0A then some .star
  else if o = 0x0B then some .hash
  else none

/-- The result of a LAMP_SENSE, or none for a code outside the table (R17). -/
def senseOf (o : Octet) : Option Sense :=
  match o.toNat with
  | 0 => some .ok
  | 1 => some .openLine
  | 2 => some .short
  | 3 => some .absent
  | _ => none

/-- A frame delivered on slot 126 (R12): interpreted when its KIND, LEN and values are those of an exchange frame. The
owners test the values of extensions and digits. -/
def snoop (f : Delivered) (s : State) : State :=
  match f.1.toNat, f.2 with
  | 0x10, [t, x2, x1, x0] => takeSeize (trunkOf t) (field24 x2 x1 x0) s
  | 0x11, t :: ds => takeDigit (trunkOf t) (ds.map (·.toNat)) s
  | 0x12, [t] => takeAnswered (trunkOf t) s
  | 0x13, [t] => takeCleared (trunkOf t) s
  | 0x14, [x2, x1, x0, h] => if h.toNat ≤ 1 then takeHook (field24 x2 x1 x0) (h == 1) s else s
  | _, _ => s

/-- The owner of a command kind 0x40–0x5F, by its number; `tag` is the command's own (R19, R178). -/
def commandOwner (kind : Nat) (tag : Octet) (fields : List Octet) : State → Work :=
  match kind with
  | 0x40 => workQueryStatus fields
  | 0x41 => workStartService fields
  | 0x42 => workSuspend fields
  | 0x43 => workClearAttention fields
  | 0x44 => workSetClock fields
  | 0x45 => workLoadTable fields
  | 0x46 => workLoadRoom fields
  | 0x47 => workCheckIn fields
  | 0x48 => workCheckOut fields
  | 0x49 => workSetCredit fields
  | 0x4A => workPostPayment fields
  | 0x4B => workUnbar fields
  | 0x4C => workDeskFlag fields
  | 0x4D => workDeleteMessages fields
  | 0x4E => workQueryRoom fields
  | 0x4F => workResetChannel fields
  | 0x50 => workLoadExpansion fields
  | 0x51 => workSetGeometry fields
  | 0x52 => workMount fields
  | 0x53 => workQueryStore fields
  | 0x54 => workPromptErase fields
  | 0x55 => workPromptPage fields
  | 0x56 => workPromptCommit fields
  | 0x57 => workPromptVerify fields
  | 0x58 => workPromptBlank fields
  | 0x59 => workPromptDir fields
  | 0x5A => workLampForce fields
  | 0x5B => workLampResume fields
  | 0x5C => workLampResync fields
  | 0x5D => workLoadTrunk fields
  | 0x5E => workFetchCharges tag fields
  | _ => workReleaseCharges fields

/-- A frame delivered on slot 127 (R13). -/
def dispatch (f : Delivered) (s : State) : State :=
  if 0x40 ≤ f.1.toNat ∧ f.1.toNat ≤ 0x5F then
    match f.2 with
    | [] => s
    | tag :: fields => holderTake f.1 tag fields (commandOwner f.1.toNat tag fields) s
  else
    match f.1.toNat, f.2 with
    | 0x20, [slot, x2, x1, x0, p] => (purposeOf p).elim s fun p => takeDivert slot (field24 x2 x1 x0) p s
    | 0x21, [slot] => takeSlotClear slot s
    | 0x22, [slot, k] => (keyOf k).elim s fun k => takeKey slot k s
    | 0x23, [x2, x1, x0, r] => (senseOf r).elim s fun r => takeSense (field24 x2 x1 x0) r s
    | _, _ => s

/-- The encoder steps due on the bound channels, in slot order: a frame's end (R74), then the limits tested at it (R76).
A step due from slots 0–125 comes before what slot 126 or 127 of its highway frame delivers (log entry 38); without a
delivery it waits for its row. -/
def encodersSettled (s : State) : State :=
  (s.highway.bindings.toList.filterMap id).foldl
    (fun s c => drainTest (noVoice c (maxLength c (speechFrameEnd c s)))) s

/-- One octet of slot 126 taken by its framer, and the frame it delivers handed over. -/
def takeSlot126 (o : Octet) (s : State) : State :=
  let r := s.link.framer126.take o
  let s := { s with link := { s.link with framer126 := r.1 } }
  r.2.elim s fun f => snoop f (encodersSettled s)

/-- One octet of slot 127 taken by its framer, and the frame it delivers dispatched. -/
def takeSlot127 (o : Octet) (s : State) : State :=
  let r := s.link.framer127.take o
  let s := { s with link := { s.link with framer127 := r.1 } }
  r.2.elim s fun f => dispatch f (encodersSettled s)

/-! ## Transmitter (R10, R14) -/

/-- The octets of the frame to be sent at slot-127 time: what is left of the frame in transmission, or the head frame of
the queue. -/
def State.toSend (s : State) : List Octet × List OutFrame :=
  match s.link.sending, s.link.queue with
  | [], f :: rest => (f.line s.attention, rest)
  | l, q => (l, q)

/-- Slot-127 time: the octet sent, 0xFF when there is nothing to send, and the transmitter moved on. -/
def transmit (s : State) : Octet × State :=
  let t := s.toSend
  (t.1.headD 0xFF, { s with link := { s.link with sending := t.1.tail, queue := t.2 } })

/-! ## A bound slot (R73, R79) -/

/-- The decoder of channel `c` moved on, its ring giving up the pages passed and raising reads (R79, R90). -/
def decoderMoved (c : ChannelIx) (d : Decoder) (s : State) : State :=
  (s.updDecoder c fun _ => d).updRing c fun r => r.advance d.position

/-- The output code of channel `c` for one highway frame (R79, R80): the silence code while it has no current item. -/
def playFrame (c : ChannelIx) (s : State) : Octet × State :=
  if (s.ring c).item.isNone then (s.coder.quiet, s)
  else
    match (s.decoder c).step (s.ring c).octet with
    | .wait => (s.coder.quiet, s)
    | .ends => (s.coder.quiet, itemEnd c s)
    | .quiet d => (s.coder.quiet, decoderMoved c d s)
    | .voice d => (recompand s.coder.expansion d.quant.p, decoderMoved c d s)

/-- The linear value of a highway code (R67). -/
def Coder.linear (k : Coder) (o : Octet) : Int := k.expansion.toList.getD o.toNat 0

/-- One highway frame of a bound slot: the encoder's sample, taken while its channel is in RECORD (R72), and then the
channel's output. -/
def boundFrame (c : ChannelIx) (o : Octet) (s : State) : Octet × State :=
  playFrame c (if (s.chan c).state = .record then s.updEncoder c (Encoder.take (s.coder.linear o)) else s)

/-! ## One highway frame (R1, R2) -/

/-- The slots of muted trunks (R2, R4). -/
def State.mutedSlots (s : State) : List Nat :=
  s.trunks.toList.filterMap fun t => if t.mute then t.slot.map (·.val) else none

/-- The 128 inbound octets of a highway frame: 0xFF for each slot not reached (R1). -/
def inbound (hin : List Octet) : Vector Octet 128 := vectorOf 128 0xFF hin

/-- What a speech slot carries by the bindings, mutes and delay line at the start of the frame (R2). -/
inductive SlotUse where
  | channel (c : ChannelIx)
  | carries (o : Octet)
deriving DecidableEq, Repr

/-- The use of each speech slot, in order. -/
def State.slotUses (s : State) : List SlotUse :=
  let muted := s.mutedSlots
  (s.highway.bindings.toList.zip s.highway.delay.toList).zipIdx.map fun b =>
    match b.1.1 with
    | some c => .channel c
    | none => .carries (if muted.contains b.2 then s.coder.quiet else b.1.2)

/-- The speech slots of a frame, in slot order: the octets driven, and the state after them. -/
def speechSlots : List SlotUse → List Octet → State → List Octet × State
  | .channel c :: us, o :: os, s =>
    let r := boundFrame c o s
    let rest := speechSlots us os r.2
    (r.1 :: rest.1, rest.2)
  | .carries x :: us, _ :: os, s =>
    let rest := speechSlots us os s
    (x :: rest.1, rest.2)
  | _, _, s => ([], s)

/-- Slot 127 of a frame: the octet driven when the slot is reached (R1, R14), then the octet received (log entry 9). A REPLY
waiting for an entry is not offered again between the two (log entry 39): a command delivered here while it waits meets an
occupied holder, and the entry freed here is open to what that delivery offers, a DIVERT's SLOT_DONE among it. -/
def slot127 (reached : Bool) (o : Octet) (s : State) : Octet × State :=
  let t := if reached then transmit s else (0xFF, s)
  (t.1, takeSlot127 o t.2)

/-- The frame counter advances at the end of a highway frame (R5); at 8,000 a tick is due. A SET_CLOCK delivered in slot
127 has returned the counter to 0 before this, so the end of its own frame is the first of R6's 8,000 (log entry 34). -/
def Clock.frameEnd (c : Clock) : Clock := { c with frames := min (c.frames + 1) Config.framesPerSecond }

/-- The slots of one highway frame. A channel that enters FREE in a speech slot is tested for the drain before slots 126
and 127 are taken (R182). -/
def frameSlots (hin : List Octet) (s : State) : State :=
  let octets := inbound hin
  let delayed := s.highway.delay[126]
  let speech := speechSlots s.slotUses octets.toList s
  let link := slot127 (decide (128 ≤ hin.length)) octets[127] (takeSlot126 octets[126] (drainTest speech.2))
  let s := link.2
  { s with highway := { s.highway with delay := octets, hout := (speech.1 ++ [delayed, link.1]).take hin.length }
           clock := s.clock.frameEnd }

/-- Every channel bound to a slot is treated as having received SLOT_CLEAR, in number order (R9, R64). -/
def clearBound (s : State) : State :=
  (channelIndices.filter fun c => (s.chan c).slot.isSome).foldl (fun s c => drainTest (slotCleared c s)) s

/-- The return actions (R9). -/
def highwayReturn (s : State) : State :=
  let s := place .holdExit s
  clearBound { s with highway := { s.highway with delay := Vector.replicate 128 0xFF } }

/-- An HFS pulse (R7): PRESENT with count 0, with the return actions from LOST. -/
def pulse (s : State) : State :=
  let s := if s.highway.presence = .lost then highwayReturn s else s
  { s with highway := { s.highway with presence := .present, missing := 0 } }

/-- HIGHWAY_FRAME (R1): while RESET is low, HOUT carries 0xFF and no octet is taken. -/
def takeFrame (hin : List Octet) (s : State) : State :=
  if s.resetLow then
    { s with highway := { s.highway with hout := List.replicate (min hin.length 128) 0xFF } }
  else frameSlots hin (pulse s)

/-! ## Highway loss (R7, R8, R161) -/

/-- The loss actions of the highway interface, the link and the meter bank. -/
def highwayLoss (s : State) : State :=
  { s with highway := { s.highway with presence := .lost }
           link := { s.link with framer126 := .hunt, framer127 := .hunt, sending := [] }
           meters := mapVector (Option.map meterLost) s.meters }

/-- SYNC_WINDOW_END (R7): sync windows are timed in PRESENT only. -/
def takeWindowEnd (s : State) : State :=
  if s.highway.presence = .present then
    let s := { s with highway := { s.highway with missing := s.highway.missing + 1 } }
    if Config.lossCount ≤ s.highway.missing then highwayLoss s else s
  else s

/-! ## The tick (R5) -/

/-- The clock after a tick. -/
def Clock.tick (c : Clock) : Clock :=
  if c.seconds + 1 = Config.secondsPerDay then
    { c with frames := 0, seconds := 0, weekday := (c.weekday + 1) % 7, day := (c.day + 1) % 65536 }
  else { c with frames := 0, seconds := c.seconds + 1 }

/-- The tick given to the menu timers (R56). -/
def channelTick (x : Channel) : Channel := { x with timer := lowered x.timer }

/-- TICK (R5): only when the frame counter has reached 8,000, and not in highway loss (R8). -/
def takeTick (s : State) : State :=
  if s.clock.frames = Config.framesPerSecond ∧ s.highway.presence = .present then
    lampTick
      { s with clock := s.clock.tick
               channels := mapVector channelTick s.channels
               meters := if s.active then mapVector (Option.map meterTick) s.meters else s.meters }
  else s

/-! ## Device reset (R95, R187) -/

/-- The machine while RESET is held low: every block at its after-reset values, the flash pins at their reset levels. -/
def heldReset (s : State) : State :=
  { State.reset with pending := s.pending, resetLow := true,
                     port := { State.reset.port with drive := .resetLevels } }

/-- RESET returns high: the machine of `State.reset`, its port in STARTING with command 0xFF issued. -/
def released (s : State) : State := if s.resetLow then { State.reset with pending := s.pending } else s

/-! ## The meanings -/

/-- HIGHWAY_FRAME (R1). -/
def execHighwayFrame (hin : List Octet) (s : State) : Host.Outcome State Fault Refusal := .next (takeFrame hin s)

/-- SYNC_WINDOW_END (R7). -/
def execSyncWindowEnd (s : State) : Host.Outcome State Fault Refusal := event takeWindowEnd s

/-- TICK (R5). -/
def execTick (s : State) : Host.Outcome State Fault Refusal := event takeTick s

/-- DEVICE_RESET (R187). -/
def execDeviceReset (s : State) : Host.Outcome State Fault Refusal := .next (heldReset s)

/-- RESET_RELEASE (R187). -/
def execResetRelease (s : State) : Host.Outcome State Fault Refusal := .next (released s)

end Sys2Proof.Machine
end

