-- ==== Sys2Proof/Machine/Dispatch.lean ====
section
/-! DEFINITION. The dispatch of a command to its meaning, one arm per row of the table. -/

namespace Sys2Proof.Machine

def exec (i : Instr) (s : State) : Host.Outcome State Fault Refusal :=
  match i with
  | .highwayFrame hin => Sys2Proof.Machine.execHighwayFrame hin s
  | .syncWindowEnd => Sys2Proof.Machine.execSyncWindowEnd s
  | .tick => Sys2Proof.Machine.execTick s
  | .deviceReset => Sys2Proof.Machine.execDeviceReset s
  | .portStartEnd => Sys2Proof.Machine.execPortStartEnd s
  | .seizeOut trunk extension => Sys2Proof.Machine.execSeizeOut trunk extension s
  | .digit trunk digits => Sys2Proof.Machine.execDigit trunk digits s
  | .answered trunk => Sys2Proof.Machine.execAnswered trunk s
  | .timedAnswerExpiry meter => Sys2Proof.Machine.execTimedAnswerExpiry meter s
  | .unitBoundary meter => Sys2Proof.Machine.execUnitBoundary meter s
  | .cleared trunk => Sys2Proof.Machine.execCleared trunk s
  | .hook extension offHook => Sys2Proof.Machine.execHook extension offHook s
  | .divert slot extension purpose => Sys2Proof.Machine.execDivert slot extension purpose s
  | .slotClear slot => Sys2Proof.Machine.execSlotClear slot s
  | .key slot k => Sys2Proof.Machine.execKey slot k s
  | .lampSense extension result => Sys2Proof.Machine.execLampSense extension result s
  | .speechFrameEnd channel => Sys2Proof.Machine.execSpeechFrameEnd channel s
  | .maxLengthReached channel => Sys2Proof.Machine.execMaxLengthReached channel s
  | .noVoiceTimeout channel => Sys2Proof.Machine.execNoVoiceTimeout channel s
  | .menuTimerExpiry channel => Sys2Proof.Machine.execMenuTimerExpiry channel s
  | .sweep => Sys2Proof.Machine.execSweep s
  | .arbiterChoice => Sys2Proof.Machine.execArbiterChoice s
  | .programComplete pass => Sys2Proof.Machine.execProgramComplete pass s
  | .heldProgramComplete pass => Sys2Proof.Machine.execHeldProgramComplete pass s
  | .readComplete result => Sys2Proof.Machine.execReadComplete result s
  | .heldReadComplete result => Sys2Proof.Machine.execHeldReadComplete result s
  | .eraseComplete pass => Sys2Proof.Machine.execEraseComplete pass s
  | .markComplete pass => Sys2Proof.Machine.execMarkComplete pass s
  | .mountReadComplete result => Sys2Proof.Machine.execMountReadComplete result s
  | .promptEraseComplete pass => Sys2Proof.Machine.execPromptEraseComplete pass s
  | .promptProgramComplete pass => Sys2Proof.Machine.execPromptProgramComplete pass s
  | .promptReadComplete result => Sys2Proof.Machine.execPromptReadComplete result s
  | .flashTimeout => Sys2Proof.Machine.execFlashTimeout s
  | .portRecoveryEnd => Sys2Proof.Machine.execPortRecoveryEnd s
  | .replyEntry => Sys2Proof.Machine.execReplyEntry s
  | .fetchChargesEntry => Sys2Proof.Machine.execFetchChargesEntry s
  | .queryStatus tag fields => Sys2Proof.Machine.execQueryStatus tag fields s
  | .startService tag fields => Sys2Proof.Machine.execStartService tag fields s
  | .suspend tag fields => Sys2Proof.Machine.execSuspend tag fields s
  | .clearAttention tag fields => Sys2Proof.Machine.execClearAttention tag fields s
  | .setClock tag fields => Sys2Proof.Machine.execSetClock tag fields s
  | .loadTableClass tag fields => Sys2Proof.Machine.execLoadTableClass tag fields s
  | .loadTablePrefix tag fields => Sys2Proof.Machine.execLoadTablePrefix tag fields s
  | .loadTableBand tag fields => Sys2Proof.Machine.execLoadTableBand tag fields s
  | .loadTableSchedule tag fields => Sys2Proof.Machine.execLoadTableSchedule tag fields s
  | .loadTableParameters tag fields => Sys2Proof.Machine.execLoadTableParameters tag fields s
  | .loadRoom tag fields => Sys2Proof.Machine.execLoadRoom tag fields s
  | .checkIn tag fields => Sys2Proof.Machine.execCheckIn tag fields s
  | .checkOut tag fields => Sys2Proof.Machine.execCheckOut tag fields s
  | .setCredit tag fields => Sys2Proof.Machine.execSetCredit tag fields s
  | .postPayment tag fields => Sys2Proof.Machine.execPostPayment tag fields s
  | .unbar tag fields => Sys2Proof.Machine.execUnbar tag fields s
  | .deskFlag tag fields => Sys2Proof.Machine.execDeskFlag tag fields s
  | .deleteMessages tag fields => Sys2Proof.Machine.execDeleteMessages tag fields s
  | .queryRoom tag fields => Sys2Proof.Machine.execQueryRoom tag fields s
  | .resetChannel tag fields => Sys2Proof.Machine.execResetChannel tag fields s
  | .loadExpansion tag fields => Sys2Proof.Machine.execLoadExpansion tag fields s
  | .setGeometry tag fields => Sys2Proof.Machine.execSetGeometry tag fields s
  | .mount tag fields => Sys2Proof.Machine.execMount tag fields s
  | .queryStore tag fields => Sys2Proof.Machine.execQueryStore tag fields s
  | .promptErase tag fields => Sys2Proof.Machine.execPromptErase tag fields s
  | .promptPage tag fields => Sys2Proof.Machine.execPromptPage tag fields s
  | .promptCommit tag fields => Sys2Proof.Machine.execPromptCommit tag fields s
  | .promptVerify tag fields => Sys2Proof.Machine.execPromptVerify tag fields s
  | .promptBlank tag fields => Sys2Proof.Machine.execPromptBlank tag fields s
  | .promptDir tag fields => Sys2Proof.Machine.execPromptDir tag fields s
  | .lampForce tag fields => Sys2Proof.Machine.execLampForce tag fields s
  | .lampResume tag fields => Sys2Proof.Machine.execLampResume tag fields s
  | .lampResync tag fields => Sys2Proof.Machine.execLampResync tag fields s
  | .loadTrunk tag fields => Sys2Proof.Machine.execLoadTrunk tag fields s
  | .fetchCharges tag fields => Sys2Proof.Machine.execFetchCharges tag fields s
  | .releaseCharges tag fields => Sys2Proof.Machine.execReleaseCharges tag fields s
  | .resetRelease => Sys2Proof.Machine.execResetRelease s

end Sys2Proof.Machine
end

