-- ==== Sys2Proof/Safety.lean ====
section
/-! DEFINITION. The terms in which claims are made: when a command can be taken, what a reply adds, the link frames that
carry the commands, a framer fed with a list of octets, and the invariants of the machine. -/

namespace Sys2Proof.Machine

/-! ## Taking a command -/

/-- A management command is taken and its reply enters at once: RESET is high, the holder is empty, and an outbound entry
is free (R177, R15). -/
def State.ready (s : State) : Prop := s.resetLow = false ∧ s.link.holder = none ∧ s.link.queue.length < 64

/-- `l` with a REPLY at the tail of the outbound queue. -/
def Link.replied (l : Link) (tag : Octet) (st : Status) (data : List Octet) : Link :=
  { l with queue := l.queue ++ [.reply tag st data] }

/-- A command is refused: its reply carries no data, and nothing else changes (R178). -/
def State.refused (s : State) (tag : Octet) (st : Status) : State := { s with link := s.link.replied tag st [] }

/-- The highway, apart from its framers, has nothing to hand over: no slot is bound and both framers hunt. -/
def State.quietHighway (s : State) : Prop :=
  (∀ k : Fin 126, s.highway.bindings[k] = none) ∧ s.link.framer126 = .hunt ∧ s.link.framer127 = .hunt

/-- `s` with an attention kind placed (R184, with an entry free): into an empty set it brings one ATTENTION frame. -/
def State.placed (s : State) (k : Attention) : State :=
  { s with attention := s.attention ||| attentionBit k
           link := if s.attention = 0 then { s.link with queue := s.link.queue ++ [.attention] } else s.link }

/-- The free, dirty and erasing blocks of a mounted store stand below its low-water mark (R115). -/
abbrev Store.low (t : Store) : Prop :=
  t.mounted = true ∧ t.free.length + t.dirty.length + (if t.erasing = none then 0 else 1) < t.lowWater

/-- `s` with STORE_LOW placed when its store is low (R115). -/
def State.lowTested (s : State) : State := if s.store.low then s.placed .storeLow else s

/-! ## Flash -/

/-- `s` with the port IDLE after an operation, the pins having carried the status and what a read that passed gave (R94). -/
def State.opEnded (s : State) (pass : Bool) (read : List Octet) : State :=
  { s with port := { s.port with
      state := .idle, op := none
      drive := .cycles ([.ready, .command 0x70, .status (!pass)] ++
        if read = [] then [] else .command 0x00 :: read.map .read) } }

/-- `s` with an operation issued: the port is BUSY with it, the pins having carried its cycles (R93). -/
def State.opIssued (s : State) (op : FlashOp) (cycles : List FlashCycle) : State :=
  { s with port := { s.port with state := .busy, op := some op, drive := .cycles cycles } }

/-- A row address on the flash pins: three octets, low octet first (R93). -/
def rowAddress (page : Nat) : List FlashCycle :=
  [.address (BitVec.ofNat 8 (page % 256)), .address (BitVec.ofNat 8 (page / 256 % 256)),
   .address (BitVec.ofNat 8 (page / 65536 % 256))]

/-- The completion with a failing status of the operation in progress (R94). -/
def failedCompletion (s : State) : FlashOp → Instr
  | .ringProgram c .. => if s.programLeft c then .heldProgramComplete false else .programComplete false
  | .ringRead c .. => if s.readHeld c then .heldReadComplete .fail else .readComplete .fail
  | .erase _ => .eraseComplete false
  | .mark .. => .markComplete false
  | .mountRead _ => .mountReadComplete .fail
  | .promptErase _ => .promptEraseComplete false
  | .promptProgram .. => .promptProgramComplete false
  | .promptRead _ | .promptReadSpare _ => .promptReadComplete .fail

/-- `s` with the held command's reply in the queue and the holder empty (R179, with an entry free). -/
def State.answered (s : State) (tag : Octet) (st : Status) (data : List Octet) : State :=
  { s with link := { s.link with queue := s.link.queue ++ [.reply tag st data], holder := none } }

/-! ## Events in their order, and the drain -/

/-- What a list of commands, each run by `exec`, makes of a state. -/
def ran (l : List Instr) (s : State) : Host.Outcome State Fault Refusal :=
  l.foldl (fun o c => match o with | .next z => exec c z | o => o) (.next s)

/-- `s` with SUSPENDED entered when it stands in SUSPENDING with the drain condition true (R182): every channel FREE, no
recorded page requested or being programmed, no page held for a program, no mark queued and none in progress. -/
def State.drains (s : State) : State :=
  if s.service = .suspending ∧ (∀ c, (s.chan c).state = .free) ∧
      (∀ c, (∀ p ∈ (s.ring c).recorded, p.status = .filling ∨ p.status = .full) ∧ .program ∉ (s.ring c).held) ∧
      s.store.marks = [] ∧ s.store.marking = none then
    { s with service := .suspended }
  else s

/-! ## Messages and their readers -/

/-- The store when a reader leaves message `n` (R59): its reader count falls, and a DELETING message then without a reader
is settled when none of its pages is being programmed (`busy`) and its mark is not queued (R113). The DELETED mark is queued,
page 15 of the head block being blank. -/
def Store.readerLeft (n : Nat) (busy : Bool) (t : Store) : Store :=
  match t.messages.find? (·.serial = n) with
  | none => t
  | some m =>
    let settled := decide (m.state = .deleting ∧ m.readers ≤ 1 ∧ m.deletedPending = false) && !busy
    { t with
      messages := t.messages.map fun x =>
        if x.serial = n then { x with readers := x.readers - 1, deletedPending := x.deletedPending || settled } else x
      marks := t.marks ++ if settled then [(n, .deleted)] else [] }

/-- The store when the channel with record `x` leaves its current message, if it is a reader of one (R59). -/
def Channel.leaves (x : Channel) (busy : Nat → Bool) (t : Store) : Store :=
  match x.reading, x.current with
  | true, some n => t.readerLeft n (busy n)
  | _, _ => t

/-- The store when message `n` takes the delete path (R112): a HEARD mark still queued is cancelled; a message with no page
programmed is freed at once, its blocks to the bad table where their retire flag is set and to the dirty list where not;
any other becomes DELETING, and when it is settled at once (R113) its DELETED mark is queued, page 15 of the head block being
blank. -/
def Store.deleted (n : Nat) (busy : Bool) (t : Store) : Store :=
  match t.messages.find? (·.serial = n) with
  | none => t
  | some m =>
    if m.state = .deleting then t
    else
      let marks := t.marks.filter (· ≠ (n, .heard))
      let settled := decide (m.readers = 0 ∧ m.deletedPending = false) && !busy
      if m.blocks.all (·.valid = 0) then
        { t with marks := marks
                 messages := t.messages.filter (·.serial ≠ n)
                 dirty := t.dirty ++ (m.blocks.filter (!·.retire)).map (·.block)
                 bad := ((m.blocks.filter (·.retire)).map (·.block)).foldl
                   (fun l b => if b ∈ l then l else l ++ [b]) t.bad }
      else
        { t with marks := marks ++ if settled then [(n, .deleted)] else []
                 messages := t.messages.map fun x =>
                   if x.serial = n then { x with state := .deleting, deletedPending := x.deletedPending || settled }
                   else x }

/-- A room after message `m`, NEW or HEARD, has left its mailbox (R23). -/
def Room.without (m : Message) (x : Room) : Room :=
  { x with mailbox := x.mailbox.filter (· ≠ m.serial)
           newCount := x.newCount - (if m.state = .new then 1 else 0)
           urgentCount := x.urgentCount - (if m.state = .new ∧ m.urgent = true then 1 else 0) }

/-- `s` when message `n` takes the delete path (R112): it leaves its room's mailbox and counts, or its recording count (R23),
and its blocks and record change as `Store.deleted` says; a message freed at once is followed by the store-low test (R115). -/
def State.deletes (n : Nat) (s : State) : State :=
  match s.message n with
  | none => s
  | some m =>
    if m.state = .deleting then s
    else
      let x := s.room m.room
      let left : Room := if m.state = .recording then { x with recordings := x.recordings - 1 } else x.without m
      let z : State := { s with rooms := s.rooms.set m.room left, store := s.store.deleted n (s.programming n) }
      if m.blocks.all (·.valid = 0) then z.lowTested else z

/-- `s` when the recording of message `n`, of which `voiceFrames` VOICE frames were accepted, is handed for commit (R109): it
becomes NEW when one of its pages has been programmed with pass, 25 VOICE frames were accepted and its room is OCCUPIED, and
enters its room's mailbox and counts (R23); else it takes the delete path. -/
def State.commits (n voiceFrames : Nat) (s : State) : State :=
  match s.message n with
  | none => s
  | some m =>
    let x := s.room m.room
    if m.blocks.all (·.valid = 0) ∨ voiceFrames < 25 ∨ x.occupancy ≠ .occupied then s.deletes n
    else
      let entered : Room :=
        { x with recordings := x.recordings - 1, mailbox := serialInsert n x.mailbox, newCount := x.newCount + 1
                 urgentCount := x.urgentCount + (if m.urgent then 1 else 0) }
      let new (y : Message) : Message := if y.serial = n then { y with state := .new } else y
      evaluateLamp m.room
        { s with rooms := s.rooms.set m.room entered, store := { s.store with messages := s.store.messages.map new } }

/-- `s` when a message is made HEARD (R110), page 14 of its head block being blank: a NEW message becomes HEARD, its room's
counts fall, the room's lamp is evaluated, and the HEARD mark is queued. Any other message stays. -/
def State.madeHeard (n : Nat) (s : State) : State :=
  match s.message n with
  | none => s
  | some m =>
    if m.state ≠ .new then s
    else
      let x := s.room m.room
      let heard : Room := { x with newCount := x.newCount - 1, urgentCount := x.urgentCount - (if m.urgent then 1 else 0) }
      let z := evaluateLamp m.room { s with rooms := s.rooms.set m.room heard }
      { z with store := { s.store with
          messages := s.store.messages.map fun y => if y.serial = n then { y with state := .heard } else y
          marks := s.store.marks ++ [(n, .heard)] } }

/-- `s` when every message of room `r`'s mailbox takes the delete path, in the order of their serials (R29, R39). -/
def State.emptied (r : RoomIx) (s : State) : State := (s.room r).mailbox.foldl (fun z n => z.deletes n) s

/-- In `t` room `r` holds no message of its mailbox in `s`: the mailbox is empty, its counts have fallen by the NEW and the
urgent NEW messages it held, each of them freed or DELETING. -/
def Emptied (r : RoomIx) (s t : State) : Prop :=
  let new (n : Nat) : Bool := (s.message n).any fun m => m.state = .new
  let urgent (n : Nat) : Bool := (s.message n).any fun m => m.state = .new ∧ m.urgent = true
  (t.room r).mailbox = [] ∧ (t.room r).newCount = (s.room r).newCount - (s.room r).mailbox.countP new ∧
    (t.room r).urgentCount = (s.room r).urgentCount - (s.room r).mailbox.countP urgent ∧
    ∀ n ∈ (s.room r).mailbox, ∀ m, t.message n = some m → m.state = .deleting

/-- The mark pages of every head block are blank (R111). -/
def State.marksBlank (s : State) : Prop := ∀ m ∈ s.store.messages, m.blank14 = true ∧ m.blank15 = true

/-- Every prompt has a directory entry (R45). -/
def State.prompted (s : State) : Prop := ∀ id : PromptId, s.store.prompts[id] ≠ none

/-- `s` with the record of channel `c` replaced. -/
def State.withChan (s : State) (c : ChannelIx) (x : Channel) : State := { s with channels := s.channels.set c x }

/-- `s` when channel `c` leaves its current message, if any (R59), the mark pages of its head block being blank. -/
def State.leaves (c : ChannelIx) (s : State) : State :=
  let x : Channel := s.chan c
  let z : State := { s with store := x.leaves s.programming s.store }
  z.withChan c { x with reading := false, current := none }

/-- `s` when message `n`, a DELETING message with no reader, no mark queued and no program in progress, is settled (R113): its
DELETED mark is queued, page 15 of its head block being blank. Any other message stays. -/
def State.settles (n : Nat) (s : State) : State :=
  match s.message n with
  | none => s
  | some m =>
    if m.state = .deleting ∧ m.readers = 0 ∧ m.deletedPending = false then
      { s with store := { s.store with
          messages := s.store.messages.map fun x => if x.serial = n then { x with deletedPending := true } else x
          marks := s.store.marks ++ [(n, .deleted)] } }
    else s

/-- `s` when channel `c` enters FREE (R42): it leaves its message, its item leaves the ring (R92), its play list, key holder
and timer are emptied, and its slot is unbound. -/
def State.frees (c : ChannelIx) (s : State) : State :=
  let z := s.leaves c
  let y := z.withChan c
    { z.chan c with state := .free, playList := [], keyHolder := none, timer := none, slot := none }
  { y with
    rings := z.rings.set c (s.ring c).leave
    highway := match (s.chan c).slot with
      | some k => { s.highway with bindings := s.highway.bindings.set k none }
      | none => s.highway }

/-! ## Play lists and the choice of a message -/

/-- `z` with `item` current on channel `c` (R45, R78, R88): the old item has left the ring (R92), the page sequence is that of
the prompt's directory entry or of the message's valid pages, the reads due are requested (R89), and the decoder stands at the
start of the stream. -/
def State.starts (c : ChannelIx) (item : PlayItem) (z : State) : State :=
  let pages :=
    match item with
    | .prompt id => (z.store.prompts[id]).elim [] fun e => (List.range e.count).map (e.first + ·)
    | .message n => (z.message n).elim [] fun m => m.blocks.flatMap fun e => (List.range e.valid).map (e.block * 16 + ·)
  let g : Ring := { (z.ring c).leave with item := some item, itemFlash := pages, itemCount := pages.length, nextItem := 0 }
  let d : Decoder :=
    { quant := { p := 0, i := 8 }, position := 0, extent := 512 * pages.length, inPlay := .nothing, lastOctet := 0 }
  { z with rings := z.rings.set c g.raiseReads, coder := { z.coder with decoders := z.coder.decoders.set c d } }

/-- A prompt with no directory entry (R45). -/
def State.missing (z : State) : PlayItem → Bool
  | .prompt id => (z.store.prompts[id]).isNone
  | .message _ => false

/-- `z` with PROMPT_MISSING placed when a missing prompt heads the list `l` (R45, with an entry free). -/
def State.misses (l : List PlayItem) (z : State) : State :=
  if (l.head?).any z.missing then z.placed .promptMissing else z

/-- `z` with list `l` played on channel `c` (R45): the missing prompts that come to its head are removed, PROMPT_MISSING being
placed, and the first other item is current; a list that empties leaves the channel with no item. -/
def State.plays (c : ChannelIx) (l : List PlayItem) (z : State) : State :=
  let y := (z.misses l).withChan c { z.chan c with playList := l.dropWhile z.missing }
  match l.dropWhile z.missing with
  | [] => { y with rings := z.rings.set c (z.ring c).leave }
  | i :: _ => State.starts c i y

/-- Message `n` is the first of mailbox `box`, which is in the order of serials (R23), to have state `st` and a serial above
`last` (R54). -/
def State.NextIs (s : State) (box : List Nat) (st : MsgState) (last : Option Nat) (n : Nat) : Prop :=
  let fits (k : Nat) : Prop := (∀ l, last = some l → l < k) ∧ ∃ m, s.message k = some m ∧ m.state = st
  fits n ∧ ∃ before after, box = before ++ n :: after ∧ ∀ k ∈ before, ¬fits k

/-- The choice of R54 for a channel with record `x`: the message found, if any, and whether the phase after it is KEPT. -/
def State.Chooses (s : State) (x : Channel) (box : List Nat) : Option Nat → Bool → Prop
  | some n, false => x.kept = false ∧ s.NextIs box .new x.last n
  | some n, true =>
    (x.kept = true ∧ s.NextIs box .heard x.last n) ∨
      (x.kept = false ∧ (∀ k, ¬s.NextIs box .new x.last k) ∧ s.NextIs box .heard none n)
  | none, kept =>
    kept = true ∧
      ((x.kept = true ∧ ∀ k, ¬s.NextIs box .heard x.last k) ∨
        (x.kept = false ∧ (∀ k, ¬s.NextIs box .new x.last k) ∧ ∀ k, ¬s.NextIs box .heard none k))

/-- `z` when channel `c` enters CLOSING with list `l` (R61): the list is played, and one that empties at once ends the closing
with SLOT_DONE COMPLETED (an entry being free) and the channel FREE. -/
def State.closesWith (c : ChannelIx) (l : List PlayItem) (z : State) : State :=
  let y := State.plays c l (z.withChan c { z.chan c with state := .closing })
  if l.dropWhile z.missing ≠ [] then y
  else
    State.frees c
      (match (z.chan c).slot with
       | some k =>
         { y with link := { y.link with queue := y.link.queue ++ [.slotDone (BitVec.ofNat 8 k.val) .completed] } }
       | none => y)

/-- `z` when channel `c` goes on to the message found by its choice, as a reader of it, with URGENT before an urgent one, or
to CLOSING with END_OF_MESSAGES when none is found (R54, R59). -/
def State.goesOn (c : ChannelIx) (found : Option Nat) (kept : Bool) (z : State) : State :=
  let x : Channel := z.chan c
  match found with
  | some n =>
    let urgent := (z.message n).elim false (·.urgent)
    let read (m : Message) : Message := if m.serial = n then { m with readers := m.readers + 1 } else m
    let y : State := { z with store := { z.store with messages := z.store.messages.map read } }
    State.plays c ((if urgent then [pUrgent] else []) ++ [.message n])
      (y.withChan c { x with state := .replay, kept := kept, last := some n, current := some n, reading := true })
  | none =>
    State.closesWith c [pEndOfMessages, pGoodbye]
      (z.withChan c { x with kept := true, last := if x.kept then x.last else none })

/-- `z` when channel `c` begins to record for room `r` (R48, R49, R72, R83): a message is created RECORDING with the next
serial, the room's recording count rises, the encoder runs with the limits of the room's class, and the ring takes recorded
pages. -/
def State.records (c : ChannelIx) (r : RoomIx) (z : State) : State :=
  let m : Message :=
    { serial := z.store.nextSerial, room := r, state := .recording, urgent := false, origin := none
      day := z.clock.day, second := z.clock.seconds, readers := 0, deletedPending := false, head := none
      blocks := [], blank14 := true, blank15 := true, written := 0 }
  let started : Encoder :=
    { state := .running, quant := { p := 0, i := 8 }, start := { p := 0, i := 8 }, samples := 0, peak := 0
      nibbles := [], pendingSilence := 0, frames := 0, voiceFrames := 0
      lengthLimit := (z.classOf r).maxLength * 50, noVoiceLimit := (z.classOf r).noVoice * 50 }
  { z with
    channels := z.channels.set c
      { z.chan c with state := .record, playList := [], current := some z.store.nextSerial }
    rooms := z.rooms.set r { z.room r with recordings := (z.room r).recordings + 1 }
    store := { z.store with messages := z.store.messages ++ [m], nextSerial := z.store.nextSerial + 1 }
    coder := { z.coder with encoders := z.coder.encoders.set c started }
    rings := z.rings.set c { (z.ring c).leave with ended := false, exhausted := false, nextPage := 0 } }

/-- `z` when the recording of channel `c` ends by a cause other than exhaustion, with two programs outstanding and pages in
its ring (R49, R77, R83): the encoder finishes, END and the padding are in the ring, and the channel enters FLUSH with the
list given, its caller gone or not. -/
def State.endsRecording (c : ChannelIx) (l : List PlayItem) (gone : Bool) (z : State) : State :=
  let x : Channel := z.chan c
  let y := z.withChan c { x with state := .flush, playList := l, callerPresent := x.callerPresent && !gone }
  { y with rings := z.rings.set c (z.ring c).finish
           coder := { z.coder with encoders := z.coder.encoders.set c (z.encoder c).finish } }

/-- `z` when a close request has reached channel `c` (R65): GREET, ANNOUNCE, REPLAY and LISTEN go to CLOSING with [GOODBYE],
the last three leaving their message; a recording ends with [MESSAGE_SAVED, GOODBYE]; the other states take no effect. -/
def State.closes (c : ChannelIx) (z : State) : State :=
  let goodbye (y : State) : State :=
    State.starts c pGoodbye (y.withChan c { y.chan c with state := .closing, playList := [pGoodbye] })
  match (z.chan c).state with
  | .greet => goodbye z
  | .announce | .replay | .listen => goodbye (z.leaves c)
  | .record => z.endsRecording c [pMessageSaved, pGoodbye] false
  | .free | .flush | .closing => z

/-- `z` when the flush of channel `c` ends (R50): the message is handed for commit, the encoder becomes IDLE, and the channel
goes on to CLOSING with its list when the caller is present, and to FREE when not. -/
def State.flushEnds (c : ChannelIx) (z : State) : State :=
  let x : Channel := z.chan c
  let y : State := x.current.elim z fun n => z.commits n (z.encoder c).voiceFrames
  let w : State := { y with coder := { y.coder with
                       encoders := y.coder.encoders.set c { z.encoder c with state := .idle } } }
  if x.callerPresent then
    State.starts c (x.playList.headD pGoodbye) (w.withChan c { x with state := .closing, current := none })
  else (w.withChan c { x with current := none }).frees c

/-- `z` when the flush of channel `c` ends, if it does: in FLUSH, the recording ended and no recorded page left (R86). -/
def State.flushTests (c : ChannelIx) (z : State) : State :=
  if (z.chan c).state = .flush ∧ (z.ring c).ended = true ∧ (z.ring c).recorded = [] then z.flushEnds c else z

/-- A new block is needed for the next page of message `m`: its block list is empty, or 16 pages of its last block have been
given (R104). -/
abbrev Message.needsBlock (m : Message) : Prop := m.blocks = [] ∨ 16 ≤ m.written

/-- A new block can be given to message `m` (R104, R107): one is free, and the block list holds fewer than 320. -/
abbrev State.hasBlock (z : State) (m : Message) : Prop := m.blocks.length < 320 ∧ z.store.free ≠ []

/-- `z` when one program request of channel `c` is raised (R84), the store giving the flash page of message `m` (R104): its
oldest FULL page becomes REQUESTED, with the next page of the last block, or with page 0 of the free-list head, which then
joins the block list and is followed by the store-low test (R115). -/
def State.requests (c : ChannelIx) (m : Message) (z : State) : State :=
  let block := if m.needsBlock then z.store.free.headD 0 else (m.blocks.getLast?.map (·.block)).getD 0
  let page := if m.needsBlock then 0 else m.written
  let given (x : Message) : Message :=
    { x with written := if m.needsBlock then 1 else x.written + 1
             blocks := x.blocks ++ if m.needsBlock then [{ block := block, valid := 0, retire := false }] else [] }
  let l := (z.ring c).recorded
  let g : Ring :=
    { z.ring c with
      recorded := l.modify (l.findIdx (·.status = .full)) fun p =>
        { p with status := .requested block page z.port.nextAge } }
  let y : State :=
    { z with rings := z.rings.set c g, port := { z.port with nextAge := z.port.nextAge + 1 }
             store := { z.store with
               free := if m.needsBlock then z.store.free.tail else z.store.free
               messages := z.store.messages.map fun x => if x.serial = m.serial then given x else x } }
  if m.needsBlock then y.lowTested else y

/-- `z` when the recording of channel `c` is exhausted (R107): STORE_FULL is placed when the free list is empty; every
recorded page but one being programmed leaves the ring, whose recording has ended; and a channel still in RECORD enters FLUSH
with [STORE_FULL, GOODBYE], or with [TIME_LIMIT, GOODBYE] when a block is free, its encoder finished (R49). An empty free
list is the cause given where the block list is full as well (log entry 35). -/
def State.exhausts (c : ChannelIx) (z : State) : State :=
  let x : Channel := z.chan c
  let y : State := if z.store.free = [] then z.placed .storeFull else z
  let g : Ring :=
    { z.ring c with recorded := (z.ring c).recorded.filter (·.isProgramming), ended := true, exhausted := true }
  let ended : State := { y with rings := z.rings.set c g }
  if x.state = .record then
    let w : State := { ended with coder := { z.coder with encoders := z.coder.encoders.set c (z.encoder c).finish } }
    w.withChan c { x with state := .flush, playList := [if z.store.free = [] then pStoreFull else pTimeLimit, pGoodbye] }
  else ended

/-! ## The mount -/

/-- `t` is `z` when the mount has ended (R120, R121): the blocks of the message area have the classes given, from block
`z.store.promptBlocks` upward, and its HEAD blocks, in block order, read as `heads`. The candidates are the first HEADs of
their serials, those with a DELETED mark left out, in the order of their serials; the chain of a serial is its lowest CONT
blocks of seq 1, 2 and onward, up to the first that is missing. The first 8,192 candidates are entered as messages and in
their rooms; the free blocks and the others that no message holds are listed in block order; and the store is mounted. -/
def MountEnded (classes : List BlockClass) (heads : List MountHead) (z t : State) : Prop :=
  let first := z.store.promptBlocks
  let cls (b : Nat) : Option BlockClass := if first ≤ b then classes[b - first]? else none
  let serials : List Nat := classes.filterMap fun k =>
    match k with | .head h => some h.serial | .cont n _ => some n | .free | .dirty => none
  ∃ (cands : List MountHead) (chain : Nat → List Nat),
    cands.Pairwise (fun h k => h.info.serial < k.info.serial) ∧
    (∀ h, h ∈ cands ↔ h.deletedMark = false ∧
      ∃ before after, heads = before ++ h :: after ∧ ∀ k ∈ before, k.info.serial ≠ h.info.serial) ∧
    (∀ n, (chain n).length ≤ 319 ∧
      (∀ i b, (chain n)[i]? = some b → cls b = some (.cont n (i + 1)) ∧ ∀ k, cls k = some (.cont n (i + 1)) → b ≤ k) ∧
      ((chain n).length < 319 → ∀ b, cls b ≠ some (.cont n ((chain n).length + 1)))) ∧
    let messages : List Message := (cands.take 8192).map fun h =>
      { serial := h.info.serial, room := h.info.room, state := if h.heardMark then .heard else .new
        urgent := h.info.urgent, origin := h.info.origin, day := h.info.day, second := h.info.second, readers := 0
        deletedPending := false, head := some h.block, written := 0, blank14 := h.blank14, blank15 := h.blank15
        blocks := (h.block :: chain h.info.serial).map fun b => { block := b, valid := 16, retire := false } }
    let enters (x : Room) (m : Message) : Room :=
      { x with mailbox := serialInsert m.serial x.mailbox
               newCount := x.newCount + (if m.state = .new then 1 else 0)
               urgentCount := x.urgentCount + (if m.state = .new ∧ m.urgent = true then 1 else 0) }
    let mine (r : RoomIx) : List Message := messages.filter (·.room = r)
    let joins (r : RoomIx) : Bool := decide (mine r ≠ []) && (t.room r).lamp.queued && !(z.room r).lamp.queued
    t = { z with
          service := .setup, attention := t.attention, rooms := t.rooms
          lamps := { z.lamps with queue := z.lamps.queue ++ (List.finRange 2048).filter joins }
          link := if z.attention = 0 then { z.link with queue := z.link.queue ++ [.attention] } else z.link
          store := { z.store with
            messages := messages, nextSerial := t.store.nextSerial, free := t.store.free, dirty := t.store.dirty, bad := []
            marks := [], erasing := none, mounted := true, job := .none } } ∧
    t.attention = z.attention ||| (if 8192 < cands.length then attentionBit .dirFull else 0) |||
      (if t.store.low then attentionBit .storeLow else 0) ||| attentionBit .mountDone ∧
    (serials = [] → t.store.nextSerial = 1) ∧
    (∀ n ∈ serials, (∀ k ∈ serials, k ≤ n) → t.store.nextSerial = min (n + 1) 4294967295) ∧
    t.store.free.Pairwise (· < ·) ∧ (∀ b, b ∈ t.store.free ↔ cls b = some .free) ∧
    t.store.dirty.Pairwise (· < ·) ∧
    (∀ b, b ∈ t.store.dirty ↔
      (∃ k, cls b = some k ∧ k ≠ .free) ∧ ∀ m ∈ messages, ∀ e ∈ m.blocks, e.block ≠ b) ∧
    ∀ r, t.room r =
      if mine r = [] then z.room r else (evaluateLamp r (z.setRoom r ((mine r).foldl enters (z.room r)))).room r

/-! ## The speech coder and the highway -/

/-- A quantiser after nibble `n`, 0–15 (R71). -/
def Quantiser.coded (n : Nat) (q : Quantiser) : Quantiser :=
  let m := n % 8
  let delta : Int := ((2 * m + 1) * ((4 + q.i % 4) * 2 ^ (q.i / 4)) / 4 : Nat)
  let adj : Int := [-1, -1, 0, 0, 1, 1, 2, 4].getD m 0
  { p := max (-8192) (min 8191 (if n < 8 then q.p + delta else q.p - delta))
    i := (max 0 (min 39 ((q.i : Int) + adj))).toNat }

/-- `o` is the lowest of the codes whose entries are nearest `v` (R70). -/
def NearestCode (table : Vector Int 256) (v : Int) (o : Octet) : Prop :=
  ∃ j : Fin 256, o = BitVec.ofNat 8 j.val ∧ (∀ k : Fin 256, (table[j] - v).natAbs ≤ (table[k] - v).natAbs) ∧
    ∀ k : Fin 256, k < j → (table[j] - v).natAbs < (table[k] - v).natAbs

/-- The octets of a link frame on the line (R10, R11). -/
def envelope (addr kind : Octet) (payload : List Octet) : List Octet :=
  let body := addr :: kind :: BitVec.ofNat 8 payload.length :: payload
  0x7E :: body ++ [checkOctet body]

/-- `z` after slot-127 time (R14): the transmitter has sent the next octet of its frame, or the SYNC of the queue's head
frame, or 0xFF. -/
def State.sent (z : State) : State :=
  match z.link.sending, z.link.queue with
  | _ :: l, _ => { z with link := { z.link with sending := l } }
  | [], [] => z
  | [], f :: rest =>
    { z with link := { z.link with sending := (envelope f.addr f.kind (f.payload z.attention)).tail, queue := rest } }

/-- `t` is `z`, the state after the speech slots, when the rest of a highway frame of `hin` has passed with nothing delivered
to the framers: the transmitter has moved in a whole frame, the frame counter has advanced (R5, log entry 5), the presence is
PRESENT with count 0, and the delay line and HOUT are the frame's own. -/
def State.Framed (hin : List Octet) (z t : State) : Prop :=
  let y := if hin.length < 128 then z else z.sent
  t = { y with
        clock := { z.clock with frames := min (z.clock.frames + 1) 8000 }
        highway := { t.highway with presence := .present, missing := 0, bindings := z.highway.bindings } } ∧
  ∀ k : Fin 128, t.highway.delay[k] = hin.getD k.val 0xFF

/-! ## Lamps -/

/-- `t` is `s` after the sense query of a sense turn (R136): the loaded, present and lit rooms from the cursor on, at most 14,
in index order with wrapping and none passed over, are queried when 32 outbound entries are free, and the cursor becomes the
index after the last; else nothing changes. -/
def SenseQueried (s t : State) : Prop :=
  let senseable (r : RoomIx) := (s.room r).loaded = true ∧ (s.room r).lamp.absent = false ∧
    ((s.room r).lamp.ordered = some .steady ∨ (s.room r).lamp.ordered = some .slow ∨ (s.room r).lamp.ordered = some .fast)
  let distance (r : RoomIx) := (r.val + 2048 - s.lamps.cursor.val) % 2048
  ((∀ r, ¬senseable r) ∨ 32 < s.link.queue.length → t = s) ∧
  ((∃ r, senseable r) → s.link.queue.length ≤ 32 →
    ∃ (l : List RoomIx) (last : RoomIx), l.getLast? = some last ∧ l.length ≤ 14 ∧ (∀ r ∈ l, senseable r) ∧
      l.Pairwise (fun a b => distance a < distance b) ∧
      (∀ r, senseable r → r ∉ l → l.length = 14 ∧ distance last < distance r) ∧
      t = { s with
            lamps := { s.lamps with cursor := Fin.ofNat 2048 (last.val + 1) }
            link := { s.link with queue :=
              s.link.queue ++ [.senseQuery (l.map fun r => (s.room r).extension.getD 0)] } })

/-! ## Tariff and meters -/

/-- Entry `e` of the prefix table is a longest match of some dialled digits (R149). -/
structure LongestMatch (s : State) (digits : List Nat) (e : DigitEntry) : Prop where
  held : ∃ i : Fin 512, s.tariff.entries[i] = some e
  leads : e.digits <+: digits
  longest : ∀ (j : Fin 512) (e' : DigitEntry), s.tariff.entries[j] = some e' → e'.digits <+: digits →
    e'.digits.length ≤ e.digits.length

/-- `s` with the denial steps made for trunk `t` and room `r` (R147): the trunk muted, the room's last denial reason set, and
the DENY_CALL in the outbound queue, or with no entry free dropped and OUTBOUND_FULL in the attention set (R15). -/
def State.denied (s : State) (t : TrunkIx) (r : RoomIx) (why : Denial) : State :=
  let z : State := { s with trunks := s.trunks.set t { s.trunk t with mute := true }
                            rooms := s.rooms.set r { s.room r with denial := why } }
  if s.link.queue.length < 64 then { z with link := { s.link with queue := s.link.queue ++ [.denyCall t why] } }
  else { z with attention := s.attention ||| attentionBit .outboundFull }

/-- `s` with a record at the tail of the charge queue, CHARGES_HIGH placed when its fill is then 224 or more (R164, with an
entry free for the ATTENTION frame). -/
def State.bills (s : State) (c : ChargeRecord) : State :=
  let z : State := { s with charges := s.charges ++ [c] }
  if 224 ≤ z.charges.length then z.placed .chargesHigh else z

/-- A meter cut for credit (R155), `markup` being the markup of its room's class. -/
def Meter.cutForCredit (markup : Nat) (x : Meter) : Meter :=
  { x with state := .cut, countdown := none, held := some (min 999999 ((x.base * (1000 + markup) + 500) / 1000))
           flags := { x.flags with cutCredit := true } }

/-- A meter with a charge added to its base (R154). -/
def Meter.adds (c : Nat) (x : Meter) : Meter :=
  { x with base := min (x.base + c) 999999
           flags := { x.flags with saturated := x.flags.saturated || decide (999999 < x.base + c) } }

/-! ## Commands as link frames (R12, R13, R17, R19) -/

/-- The key octet (R17). -/
def keyCode : Key → Octet
  | .digit d => BitVec.ofNat 8 d.val
  | .star => 0x0A
  | .hash => 0x0B

/-- The purpose octet (R17). -/
def purposeCode : Purpose → Octet
  | .deposit => 0 | .retrieve => 1 | .notice => 2

/-- The sense result octet (R17). -/
def senseCode : Sense → Octet
  | .ok => 0 | .openLine => 1 | .short => 2 | .absent => 3

/-- The kind code and payload of the slot-126 frame that carries a command, if one does (R17). -/
def exchangeFrame : Instr → Option Delivered
  | .seizeOut t x => some (0x10, octets1 t.val ++ octets3 x)
  | .digit t ds => some (0x11, octets1 t.val ++ ds.map (BitVec.ofNat 8))
  | .answered t => some (0x12, octets1 t.val)
  | .cleared t => some (0x13, octets1 t.val)
  | .hook x h => some (0x14, octets3 x ++ [yesNo h])
  | _ => none

/-- The kind code and payload of the slot-127 frame that carries a command, if one does (R17, R19). -/
def controllerFrame : Instr → Option Delivered
  | .divert slot x p => some (0x20, slot :: octets3 x ++ [purposeCode p])
  | .slotClear slot => some (0x21, [slot])
  | .key slot k => some (0x22, [slot, keyCode k])
  | .lampSense x r => some (0x23, octets3 x ++ [senseCode r])
  | .queryStatus tag fs => some (0x40, tag :: fs)
  | .startService tag fs => some (0x41, tag :: fs)
  | .suspend tag fs => some (0x42, tag :: fs)
  | .clearAttention tag fs => some (0x43, tag :: fs)
  | .setClock tag fs => some (0x44, tag :: fs)
  | .loadTableClass tag fs => some (0x45, tag :: 1 :: fs)
  | .loadTablePrefix tag fs => some (0x45, tag :: 2 :: fs)
  | .loadTableBand tag fs => some (0x45, tag :: 3 :: fs)
  | .loadTableSchedule tag fs => some (0x45, tag :: 4 :: fs)
  | .loadTableParameters tag fs => some (0x45, tag :: 5 :: fs)
  | .loadRoom tag fs => some (0x46, tag :: fs)
  | .checkIn tag fs => some (0x47, tag :: fs)
  | .checkOut tag fs => some (0x48, tag :: fs)
  | .setCredit tag fs => some (0x49, tag :: fs)
  | .postPayment tag fs => some (0x4A, tag :: fs)
  | .unbar tag fs => some (0x4B, tag :: fs)
  | .deskFlag tag fs => some (0x4C, tag :: fs)
  | .deleteMessages tag fs => some (0x4D, tag :: fs)
  | .queryRoom tag fs => some (0x4E, tag :: fs)
  | .resetChannel tag fs => some (0x4F, tag :: fs)
  | .loadExpansion tag fs => some (0x50, tag :: fs)
  | .setGeometry tag fs => some (0x51, tag :: fs)
  | .mount tag fs => some (0x52, tag :: fs)
  | .queryStore tag fs => some (0x53, tag :: fs)
  | .promptErase tag fs => some (0x54, tag :: fs)
  | .promptPage tag fs => some (0x55, tag :: fs)
  | .promptCommit tag fs => some (0x56, tag :: fs)
  | .promptVerify tag fs => some (0x57, tag :: fs)
  | .promptBlank tag fs => some (0x58, tag :: fs)
  | .promptDir tag fs => some (0x59, tag :: fs)
  | .lampForce tag fs => some (0x5A, tag :: fs)
  | .lampResume tag fs => some (0x5B, tag :: fs)
  | .lampResync tag fs => some (0x5C, tag :: fs)
  | .loadTrunk tag fs => some (0x5D, tag :: fs)
  | .fetchCharges tag fs => some (0x5E, tag :: fs)
  | .releaseCharges tag fs => some (0x5F, tag :: fs)
  | _ => none

/-- The number of payload octets after the TAG (for LOAD_TABLE, after the table number) that the layout of a command gives,
for the commands of one length (R19). -/
def commandLength : Instr → Option Nat
  | .queryStatus .. | .startService .. | .suspend .. | .mount .. | .queryStore .. | .promptErase .. | .promptCommit ..
  | .promptVerify .. | .lampResync .. => some 0
  | .resetChannel .. | .fetchCharges .. => some 1
  | .clearAttention .. | .checkOut .. | .unbar .. | .deleteMessages .. | .queryRoom .. | .promptBlank .. | .lampResume ..
  | .loadTrunk .. | .releaseCharges .. => some 2
  | .deskFlag .. | .lampForce .. => some 3
  | .checkIn .. | .setCredit .. | .postPayment .. | .promptDir .. => some 5
  | .setClock .. | .loadRoom .. => some 6
  | .setGeometry .. => some 34
  | .loadTableClass .. => some 15
  | .loadTablePrefix .. => some 15
  | .loadTableBand .. => some 12
  | .loadTableParameters .. => some 9
  | _ => none

/-- The TAG and the fields of a management command. -/
def commandFields : Instr → Option (Octet × List Octet)
  | .queryStatus tag fs | .startService tag fs | .suspend tag fs | .clearAttention tag fs | .setClock tag fs
  | .loadTableClass tag fs | .loadTablePrefix tag fs | .loadTableBand tag fs | .loadTableSchedule tag fs
  | .loadTableParameters tag fs | .loadRoom tag fs | .checkIn tag fs | .checkOut tag fs | .setCredit tag fs
  | .postPayment tag fs | .unbar tag fs | .deskFlag tag fs | .deleteMessages tag fs | .queryRoom tag fs
  | .resetChannel tag fs | .loadExpansion tag fs | .setGeometry tag fs | .mount tag fs | .queryStore tag fs
  | .promptErase tag fs | .promptPage tag fs | .promptCommit tag fs | .promptVerify tag fs | .promptBlank tag fs
  | .promptDir tag fs | .lampForce tag fs | .lampResume tag fs | .lampResync tag fs | .loadTrunk tag fs
  | .fetchCharges tag fs | .releaseCharges tag fs => some (tag, fs)
  | _ => none

/-- A framer fed with a list of octets, one for each highway frame, and the frames it delivers in order (R11). -/
def Framer.run : List Octet → Framer → Framer × List Delivered
  | [], f => (f, [])
  | o :: l, f => ((Framer.run l (f.take o).1).1, (f.take o).2.toList ++ (Framer.run l (f.take o).1).2)

/-! ## Invariants -/

/-- The outbound queue holds up to 64 frames (R14). -/
def QueueBounded (s : State) : Prop := s.link.queue.length ≤ 64

/-- The status fields lie in their ranges: attention bits 13–15 are clear (R18), the missing-sync count is 0–16 and
reaches 16 only in LOST (R7), and the clock is in range (R5; 8,000 frames stand for a tick that is due). -/
structure StatusLegal (s : State) : Prop where
  attention : s.attention &&& 0xE000 = 0
  missing : s.highway.missing ≤ 16
  present : s.highway.presence = .present → s.highway.missing ≤ 15
  frames : s.clock.frames ≤ 8000
  seconds : s.clock.seconds < 86400
  weekday : s.clock.weekday < 7
  day : s.clock.day < 65536

/-- Every room balance lies in 0..9,999,999 (R170). -/
def BalancesInRange (s : State) : Prop := ∀ r : RoomIx, (s.room r).balance ≤ 9999999

/-- The rooms in CHECKOUT_PENDING. -/
def State.pendingRooms (s : State) : Nat := s.rooms.toList.countP fun x => x.occupancy = .checkoutPending

/-- The admission sum stays within the charge queue (R165), with the count of R27 counting what it names. -/
structure ChargesAdmitted (s : State) : Prop where
  counted : s.checkouts = s.pendingRooms
  sum : s.charges.length + s.openMeters + s.checkouts ≤ 256

/-- A quantiser in range (R71). -/
def Quantiser.inRange (q : Quantiser) : Prop := -8192 ≤ q.p ∧ q.p ≤ 8191 ∧ q.i ≤ 39

/-- Every encoder and decoder predictor and step index lies in its range (R71), the frame-start values among them, and so
does every entry of the expansion table (R67, R68). -/
def CodersInRange (s : State) : Prop :=
  (∀ c : ChannelIx, (s.encoder c).quant.inRange ∧ (s.encoder c).start.inRange ∧ (s.decoder c).quant.inRange) ∧
    ∀ k : Fin 256, -8192 ≤ s.coder.expansion[k] ∧ s.coder.expansion[k] ≤ 8191

/-- Bindings are one-to-one (R3): the slot a channel holds is bound to it and to no other, a FREE channel holds none, and no
bound slot is mapped to a trunk. -/
structure BindingsOneToOne (s : State) : Prop where
  bound : ∀ (k : Fin 126) (c : ChannelIx), s.highway.bindings[k] = some c ↔ (s.chan c).slot = some k
  free : ∀ c : ChannelIx, (s.chan c).state = .free → (s.chan c).slot = none
  unmapped : ∀ (k : Fin 126) (t : TrunkIx), s.highway.bindings[k] ≠ none → (s.trunk t).slot ≠ some k

/-- The lamp order queue holds no room twice, and a room's queued field is yes while and only while the room is in it
(R130). -/
structure LampQueueAgrees (s : State) : Prop where
  once : s.lamps.queue.Nodup
  queued : ∀ r : RoomIx, (s.room r).lamp.queued = true ↔ r ∈ s.lamps.queue

end Sys2Proof.Machine
end

