-- ==== Sys2Proof/Certificates/Slice0/Obligations.lean ====
section
/-! DEFINITION. The statements for the provers. Each docstring says which rules of the manual its statement formalises. A
management command is stated in the terms of Safety.lean: `s.ready` (it is taken and its reply enters at once),
`s.refused tag st` (a reply alone) and `s.link.replied tag st data` (the link with that reply in its queue). -/

section Statements

open Sys2Proof Sys2Proof.Machine


/-! ## The queue of commands, and reset -/

/-- The command at the front of the queue is run with the queue's rest; on an empty queue the block idles (log entries 1
and 2: the queue is the model's own). -/
def Obligations.StepRunsTheFrontCommand : Prop :=
  ∀ s : State, (s.pending = [] → step s = .next s) ∧
    ∀ c rest, s.pending = c :: rest → step s = exec c { s with pending := rest }

/-- Every command has a next state, whatever the state and its operands, and leaves the queue of commands alone. That no
meaning stops is read from the manual by inference (log entry 30), and the queue is the model's own (log entry 1). -/
def Obligations.EveryCommandCompletes : Prop :=
  ∀ (c : Instr) (s : State), ∃ t, exec c s = .next t ∧ t.pending = s.pending

/-- What device reset leaves, block by block: every item of every block at its after-reset value. The manual's own values are
those of the chapters cited; the fields that are the model's own (the HOUT record, the flash pins' cycles and the request ages,
the pending sweep, the item's flash pages, the exhausted mark and the last code octet) start as log entries 25, 26 and 31 say,
and so does a ring's next stream page number, whose reset value the manual does not give (log entry 42). -/
def Obligations.ResetValues : Prop :=
  State.reset.highway.presence = .awaiting ∧ State.reset.highway.missing = 0 ∧ State.reset.highway.hout = [] ∧
  (∀ k : Fin 128, State.reset.highway.delay[k] = 0xFF) ∧ (∀ k : Fin 126, State.reset.highway.bindings[k] = none) ∧
  State.reset.clock = { frames := 0, seconds := 0, weekday := 0, day := 0, unset := true } ∧
  State.reset.link = { framer126 := .hunt, framer127 := .hunt, queue := [], sending := [], holder := none } ∧
  State.reset.service = .setup ∧ State.reset.attention = attentionBit .clockUnset ∧ State.reset.resetLow = false ∧
  (∀ r : RoomIx, State.reset.room r =
    { loaded := false, extension := none, cls := 0, occupancy := .vacant, inDay := 0, inSecond := 0, outTime := none,
      creditLimit := 0, balance := 0, openMeters := 0, barred := false, denial := .none, desk := false, mailbox := [],
      newCount := 0, urgentCount := 0, recordings := 0,
      lamp := { desired := .off, target := none, ordered := none, orderSweep := none, queued := false, offHook := false,
                fault := false, maint := false, shut := false, failures := 0, absent := false } }) ∧
  State.reset.checkouts = 0 ∧ State.reset.directory = [] ∧
  (∀ k : ClassIx, State.reset.classes[k] =
    { mailboxLimit := 16, maxLength := 120, noVoice := 8, menuTimeout := 6, grace := 10, markup := 0, timedAnswer := 30,
      billing := false, creditManual := false, shutdownHold := false, lampManual := false, faultThreshold := 2 }) ∧
  (∀ c : ChannelIx,
    State.reset.chan c =
      { state := .free, kind := none, slot := none, extension := none, room := none, playList := [], keyHolder := none,
        timer := none, repeats := 0, current := none, kept := false, last := none, reading := false,
        callerPresent := false } ∧
    State.reset.ring c =
      { size := 8, ended := false, exhausted := false, nextPage := 0, recorded := [], item := none, itemFlash := [],
        itemCount := 0, nextItem := 0, items := [], held := [] } ∧
    State.reset.encoder c =
      { state := .idle, quant := { p := 0, i := 8 }, start := { p := 0, i := 8 }, samples := 0, peak := 0, nibbles := []
        pendingSilence := 0, frames := 0, voiceFrames := 0, lengthLimit := 0, noVoiceLimit := 0 } ∧
    State.reset.decoder c =
      { quant := { p := 0, i := 8 }, position := 0, extent := 0, inPlay := .nothing, lastOctet := 0 }) ∧
  (∀ k : Fin 256, State.reset.coder.expansion[k] = 0 ∧ State.reset.coder.loaded[k] = false) ∧
  State.reset.coder.silence = none ∧ State.reset.coder.threshold = 64 ∧
  State.reset.port = { state := .starting, op := none, pointer := 31, drive := .cycles [.command 0xFF], nextAge := 0 } ∧
  State.reset.store =
    { geometrySet := false, totalBlocks := 0, promptBlocks := 0, free := [], dirty := [], erasing := none, bad := []
      messages := [], nextSerial := 0, mounted := false, lowWater := 256, reserve := 16, marks := [], marking := none
      prompts := State.reset.store.prompts, buffer := State.reset.store.buffer, job := .none } ∧
  (∀ id : PromptId, State.reset.store.prompts[id] = none) ∧ State.reset.store.buffer.target = none ∧
  (∀ i : Fin 512, State.reset.store.buffer.data[i] = 0xFF ∧ State.reset.store.buffer.sent[i] = false) ∧
  State.reset.lamps =
    { queue := [], period := 0, sweeps := 0, cursor := 0, due := false, lampPeriod := 2, holdOff := 1
      senseInterval := 2 } ∧
  (∀ t : TrunkIx, State.reset.trunk t = { slot := none, mute := false, meter := none }) ∧
  (∀ m : MeterIx, State.reset.meter m = none) ∧
  State.reset.tariff.defaultAction = .free ∧ State.reset.tariff.defaultBar = 0 ∧
  State.reset.tariff.schedule = { entries := [(0, 0)], weekend := 0, weekendPeriod := 0 } ∧
  (∀ i : Fin 512, State.reset.tariff.entries[i] = none) ∧
  (∀ (b : Fin 32) (p : Fin 4), State.reset.bandPeriod b p = { p0 := 60, c0 := 0, u := 60, cu := 0, cmin := 0 }) ∧
  State.reset.charges = []

/-- DEVICE_RESET abandons all work and holds every block at its after-reset values with the flash pins at their reset
levels; while RESET is low a highway frame carries 0xFF in every slot and takes no octet, and no other event has an
effect; RESET_RELEASE leaves the machine of `State.reset`, the flash port in STARTING with command 0xFF issued, and has
no effect on a running device. What RESET low admits is the model's reading of R187 (log entry 24). -/
def Obligations.DeviceResetAndRelease : Prop :=
  ∀ s : State,
    exec .deviceReset s = .next (heldReset s) ∧
    heldReset s = { State.reset with pending := s.pending, resetLow := true,
                                     port := { State.reset.port with drive := .resetLevels } } ∧
    exec .resetRelease (heldReset s) = .next { State.reset with pending := s.pending } ∧
    State.reset.port.state = .starting ∧ State.reset.port.drive = .cycles [.command 0xFF] ∧
    (s.resetLow = false → exec .resetRelease s = .next s) ∧
    (s.resetLow = true →
      (∀ hin : List Octet, hin.length ≤ 128 →
        exec (.highwayFrame hin) s =
          .next { s with highway := { s.highway with hout := List.replicate hin.length 0xFF } }) ∧
      ∀ c : Instr, c ≠ .deviceReset → c ≠ .resetRelease → (∀ hin, c ≠ .highwayFrame hin) → exec c s = .next s)

/-! ## The highway (R1–R9) -/

/-- One highway frame of a device in PRESENT or AWAITING, cut or whole: the inbound octets go into the delay line (0xFF
for each slot not reached), an unbound speech slot carries the octet of the frame before, or the quiet code when a muted
trunk is mapped to it, slot 126 passes through, and a frame that is not lost sets the presence state. Bindings and mutes
are read at the frame's start (log entry 8), and highway.hout is the model's own record of the pin (log entry 25). -/
def Obligations.FramePassesUnboundSlots : Prop :=
  ∀ (s : State) (hin : List Octet), s.resetLow = false → s.highway.presence ≠ .lost → hin.length ≤ 128 →
    ∃ t, exec (.highwayFrame hin) s = .next t ∧
      t.highway.presence = .present ∧ t.highway.missing = 0 ∧
      (∀ k : Fin 128, t.highway.delay[k] = hin.getD k.val 0xFF) ∧
      t.highway.hout.length = hin.length ∧
      (∀ k : Fin 126, k.val < hin.length → s.highway.bindings[k] = none →
        t.highway.hout[k.val]? =
          some (if ∃ u : TrunkIx, (s.trunk u).mute = true ∧ (s.trunk u).slot = some k then s.coder.silence.getD 0xFF
                else s.highway.delay[k])) ∧
      (126 < hin.length → t.highway.hout[126]? = some s.highway.delay[126])

/-- A highway frame with no bound slot. With both framers in HUNT and no SYNC for them it only moves octets: the delay line,
the transmitter when slot 127 is reached, and the frame counter, held at the 8,000 of a tick that is due (log entry 5). The
transmitter sends the next octet of the frame it holds, or takes the head frame of the queue and sends its SYNC, or sends 0xFF;
in a frame cut before slot 127 it keeps its octet. In general the octets of slots 126 and 127 are taken by their framers, and a
frame delivered is handed over in the same step (log entry 7): slot 126's is snooped, then slot 127 sends and receives, and
slot 127's is dispatched; in SUSPENDING the drain is tested before (log entry 29). The frame counter advances after that, so a
SET_CLOCK delivered in slot 127 leaves it at 1 (log entry 34). That slot 127 sends before it receives is the model's choice
(log entry 9), and so is that a waiting REPLY is not offered again between the two (log entry 39), and highway.hout is the
model's own record of the pin (log entry 25). -/
def Obligations.TransmitterSendsInSlot127 : Prop :=
  (∀ (s : State) (hin : List Octet), s.resetLow = false → s.highway.presence = .present → s.service ≠ .suspending →
    s.quietHighway → hin.length ≤ 128 → hin.getD 126 0xFF ≠ 0x7E → hin.getD 127 0xFF ≠ 0x7E →
    ∃ t, exec (.highwayFrame hin) s = .next t ∧
      t = { s with highway := t.highway, link := t.link, clock := t.clock } ∧
      t.highway.bindings = s.highway.bindings ∧
      t.clock = { s.clock with frames := min (s.clock.frames + 1) 8000 } ∧
      (hin.length < 128 → t.link = s.link) ∧
      (hin.length = 128 →
        (∀ o l, s.link.sending = o :: l → t.highway.hout[127]? = some o ∧ t.link = { s.link with sending := l }) ∧
        (s.link.sending = [] → s.link.queue = [] → t.highway.hout[127]? = some 0xFF ∧ t.link = s.link) ∧
        (∀ f rest, s.link.sending = [] → s.link.queue = f :: rest →
          t.highway.hout[127]? = some 0x7E ∧
          t.link = { s.link with sending := (envelope f.addr f.kind (f.payload s.attention)).tail, queue := rest }))) ∧
  ∀ (s : State) (hin : List Octet), s.resetLow = false → s.highway.presence ≠ .lost →
    (∀ k : Fin 126, s.highway.bindings[k] = none) → hin.length ≤ 128 →
    let begun : State := { s.drains with highway := { s.highway with presence := .present, missing := 0 } }
    let r126 := s.link.framer126.take (hin.getD 126 0xFF)
    let taken126 : State := { begun with link := { begun.link with framer126 := r126.1 } }
    let heard : State := r126.2.elim taken126 fun f => snoop f taken126
    let sent : State := if hin.length < 128 then heard else heard.sent
    let r127 := sent.link.framer127.take (hin.getD 127 0xFF)
    let taken127 : State := { sent with link := { sent.link with framer127 := r127.1 } }
    let done : State := r127.2.elim taken127 fun f => dispatch f taken127
    ∃ t, exec (.highwayFrame hin) s = .next t ∧ (∀ k : Fin 128, t.highway.delay[k] = hin.getD k.val 0xFF) ∧
      t = { done with
            clock := { done.clock with frames := min (done.clock.frames + 1) 8000 }
            highway := { done.highway with delay := t.highway.delay, hout := t.highway.hout } }

/-- Sync windows, loss and return. The end of a window with no HFS pulse raises the missing-sync count in PRESENT, and at 16
the highway is LOST: both framers hunt, the frame in transmission is abandoned, and every meter in use is marked INTERRUPTED;
in AWAITING and LOST windows are not timed. The first pulse in LOST, with no channel bound and no work waiting, places
HOLD_EXIT, fills the delay line with 0xFF (so that a slot no trunk mutes carries 0xFF in that frame) and returns to PRESENT
with count 0. A return with bound channels, by a cut or a whole frame, is a SLOT_CLEAR for each bound slot after HOLD_EXIT and
the delay line, and then that frame in PRESENT. That the SLOT_CLEARs come in channel order is the model's choice (log entry
11), and highway.hout is its own record of the pin (log entry 25); that the return's actions come before the frame's slots is
its reading (log entry 8). -/
def Obligations.LossAndReturn : Prop :=
  (∀ s : State, s.resetLow = false →
    (s.highway.presence ≠ .present → exec .syncWindowEnd s = .next s) ∧
    (s.highway.presence = .present → s.highway.missing + 1 < 16 →
      exec .syncWindowEnd s = .next { s with highway := { s.highway with missing := s.highway.missing + 1 } }) ∧
    (s.highway.presence = .present → s.highway.missing = 15 →
      ∃ t, exec .syncWindowEnd s = .next t ∧
        t = { s with highway := { s.highway with presence := .lost, missing := 16 }
                     link := { s.link with framer126 := .hunt, framer127 := .hunt, sending := [] }
                     meters := t.meters } ∧
        ∀ m : MeterIx, t.meter m =
          (s.meter m).map fun x => { x with flags := { x.flags with interrupted := true } })) ∧
  (∀ (s : State) (hin : List Octet), s.resetLow = false → s.highway.presence = .lost → s.service ≠ .suspending →
    s.quietHighway → (∀ c, (s.chan c).slot = none) → hin.length < 127 →
    ∃ t, exec (.highwayFrame hin) s = .next t ∧
      t.highway.presence = .present ∧ t.highway.missing = 0 ∧ attentionHas t.attention .holdExit = true ∧
      (∀ k : Fin 128, t.highway.delay[k] = hin.getD k.val 0xFF) ∧
      (∀ k : Fin 126, k.val < hin.length → (∀ u : TrunkIx, (s.trunk u).mute = true → (s.trunk u).slot ≠ some k) →
        t.highway.hout[k.val]? = some 0xFF) ∧
      t = { s with highway := t.highway, link := t.link, clock := t.clock, attention := t.attention }) ∧
  ∀ (s : State) (hin : List Octet), s.resetLow = false → s.highway.presence = .lost → BindingsOneToOne s →
    s.link.queue.length < 64 →
    let bound := (List.finRange 32).filterMap fun c => (s.chan c).slot
    let exit := s.placed .holdExit
    let begun : State := { exit with highway := { exit.highway with delay := Vector.replicate 128 0xFF } }
    ∃ u, ran (bound.map fun k => Instr.slotClear (BitVec.ofNat 8 k.val)) begun = .next u ∧
      exec (.highwayFrame hin) s =
        exec (.highwayFrame hin) { u with highway := { u.highway with presence := .present, missing := 0 } }

/-- The tick: due at 8,000 highway frames, it returns the frame counter to 0, advances the time of day with its wraps, and is
given to the menu timers, the timed-answer timers and countdowns of an active device, and the lamp period count. A menu timer
at 0 in LISTEN expires: the first expiry plays the menu again, the second leaves the message, whose reader count falls, and
closes with [GOODBYE]. An expiry that is not due has no effect but the test of the drain in SUSPENDING (log entry 29). That the
tick and the expiry are steps of their own, the tick due at the count 8,000, and that timers stay at 0 are the model's (log
entries 4 and 5). -/
def Obligations.TickAdvancesClockAndTimers : Prop :=
  (∀ s : State, s.resetLow = false → s.highway.presence = .present → s.clock.frames = 8000 → s.clock.seconds < 86400 →
    ∃ t, exec .tick s = .next t ∧
      t = { s with clock := t.clock, channels := t.channels, meters := t.meters, lamps := t.lamps } ∧
      t.clock.frames = 0 ∧ t.clock.unset = s.clock.unset ∧
      (if s.clock.seconds = 86399 then
        t.clock.seconds = 0 ∧ t.clock.weekday = (s.clock.weekday + 1) % 7 ∧ t.clock.day = (s.clock.day + 1) % 65536
       else
        t.clock.seconds = s.clock.seconds + 1 ∧ t.clock.weekday = s.clock.weekday ∧ t.clock.day = s.clock.day) ∧
      (∀ c, t.chan c = { s.chan c with timer := (s.chan c).timer.map (· - 1) }) ∧
      (∀ m, t.meter m =
        if s.active then
          (s.meter m).map fun x =>
            { x with timer := x.timer.map (· - 1)
                     countdown := if x.state = .connected then x.countdown.map (· - 1) else x.countdown }
        else s.meter m) ∧
      t.lamps =
        (if s.active = false then s.lamps
         else if s.lamps.period + 1 < s.lamps.lampPeriod then { s.lamps with period := s.lamps.period + 1 }
         else { s.lamps with period := 0, due := true })) ∧
  ∀ (c : ChannelIx) (s : State), s.resetLow = false →
    let x := s.chan c
    let idle := s.withChan c { x with timer := none }
    (x.timer ≠ some 0 ∨ x.state ≠ .listen → exec (.menuTimerExpiry c) s = .next s.drains) ∧
    (x.state = .listen → x.timer = some 0 → s.prompted →
      (x.repeats = 0 →
        exec (.menuTimerExpiry c) s =
          .next (State.starts c pAfterMenu
            (s.withChan c { x with timer := none, repeats := 1, playList := [pAfterMenu] }))) ∧
      (x.repeats ≠ 0 → s.marksBlank →
        exec (.menuTimerExpiry c) s =
          .next (State.starts c pGoodbye ((idle.leaves c).withChan c
            { x with timer := none, state := .closing, playList := [pGoodbye], reading := false, current := none }))) ∧
      (∀ n m, x.repeats ≠ 0 → x.reading = true → x.current = some n → s.message n = some m → m.state ≠ .deleting →
        ∃ t, exec (.menuTimerExpiry c) s = .next t ∧ t.message n = some { m with readers := m.readers - 1 } ∧
          (t.chan c).state = .closing ∧ (t.chan c).reading = false ∧ (t.chan c).current = none ∧
          (t.ring c).item = some pGoodbye))

/-- SET_CLOCK, in every service state: out of range it is refused with BAD_ARGUMENT and the clock is left unchanged; else it
loads the three values, returns the frame counter to 0, clears the clock-unset condition, removes CLOCK_UNSET from the
attention set, and touches nothing else. -/
def Obligations.SetClockLoadsTheClock : Prop :=
  ∀ (tag s2 s1 s0 w d1 d0 : Octet) (s : State), s.ready →
    (86399 < field24 s2 s1 s0 ∨ 6 < w.toNat →
      exec (.setClock tag [s2, s1, s0, w, d1, d0]) s = .next (s.refused tag .badArgument)) ∧
    (field24 s2 s1 s0 ≤ 86399 → w.toNat ≤ 6 →
      exec (.setClock tag [s2, s1, s0, w, d1, d0]) s =
        .next { s with clock := { frames := 0, seconds := field24 s2 s1 s0, weekday := w.toNat, day := field16 d1 d0,
                                  unset := false }
                       attention := s.attention &&& ~~~attentionBit .clockUnset
                       link := s.link.replied tag .ok [] })

/-! ## Frames and records (R10, R11, R17, R19, R21) -/

/-- Decode of encode for link frames: a framer that hunts, fed the envelope of any ADDR, KIND and payload of up to 60 octets,
delivers exactly that KIND and payload at the CHECK octet and hunts again; with another CHECK octet it delivers nothing and
hunts; a LEN above 60 sends it back to HUNT; and every frame the device sends stands on the line in that envelope. -/
def Obligations.FramerReadsBackEnvelopes : Prop :=
  (∀ (a k : Octet) (p : List Octet), p.length ≤ 60 →
    Framer.run (envelope a k p) .hunt = (.hunt, [(k, p)]) ∧
    (∀ o : Octet, o ≠ checkOctet (a :: k :: BitVec.ofNat 8 p.length :: p) →
      Framer.run (0x7E :: a :: k :: BitVec.ofNat 8 p.length :: p ++ [o]) .hunt = (.hunt, []))) ∧
  (∀ a k n : Octet, 60 < n.toNat → Framer.run [0x7E, a, k, n] .hunt = (.hunt, [])) ∧
  (∀ o : Octet, o ≠ 0x7E → Framer.take o .hunt = (.hunt, none)) ∧
  ∀ (set : BitVec 16) (f : OutFrame), f.line set = envelope f.addr f.kind (f.payload set)

/-- The link frame of a command has exactly the command's effect: a well-formed command of the exchange, when its frame
is delivered on slot 126, and a well-formed command of the controller, when its frame is delivered on slot 127. That a
row is its frame's hand-over is the model's reading (log entry 7). -/
def Obligations.LinkFramesCarryTheCommands : Prop :=
  ∀ (i : Instr) (f : Delivered) (s : State), i.wf = true → s.resetLow = false →
    (exchangeFrame i = some f → exec i s = .next (snoop f s)) ∧
    (controllerFrame i = some f → exec i s = .next (dispatch f s))

/-- Decode of encode for the flash records: a HEAD header written for a message reads back as that message's serial, room,
time, urgent flag and origin, a CONT header as its serial and seq, and a mark as its kind and serial; the other records are not
read in their place. The six bits between a HEAD header's urgent bit and its seconds-of-day, which the manual leaves unnamed,
are written as 0 (log entry 41). -/
def Obligations.FlashRecordsReadBack : Prop :=
  (∀ m : Message, m.serial ≤ 4294967295 → m.day ≤ 65535 → m.second < 86400 → (∀ x, m.origin = some x → x ≤ 999999) →
    classifySpare (headSpare m) =
      .head { serial := m.serial, room := m.room, day := m.day, urgent := m.urgent, second := m.second,
              origin := m.origin }) ∧
  (∀ serial seq : Nat, serial ≤ 4294967295 → 1 ≤ seq → seq ≤ 319 →
    classifySpare (contSpare serial seq) = .cont serial seq) ∧
  (∀ (k k' : MarkKind) (serial serial' : Nat), serial ≤ 4294967295 → serial' ≤ 4294967295 →
    (isMark k serial (markSpare k' serial') = true ↔ k = k' ∧ serial = serial')) ∧
  classifySpare blankSpare = .free

/-! ## Rooms, classes and credit (Chapters 2, 7 and 9) -/

/-- The re-evaluation of a room: credit-barred by its exposure against its credit limit and its class credit restart, then
the desired lamp state on the result, then the target, and the room joins the lamp order queue when the target calls for an
order and it is not there already. -/
def Obligations.RoomEvaluationRules : Prop :=
  ∀ (r : RoomIx) (s : State),
    let x := s.room r
    let exposure := min 9999999 (x.balance + s.provisionals r)
    let barred := if x.creditLimit ≠ 0 ∧ x.creditLimit ≤ exposure then true
                  else (s.classOf r).creditManual && x.barred
    let desired : Lamp :=
      if x.occupancy ≠ .occupied then .off else if 0 < x.urgentCount then .fast else if 0 < x.newCount then .slow
      else if x.desk = true ∨ barred = true then .steady else .off
    let target : Option Lamp :=
      if x.loaded = false ∨ x.lamp.absent = true then none
      else if x.lamp.shut then some (if (s.classOf r).shutdownHold then x.lamp.ordered.getD .off else .off)
      else some desired
    let due := decide (target ≠ none ∧ target ≠ x.lamp.ordered)
    evaluateRoom r s =
      { s with rooms := s.rooms.set r
                 { x with barred := barred
                          lamp := { x.lamp with desired := desired, target := target,
                                                queued := x.lamp.queued || due } }
               lamps := { s.lamps with
                 queue := if x.lamp.queued = false ∧ due = true then s.lamps.queue ++ [r] else s.lamps.queue } }

/-- LOAD_ROOM with its checks passed: the room is loaded with the extension and class given, the directory gives it that
extension and no other, its lamp is unordered, present and due an order, a changed extension clears OFFHOOK and the
sense-failure count, a changed fault threshold the count too, the rest of the stay is kept, and no other room changes. The
room's lamp is then evaluated, and its barring before it when the class loaded has another markup or credit restart. An
extension that another room holds is refused with BAD_ARGUMENT. That a first load counts as a changed extension is the model's
reading (log entry 22). -/
def Obligations.LoadRoomLoadsTheRecord : Prop :=
  ∀ (tag a b x2 x1 x0 k : Octet) (s : State) (r : RoomIx), s.ready → s.service ≠ .mounting → field16 a b = r.val →
    field24 x2 x1 x0 ≤ 999999 → k.toNat ≤ 15 →
    let x := field24 x2 x1 x0
    let cls : ClassIx := Fin.ofNat 16 k.toNat
    let y := s.room r
    let before := s.classes[y.cls]
    let after := s.classes[cls]
    let loaded : State := s.setRoom r
      { y with loaded := true, extension := some x, cls := cls
               lamp := { y.lamp with
                 ordered := none, absent := false, offHook := y.lamp.offHook && decide (y.extension = some x)
                 failures := if y.extension = some x ∧ before.faultThreshold = after.faultThreshold then y.lamp.failures
                             else 0 } }
    ((∃ r' : RoomIx, (x, r') ∈ s.directory ∧ r' ≠ r) →
      exec (.loadRoom tag [a, b, x2, x1, x0, k]) s = .next (s.refused tag .badArgument)) ∧
    ((∀ r' : RoomIx, (x, r') ∈ s.directory → r' = r) →
      ∃ t, exec (.loadRoom tag [a, b, x2, x1, x0, k]) s = .next t ∧
        t = { (if before.markup ≠ after.markup ∨ before.creditManual ≠ after.creditManual then evaluateRoom r loaded
               else evaluateLamp r loaded) with directory := t.directory, link := s.link.replied tag .ok [] } ∧
        (∀ r', r' ≠ r → t.room r' = s.room r') ∧
        t.lookup x = some r ∧ (∀ z, (z, r) ∈ t.directory ↔ z = x) ∧
        (∀ z, z ≠ x → s.lookup z ≠ some r → t.lookup z = s.lookup z) ∧
        t.room r = { y with loaded := true, extension := some x, cls := cls, barred := (t.room r).barred,
                            lamp := (t.room r).lamp } ∧
        (t.room r).lamp =
          { y.lamp with ordered := none, absent := false, queued := true, desired := (t.room r).lamp.desired
                        offHook := y.lamp.offHook && decide (y.extension = some x)
                        failures := if y.extension = some x ∧ before.faultThreshold = after.faultThreshold then
                            y.lamp.failures else 0
                        target := some (if y.lamp.shut then .off else (t.room r).lamp.desired) })

/-- CHECK_IN opens a stay in a loaded VACANT room with no recording, resetting its account and its desk flag and taking the
clock, and the room is re-evaluated; a room that is not VACANT is refused with BAD_STATE, one with a recording with BUSY. -/
def Obligations.CheckInOpensTheStay : Prop :=
  ∀ (tag a b l2 l1 l0 : Octet) (s : State) (r : RoomIx), s.ready → s.service ≠ .mounting → field16 a b = r.val →
    field24 l2 l1 l0 ≤ 9999999 → (s.room r).loaded = true →
    ((s.room r).occupancy ≠ .vacant →
      exec (.checkIn tag [a, b, l2, l1, l0]) s = .next (s.refused tag .badState)) ∧
    ((s.room r).occupancy = .vacant → 0 < (s.room r).recordings →
      exec (.checkIn tag [a, b, l2, l1, l0]) s = .next (s.refused tag .busy)) ∧
    ((s.room r).occupancy = .vacant → (s.room r).recordings = 0 →
      exec (.checkIn tag [a, b, l2, l1, l0]) s =
        .next { evaluateRoom r (s.setRoom r
                  { s.room r with
                    occupancy := .occupied, creditLimit := field24 l2 l1 l0, balance := 0, barred := false, desk := false,
                    denial := .none, inDay := s.clock.day, inSecond := s.clock.seconds }) with
                link := s.link.replied tag .ok [] })

/-- CHECK_OUT of an OCCUPIED room: the room enters CHECKOUT_PENDING with its checkout time and is counted; every message of its
mailbox takes the delete path in the order of their serials; every bound channel retrieving from the room receives a close
request; and the room's lamp is evaluated. With no open meter the FINAL record then joins the charge queue, CHARGES_HIGH being
placed at a fill of 224 or more, the count falls again, and the room becomes VACANT with its account cleared and is evaluated.
In SUSPENDING the drain is tested (log entry 29). That the store-low test also follows the freeing of a message with no page
programmed is the model's reading (log entry 14). A mailbox of NEW and HEARD messages of the room is emptied with its counts.
When the admission sum is full, the reply is FULL, CHARGES_FULL is placed in the attention set, with one ATTENTION frame before
the reply when the set was empty, and nothing else changes. That an ATTENTION frame comes before the reply of the same command
is the model's reading (log entry 12). The messages and close requests are stated with every prompt in the directory and every
mark page blank. A room that is not OCCUPIED is refused with BAD_STATE. That the close requests come in channel order is the
model's choice (log entry 11), and so is that they leave a menu timer running (log entry 19). -/
def Obligations.CheckOutClosesTheStay : Prop :=
  ∀ (tag a b : Octet) (s : State) (r : RoomIx), s.ready → s.service ≠ .mounting → field16 a b = r.val →
    (s.room r).loaded = true →
    ((s.room r).occupancy ≠ .occupied → exec (.checkOut tag [a, b]) s = .next (s.refused tag .badState)) ∧
    ((s.room r).occupancy = .occupied → 256 < s.charges.length + s.openMeters + s.checkouts + 1 →
      s.link.queue.length < 63 →
      let full := s.placed .chargesFull
      exec (.checkOut tag [a, b]) s = .next { full with link := full.link.replied tag .full [] } ∧
        attentionHas full.attention .chargesFull = true) ∧
    ((s.room r).occupancy = .occupied → s.charges.length + s.openMeters + s.checkouts + 1 ≤ 256 →
      let final : ChargeRecord :=
        .final { room := r, extension := (s.room r).extension.getD 0, balance := (s.room r).balance
                 inDay := (s.room r).inDay, inSecond := (s.room r).inSecond, outDay := s.clock.day
                 outSecond := s.clock.seconds }
      let vacated (x : Room) : Room :=
        { x with occupancy := .vacant, balance := 0, creditLimit := 0, barred := false, desk := false, outTime := none }
      (s.charges.length < 223 → (s.room r).mailbox = [] →
        (∀ c, (s.chan c).slot = none ∨ (s.chan c).kind ≠ some .retrieve ∨ (s.chan c).room ≠ some r) →
        ∃ t : State, exec (.checkOut tag [a, b]) s = .next t.drains ∧
          t = { s with rooms := t.rooms, checkouts := t.checkouts, charges := t.charges, lamps := t.lamps
                       link := s.link.replied tag .ok [] } ∧
          (∀ r', r' ≠ r → t.room r' = s.room r') ∧
          (if (s.room r).openMeters = 0 then
            t.checkouts = s.checkouts ∧ t.charges = s.charges ++ [final] ∧
            t.room r = { vacated (s.room r) with lamp := (t.room r).lamp }
           else
            t.checkouts = s.checkouts + 1 ∧ t.charges = s.charges ∧
            t.room r = { s.room r with occupancy := .checkoutPending, outTime := some (s.clock.day, s.clock.seconds)
                                       lamp := (t.room r).lamp })) ∧
      (s.link.queue.length < 63 → s.prompted → s.marksBlank →
        let callers := (List.finRange 32).filter fun c =>
          (s.chan c).slot.isSome && decide ((s.chan c).kind = some .retrieve ∧ (s.chan c).room = some r)
        (∀ c ∈ callers, (s.chan c).state ≠ .record) →
        let pending : State :=
          { s with checkouts := s.checkouts + 1
                   rooms := s.rooms.set r { s.room r with occupancy := .checkoutPending
                                                          outTime := some (s.clock.day, s.clock.seconds) } }
        let emptied := pending.emptied r
        let closed := evaluateLamp r (callers.foldl (fun z c => z.closes c) emptied)
        let gone : State :=
          if (s.room r).openMeters ≠ 0 then closed
          else
            evaluateRoom r { closed.bills final with
                             checkouts := s.checkouts, rooms := closed.rooms.set r (vacated (closed.room r)) }
        exec (.checkOut tag [a, b]) s = .next (State.drains { gone with link := gone.link.replied tag .ok [] }) ∧
        ((s.room r).mailbox.Nodup →
          (∀ n ∈ (s.room r).mailbox, ∃ m, s.message n = some m ∧ m.room = r ∧ (m.state = .new ∨ m.state = .heard)) →
          Emptied r s emptied)))

/-- SET_CREDIT and POST_PAYMENT on a loaded room that is not VACANT: the credit limit is set, or the balance falls by the
amount and is held at 0, and the room is re-evaluated; UNBAR clears credit-barred unless the exposure still meets the limit,
which is BUSY; DESK_FLAG sets or clears the flag of an OCCUPIED room. A VACANT room is refused with BAD_STATE by the first
two, and a room that is not OCCUPIED by DESK_FLAG. -/
def Obligations.AccountCommands : Prop :=
  ∀ (tag a b o2 o1 o0 : Octet) (s : State) (r : RoomIx), s.ready → s.service ≠ .mounting → field16 a b = r.val →
    (s.room r).loaded = true →
    (field24 o2 o1 o0 ≤ 9999999 → (s.room r).occupancy = .vacant →
      exec (.setCredit tag [a, b, o2, o1, o0]) s = .next (s.refused tag .badState) ∧
      exec (.postPayment tag [a, b, o2, o1, o0]) s = .next (s.refused tag .badState)) ∧
    (field24 o2 o1 o0 ≤ 9999999 → (s.room r).occupancy ≠ .vacant →
      exec (.setCredit tag [a, b, o2, o1, o0]) s =
        .next { evaluateRoom r (s.setRoom r { s.room r with creditLimit := field24 o2 o1 o0 }) with
                link := s.link.replied tag .ok [] } ∧
      exec (.postPayment tag [a, b, o2, o1, o0]) s =
        .next { evaluateRoom r (s.setRoom r { s.room r with
                  balance := if (s.room r).balance ≤ field24 o2 o1 o0 then 0
                             else (s.room r).balance - field24 o2 o1 o0 }) with
                link := s.link.replied tag .ok [] }) ∧
    ((s.room r).creditLimit ≠ 0 ∧ (s.room r).creditLimit ≤ s.exposure r →
      exec (.unbar tag [a, b]) s = .next (s.refused tag .busy)) ∧
    ((s.room r).creditLimit = 0 ∨ s.exposure r < (s.room r).creditLimit →
      exec (.unbar tag [a, b]) s =
        .next { evaluateLamp r (s.setRoom r { s.room r with barred := false }) with
                link := s.link.replied tag .ok [] }) ∧
    (o0.toNat ≤ 1 → (s.room r).occupancy ≠ .occupied →
      exec (.deskFlag tag [a, b, o0]) s = .next (s.refused tag .badState)) ∧
    (o0.toNat ≤ 1 → (s.room r).occupancy = .occupied →
      exec (.deskFlag tag [a, b, o0]) s =
        .next { evaluateLamp r (s.setRoom r { s.room r with desk := decide (o0 = 1) }) with
                link := s.link.replied tag .ok [] })

/-- DELETE_MESSAGES: every message of the room's mailbox takes the delete path in the order of their serials, the room's lamp
is evaluated, and in SUSPENDING the drain is tested (log entry 29). A mailbox of NEW and HEARD messages of the room is emptied
with its counts. So a mailbox that holds one message, HEARD and not being read, leaves it DELETING with its DELETED mark queued
when page 15 of its head block is blank, a HEARD mark still queued for it withdrawn, and the NEW counts as they were; when page
15 is not blank the mark is taken at once as one that failed: FLASH_FAULT is placed and the message reclaimed, its blocks in
block order to the dirty list, or to the bad table where their retire flag is set, with the store-low test. On an empty mailbox
the room is evaluated and nothing else happens. That the store-low test also follows the freeing of a message with no page
programmed is the model's reading (log entry 14). So is that an ATTENTION frame comes before the reply of the same command (log
entry 12). -/
def Obligations.DeleteMessagesEmptiesTheMailbox : Prop :=
  ∀ (tag a b : Octet) (s : State) (r : RoomIx), s.ready → s.service ≠ .mounting → field16 a b = r.val →
    ((s.room r).mailbox = [] →
      exec (.deleteMessages tag [a, b]) s =
        .next (State.drains { evaluateLamp r s with link := s.link.replied tag .ok [] })) ∧
    (s.link.queue.length < 63 → s.marksBlank →
      let gone := evaluateLamp r (s.emptied r)
      exec (.deleteMessages tag [a, b]) s =
        .next (State.drains { gone with link := gone.link.replied tag .ok [] }) ∧
      ((s.room r).mailbox.Nodup →
        (∀ n ∈ (s.room r).mailbox, ∃ m, s.message n = some m ∧ m.room = r ∧ (m.state = .new ∨ m.state = .heard)) →
        Emptied r s gone)) ∧
    (∀ n m, (s.room r).mailbox = [n] → s.message n = some m → m.room = r → m.state = .heard → m.readers = 0 →
      m.deletedPending = false → m.blank15 = true → m.unprogrammed = false → s.programming n = false →
      ∃ t, exec (.deleteMessages tag [a, b]) s = .next t ∧
        t = { s with rooms := t.rooms, lamps := t.lamps, store := t.store, link := s.link.replied tag .ok [] } ∧
        (∀ r', r' ≠ r → t.room r' = s.room r') ∧
        (t.room r).mailbox = [] ∧ (t.room r).newCount = (s.room r).newCount ∧
        t.message n = some { m with state := .deleting, deletedPending := true } ∧
        t.store = { s.store with messages := t.store.messages
                                 marks := s.store.marks.filter (· ≠ (n, .heard)) ++ [(n, .deleted)] }) ∧
    (∀ n m, (s.room r).mailbox = [n] → s.message n = some m → m.room = r → m.state = .heard → m.readers = 0 →
      m.deletedPending = false → m.blank15 = false → m.unprogrammed = false → s.programming n = false →
      s.link.queue.length < 63 →
      let reclaimed : Store :=
        { s.store with
          messages := s.store.messages.filter (·.serial ≠ n), marks := s.store.marks.filter (· ≠ (n, .heard))
          dirty := s.store.dirty ++ (m.blocks.filter (!·.retire)).map (·.block)
          bad := ((m.blocks.filter (·.retire)).map (·.block)).foldl
            (fun l b => if b ∈ l then l else l ++ [b]) s.store.bad }
      let failed : State := State.lowTested (State.placed
        { s with rooms := s.rooms.set r { s.room r with mailbox := [] }, store := reclaimed } .flashFault)
      exec (.deleteMessages tag [a, b]) s =
        .next (State.drains { evaluateLamp r failed with link := failed.link.replied tag .ok [] }))

/-- The three queries reply with the fields of the manual's table in their order and change nothing else. The bits of the room
flags and lamp flags that the manual leaves unnamed are sent as 0 (log entry 40). -/
def Obligations.QueriesReport : Prop :=
  ∀ (tag a b : Octet) (s : State) (r : RoomIx), s.ready → field16 a b = r.val →
    let x := s.room r
    let status :=
      [s.service.code] ++ octets2 s.attention.toNat ++ octets3 s.clock.seconds ++ octets1 s.clock.weekday ++
        octets2 s.clock.day ++ [yesNo s.clock.unset] ++ octets1 s.link.queue.length ++ octets2 s.charges.length ++
        octets1 s.openMeters ++ octets2 s.checkouts
    let room :=
      [yesNo x.loaded] ++ extensionOctets3 x.extension ++ octets1 x.cls.val ++ [x.occupancy.code] ++ octets2 x.inDay ++
        octets3 x.inSecond ++ octets3 x.creditLimit ++ octets3 x.balance ++ octets3 (s.exposure r) ++
        octets1 x.openMeters ++ [roomFlags x, x.denial.code] ++ octets1 x.mailbox.length ++ octets1 x.newCount ++
        octets1 x.urgentCount ++ [lampStateCode x.lamp.ordered, lampFlags x.lamp] ++ octets1 x.lamp.failures
    let store :=
      if s.store.mounted = true then
        [(1 : Octet)] ++ octets3 s.store.free.length ++ octets3 s.store.dirty.length ++ octets3 s.store.bad.length ++
          octets2 s.store.messages.length ++ octets4 s.store.nextSerial ++ octets2 s.store.marks.length
      else List.replicate 18 0
    exec (.queryStatus tag []) s = .next { s with link := s.link.replied tag .ok status } ∧
    exec (.queryRoom tag [a, b]) s = .next { s with link := s.link.replied tag .ok room } ∧
    exec (.queryStore tag []) s = .next { s with link := s.link.replied tag .ok store }

/-! ## Tables, trunks and the expansion table -/

/-- LOAD_TABLE CLASS: a field out of its range is refused with BAD_ARGUMENT; a load that passes replaces every field of that
one class, leaves the other classes and the rooms of other classes alone, and does to each room of the class what R37
gives: a changed fault threshold clears its sense-failure count, a changed markup or credit restart evaluates its barring and
lamp, a changed lamp shutdown state its lamp, and the other fields nothing. The rooms whose evaluation calls for an order and
that were not queued join the lamp order queue in index order (log entry 11). -/
def Obligations.ClassLoad : Prop :=
  ∀ (tag k mb l1 l0 nv mt gr m1 m0 ta bl cr sd lr ft : Octet) (s : State), s.ready → s.service ≠ .mounting →
    let fields := [k, mb, l1, l0, nv, mt, gr, m1, m0, ta, bl, cr, sd, lr, ft]
    let passes := k.toNat ≤ 15 ∧ 1 ≤ mb.toNat ∧ mb.toNat ≤ 64 ∧ 10 ≤ field16 l1 l0 ∧ field16 l1 l0 ≤ 600 ∧
      nv.toNat ≤ 30 ∧ 2 ≤ mt.toNat ∧ mt.toNat ≤ 30 ∧ gr.toNat ≤ 60 ∧ field16 m1 m0 ≤ 2000 ∧ ta.toNat ≤ 120 ∧
      bl.toNat ≤ 1 ∧ cr.toNat ≤ 1 ∧ sd.toNat ≤ 1 ∧ lr.toNat ≤ 1 ∧
      (ft.toNat = 1 ∨ ft.toNat = 2 ∨ ft.toNat = 4 ∨ ft.toNat = 8)
    let cls : ClassIx := Fin.ofNat 16 k.toNat
    let old := s.classes[cls]
    let new : ClassRecord :=
      { mailboxLimit := mb.toNat, maxLength := field16 l1 l0, noVoice := nv.toNat, menuTimeout := mt.toNat,
        grace := gr.toNat, markup := field16 m1 m0, timedAnswer := ta.toNat, billing := decide (bl.toNat = 1),
        creditManual := decide (cr.toNat = 1), shutdownHold := decide (sd.toNat = 1),
        lampManual := decide (lr.toNat = 1), faultThreshold := ft.toNat }
    let loaded : State := { s with classes := s.classes.set cls new }
    (¬passes → exec (.loadTableClass tag fields) s = .next (s.refused tag .badArgument)) ∧
    (passes →
      ∃ t, exec (.loadTableClass tag fields) s = .next t ∧
        t = { s with classes := s.classes.set cls new, rooms := t.rooms, link := s.link.replied tag .ok []
                     lamps := { s.lamps with queue := s.lamps.queue ++ (List.finRange 2048).filter fun r =>
                       (t.room r).lamp.queued && !(s.room r).lamp.queued } } ∧
        (∀ r, (s.room r).cls ≠ cls → t.room r = s.room r) ∧
        (∀ r, (s.room r).cls = cls →
          let cleared := if old.faultThreshold ≠ new.faultThreshold then loaded.updLamp r fun l => { l with failures := 0 }
                         else loaded
          t.room r =
            (if old.markup ≠ new.markup ∨ old.creditManual ≠ new.creditManual then evaluateRoom r cleared
             else if old.shutdownHold ≠ new.shutdownHold then evaluateLamp r cleared else cleared).room r))

/-- The tariff loads. PREFIX: a string of up to 16 digits that no other entry holds is written with its action and bar
mask in one entry, a digit count of 0 empties the entry, and index 512 writes the default entry; BAND: the five fields of
one band-period are replaced; SCHEDULE: the whole schedule is replaced. Nothing else of the tariff or of the device
changes. How SCHEDULE's length is tested, and that an emptying load is checked too, are the model's readings (log entries
20 and 21). -/
def Obligations.TariffLoads : Prop :=
  (∀ (tag i1 i0 n d0 d1 d2 d3 d4 d5 d6 d7 act band b1 b0 : Octet) (s : State), s.ready → s.service ≠ .mounting →
    let index := field16 i1 i0
    let digits := (nibblesOf [d0, d1, d2, d3, d4, d5, d6, d7]).take n.toNat
    let action : Action := if act.toNat = 0 then .free else .meter (Fin.ofNat 32 band.toNat)
    let load := Instr.loadTablePrefix tag [i1, i0, n, d0, d1, d2, d3, d4, d5, d6, d7, act, band, b1, b0]
    let actionOk := act.toNat = 0 ∨ (act.toNat = 1 ∧ band.toNat ≤ 31)
    (512 < index ∨ ¬actionOk ∨
        (index < 512 ∧ (16 < n.toNat ∨ (∃ d ∈ digits, 9 < d) ∨
          (n.toNat ≠ 0 ∧ ∃ (j : Fin 512) (e : DigitEntry), j.val ≠ index ∧ s.tariff.entries[j] = some e ∧
            e.digits = digits))) →
      exec load s = .next (s.refused tag .badArgument)) ∧
    (index = 512 → actionOk →
      exec load s =
        .next { s with tariff := { s.tariff with defaultAction := action, defaultBar := b1 ++ b0 }
                       link := s.link.replied tag .ok [] }) ∧
    (index < 512 → actionOk → n.toNat = 0 →
      exec load s =
        .next { s with tariff := { s.tariff with entries := s.tariff.entries.set (Fin.ofNat 512 index) none }
                       link := s.link.replied tag .ok [] }) ∧
    (index < 512 → actionOk → n.toNat ≠ 0 → n.toNat ≤ 16 → (∀ d ∈ digits, d ≤ 9) →
      (∀ (j : Fin 512) (e : DigitEntry), j.val ≠ index → s.tariff.entries[j] = some e → e.digits ≠ digits) →
      exec load s =
        .next { s with tariff := { s.tariff with
                         entries := s.tariff.entries.set (Fin.ofNat 512 index)
                           (some { digits := digits, action := action, bar := b1 ++ b0 }) }
                       link := s.link.replied tag .ok [] })) ∧
  (∀ (tag b p p1 p0 c1 c0 u1 u0 cu1 cu0 m1 m0 : Octet) (s : State), s.ready → s.service ≠ .mounting →
    let load := Instr.loadTableBand tag [b, p, p1, p0, c1, c0, u1, u0, cu1, cu0, m1, m0]
    let passes := b.toNat ≤ 31 ∧ p.toNat ≤ 3 ∧ field16 p1 p0 ≤ 3600 ∧ 1 ≤ field16 u1 u0 ∧ field16 u1 u0 ≤ 3600
    (¬passes → exec load s = .next (s.refused tag .badArgument)) ∧
    (passes →
      ∃ t, exec load s = .next t ∧
        t = { s with tariff := { s.tariff with bands := t.tariff.bands }, link := s.link.replied tag .ok [] } ∧
        ∀ (band : Fin 32) (period : Fin 4),
          t.bandPeriod band period =
            if band.val = b.toNat ∧ period.val = p.toNat then
              { p0 := field16 p1 p0, c0 := field16 c1 c0, u := field16 u1 u0, cu := field16 cu1 cu0,
                cmin := field16 m1 m0 }
            else s.bandPeriod band period)) ∧
  ∀ (tag n mask w : Octet) (l : List Octet) (s : State), s.ready → s.service ≠ .mounting → l.length = 4 * n.toNat →
    let entries := scheduleEntries l
    let passes := 1 ≤ n.toNat ∧ n.toNat ≤ 8 ∧ (entries.map (·.1)).head? = some 0 ∧
      (entries.map (·.1)).Pairwise (· < ·) ∧ (∀ e ∈ entries, e.1 < 86400 ∧ e.2 ≤ 3) ∧ w.toNat ≤ 3 ∧ mask.toNat < 128
    (¬passes → exec (.loadTableSchedule tag (n :: l ++ [mask, w])) s = .next (s.refused tag .badArgument)) ∧
    (passes →
      exec (.loadTableSchedule tag (n :: l ++ [mask, w])) s =
        .next { s with tariff := { s.tariff with
                         schedule := { entries := entries.map fun e => (e.1, Fin.ofNat 4 e.2)
                                       weekend := mask.truncate 7, weekendPeriod := Fin.ofNat 4 w.toNat } }
                       link := s.link.replied tag .ok [] })

/-- LOAD_TABLE PARAMETERS: a field out of its range refuses them all with BAD_ARGUMENT; a load that passes replaces all six,
keeps the lamp period count, and is followed by the store-low test, which places STORE_LOW when the store is mounted and its
free, dirty and erasing blocks together stand below the new low-water mark. That its ATTENTION frame comes before the reply is
the model's reading (log entry 12). -/
def Obligations.ParametersLoad : Prop :=
  ∀ (tag t1 t0 w2 w1 w0 rs lp ho si : Octet) (s : State), s.ready → s.service ≠ .mounting →
    s.link.queue.length < 63 →
    let load := Instr.loadTableParameters tag [t1, t0, w2, w1, w0, rs, lp, ho, si]
    let passes := field16 t1 t0 ≤ 8191 ∧ field24 w2 w1 w0 ≤ 65536 ∧ 1 ≤ rs.toNat ∧ rs.toNat ≤ 64 ∧ 1 ≤ lp.toNat ∧
      lp.toNat ≤ 10 ∧ ho.toNat ≤ 3 ∧ (si.toNat = 1 ∨ si.toNat = 2 ∨ si.toNat = 4 ∨ si.toNat = 8)
    let low := s.store.mounted = true ∧
      s.store.free.length + s.store.dirty.length + (if s.store.erasing = none then 0 else 1) < field24 w2 w1 w0
    (¬passes → exec load s = .next (s.refused tag .badArgument)) ∧
    (passes →
      ∃ t, exec load s = .next t ∧
        t = { s with coder := { s.coder with threshold := field16 t1 t0 }
                     store := { s.store with lowWater := field24 w2 w1 w0, reserve := rs.toNat }
                     lamps := { s.lamps with lampPeriod := lp.toNat, holdOff := ho.toNat, senseInterval := si.toNat }
                     attention := t.attention, link := t.link } ∧
        t.attention = (if low then s.attention ||| attentionBit .storeLow else s.attention) ∧
        t.link = (if low ∧ s.attention = 0 then { s.link with queue := s.link.queue ++ [.attention] } else s.link).replied
          tag .ok [])

/-- LOAD_TRUNK: a slot above 125 other than 0xFF, a bound slot and a slot mapped to another trunk are refused with
BAD_ARGUMENT, a trunk with a meter with BUSY; else the trunk's mapping becomes the slot, or none, and its mute flag and every
other trunk stay. -/
def Obligations.TrunkLoad : Prop :=
  ∀ (tag t k : Octet) (s : State), s.ready → s.service ≠ .mounting →
    let u : TrunkIx := Fin.ofNat 256 t.toNat
    (∀ slot : Fin 126, k.toNat = slot.val →
      (s.highway.bindings[slot] ≠ none ∨ (∃ v : TrunkIx, v ≠ u ∧ (s.trunk v).slot = some slot) →
        exec (.loadTrunk tag [t, k]) s = .next (s.refused tag .badArgument)) ∧
      (s.highway.bindings[slot] = none → (∀ v : TrunkIx, v ≠ u → (s.trunk v).slot ≠ some slot) →
        ((s.trunk u).meter ≠ none → exec (.loadTrunk tag [t, k]) s = .next (s.refused tag .busy)) ∧
        ((s.trunk u).meter = none →
          exec (.loadTrunk tag [t, k]) s =
            .next { s with trunks := s.trunks.set u { s.trunk u with slot := some slot }
                           link := s.link.replied tag .ok [] }))) ∧
    (126 ≤ k.toNat → k.toNat < 255 → exec (.loadTrunk tag [t, k]) s = .next (s.refused tag .badArgument)) ∧
    (k.toNat = 255 → (s.trunk u).meter ≠ none → exec (.loadTrunk tag [t, k]) s = .next (s.refused tag .busy)) ∧
    (k.toNat = 255 → (s.trunk u).meter = none →
      exec (.loadTrunk tag [t, k]) s =
        .next { s with trunks := s.trunks.set u { s.trunk u with slot := none }, link := s.link.replied tag .ok [] })

/-- LOAD_EXPANSION: outside SETUP it is refused with BAD_STATE, and past index 255 with BAD_ARGUMENT; else each entry named
takes its two octets as a two's complement value held in −8,192..8,191 and is marked loaded, and the other entries stay. -/
def Obligations.ExpansionLoad : Prop :=
  ∀ (tag i : Octet) (l : List Octet) (s : State), s.ready → l.length % 2 = 0 → 2 ≤ l.length → l.length ≤ 56 →
    (s.service ≠ .setup → exec (.loadExpansion tag (i :: l)) s = .next (s.refused tag .badState)) ∧
    (s.service = .setup → 256 < i.toNat + l.length / 2 →
      exec (.loadExpansion tag (i :: l)) s = .next (s.refused tag .badArgument)) ∧
    (s.service = .setup → i.toNat + l.length / 2 ≤ 256 →
      ∃ t, exec (.loadExpansion tag (i :: l)) s = .next t ∧
        t = { s with coder := { s.coder with expansion := t.coder.expansion, loaded := t.coder.loaded }
                     link := s.link.replied tag .ok [] } ∧
        ∀ j : Fin 256,
          if i.toNat ≤ j.val ∧ j.val < i.toNat + l.length / 2 then
            let v := fieldInt16 (l.getD (2 * (j.val - i.toNat)) 0) (l.getD (2 * (j.val - i.toNat) + 1) 0)
            t.coder.expansion[j] = max (-8192) (min 8191 v) ∧ t.coder.loaded[j] = true
          else t.coder.expansion[j] = s.coder.expansion[j] ∧ t.coder.loaded[j] = s.coder.loaded[j])

/-! ## Service control and the command holder (Chapter 10) -/

/-- START_SERVICE from SETUP with geometry set, store mounted and expansion table complete, or from SUSPENDED, enters
IN_SERVICE and establishes the silence code, the lowest code whose entry has the smallest magnitude; else BAD_STATE. SUSPEND
from IN_SERVICE enters SUSPENDING, every channel with a bound slot receiving a close request, and SUSPENDED at once when every
channel is FREE and no program and no mark is outstanding; from any other state BAD_STATE. That the close requests come in
channel order is the model's choice (log entry 11), and so is that they leave a menu timer running (log entry 19). -/
def Obligations.ServiceCommands : Prop :=
  ∀ (tag : Octet) (s : State), s.ready →
    let may := (s.service = .setup ∧ s.store.geometrySet = true ∧ s.store.mounted = true ∧
      ∀ j : Fin 256, s.coder.loaded[j] = true) ∨ s.service = .suspended
    (¬may → exec (.startService tag []) s = .next (s.refused tag .badState)) ∧
    (may →
      (∀ j : Fin 256, (s.coder.expansion[j]).natAbs ≤ 8192) →
      ∃ (t : State) (c : Fin 256), exec (.startService tag []) s = .next t ∧
        t = { s with service := .inService, coder := { s.coder with silence := some (BitVec.ofNat 8 c.val) }
                     link := s.link.replied tag .ok [] } ∧
        (∀ j : Fin 256, (s.coder.expansion[c]).natAbs ≤ (s.coder.expansion[j]).natAbs) ∧
        (∀ j : Fin 256, j < c → (s.coder.expansion[c]).natAbs < (s.coder.expansion[j]).natAbs)) ∧
    (s.service ≠ .inService → exec (.suspend tag []) s = .next (s.refused tag .badState)) ∧
    (s.service = .inService → (∀ c, (s.chan c).state = .free ∧ (s.chan c).slot = none) →
      (∀ c, (s.ring c).recorded = [] ∧ (s.ring c).held = []) →
      exec (.suspend tag []) s =
        .next { s with service := if s.store.marks = [] ∧ s.store.marking = none then .suspended else .suspending
                       link := s.link.replied tag .ok [] }) ∧
    (s.service = .inService → (∃ c, (s.chan c).state = .flush) → (∀ c, (s.chan c).state = .free ∨ (s.chan c).state = .flush ∨
        (s.chan c).state = .closing) →
      exec (.suspend tag []) s = .next { s with service := .suspending, link := s.link.replied tag .ok [] }) ∧
    (s.service = .inService → s.prompted → s.marksBlank →
      (∀ c, (s.chan c).state = .record → 2 ≤ (s.ring c).outPrograms ∧ (s.ring c).recorded ≠ []) →
      let bound := (List.finRange 32).filter fun c => (s.chan c).slot.isSome
      let closed : State := bound.foldl (fun z c => z.closes c) { s with service := .suspending }
      exec (.suspend tag []) s = .next (State.drains { closed with link := s.link.replied tag .ok [] }))

/-- CLEAR_ATTENTION removes the kinds its mask names, its bits 13–15 ignored, and when kinds remain it offers one ATTENTION
frame ahead of its reply, in every service state; an ATTENTION frame dropped for want of an entry places OUTBOUND_FULL, and
the reply then waits. -/
def Obligations.ClearAttentionRemovesKinds : Prop :=
  ∀ (tag m1 m0 : Octet) (s : State), s.resetLow = false → s.link.holder = none →
    let mask : BitVec 16 := (m1 ++ m0) &&& 0x1FFF
    let left := s.attention &&& ~~~mask
    let waits : Held := ⟨0x43, tag, [m1, m0], .offering .ok []⟩
    (s.link.queue.length < 64 → left = 0 →
      exec (.clearAttention tag [m1, m0]) s = .next { s with attention := left, link := s.link.replied tag .ok [] }) ∧
    (s.link.queue.length < 63 → left ≠ 0 →
      exec (.clearAttention tag [m1, m0]) s =
        .next { s with attention := left
                       link := { s.link with queue := s.link.queue ++ [.attention, .reply tag .ok []] } }) ∧
    (s.link.queue.length = 63 → left ≠ 0 →
      exec (.clearAttention tag [m1, m0]) s =
        .next { s with attention := left
                       link := { s.link with queue := s.link.queue ++ [.attention], holder := some waits } }) ∧
    (64 ≤ s.link.queue.length →
      exec (.clearAttention tag [m1, m0]) s =
        .next { s with attention := if left = 0 then left else left ||| attentionBit .outboundFull
                       link := { s.link with holder := some waits } })

/-- The holder holds one command. A management command that finds it occupied is discarded: CMD_OVERRUN is placed in the
attention set, no reply is sent for it, and the held command stays. With no entry free, the reply that the owner of any
management command builds waits in the holder in stage OFFERING with its status and data (so a QUERY_STORE waits with its
report), the effects of the command made, and a command whose reply is deferred waits in stage WORKING; REPLY_ENTRY with an
entry free puts it at the tail of the queue as it was built and empties the holder, and without one leaves the state as it
is. -/
def Obligations.HolderHoldsOneCommand : Prop :=
  (∀ (i : Instr) (tag : Octet) (fields : List Octet) (s : State) (h : Held), commandFields i = some (tag, fields) →
    s.resetLow = false → s.link.holder = some h → s.link.queue.length < 64 →
    exec i s = .next (if attentionHas s.attention .cmdOverrun then s else s.placed .cmdOverrun)) ∧
  (∀ (i : Instr) (kind tag : Octet) (fields : List Octet) (s : State), controllerFrame i = some (kind, tag :: fields) →
    0x40 ≤ kind.toNat → s.resetLow = false → s.link.holder = none → 64 ≤ s.link.queue.length →
    let holding (stage : Stage) : Option Held := some ⟨kind, tag, fields, stage⟩
    ∃ t, exec i s = .next t ∧ t.link.queue = s.link.queue ∧
      match commandOwner kind.toNat tag fields { s with link := { s.link with holder := holding .working } } with
      | .done st data z => t = { z with link := { z.link with holder := holding (.offering st data) } }
      | .deferred z => t = z ∧ t.link.holder = holding .working) ∧
  (∀ (tag : Octet) (s : State), s.resetLow = false → s.link.holder = none → 64 ≤ s.link.queue.length →
    exec (.queryStore tag []) s =
      .next { s with link := { s.link with holder := some ⟨0x53, tag, [], .offering .ok s.store.report⟩ } }) ∧
  ∀ (s : State) (k tag : Octet) (fields : List Octet) (st : Status) (data : List Octet), s.resetLow = false →
    s.link.holder = some ⟨k, tag, fields, .offering st data⟩ →
    (s.link.queue.length < 64 → exec .replyEntry s = .next (s.answered tag st data)) ∧
    (64 ≤ s.link.queue.length → exec .replyEntry s = .next s)

/-- The checks of a management command. A wrong length is answered BAD_ARGUMENT, and a LOAD_TABLE whose table number is not 1–5
BAD_KIND, with no other effect and in every service state. MOUNTING refuses every LOAD_TABLE and LOAD_TRUNK of the right length
with BAD_STATE, whatever their fields (how SCHEDULE's length is tested is the model's, log entry 20). The room commands are
then checked in their order: MOUNTING refuses them all but QUERY_ROOM with BAD_STATE, whatever room they name; else a room
index above 2,047 is BAD_ARGUMENT for every one; else a field out of its range is BAD_ARGUMENT; else those that need a loaded
room answer NOT_FOUND for one that is not. -/
def Obligations.CommandChecks : Prop :=
  (∀ (i : Instr) (n : Nat) (tag : Octet) (fields : List Octet) (s : State), s.ready → commandLength i = some n →
    commandFields i = some (tag, fields) → fields.length ≠ n → exec i s = .next (s.refused tag .badArgument)) ∧
  (∀ (tag : Octet) (fields : List Octet) (s : State), s.ready →
    (fields.length ≤ 2 ∨ 57 < fields.length ∨ fields.length % 2 = 0 →
      exec (.loadExpansion tag fields) s = .next (s.refused tag .badArgument)) ∧
    (fields.length ≤ 3 ∨ 59 < fields.length →
      exec (.promptPage tag fields) s = .next (s.refused tag .badArgument)) ∧
    (fields.length ≠ 4 * (fields.headD 0).toNat + 3 →
      exec (.loadTableSchedule tag fields) s = .next (s.refused tag .badArgument))) ∧
  (∀ (tag table : Octet) (fields : List Octet) (s : State), s.ready → table.toNat = 0 ∨ 5 < table.toNat →
    dispatch (0x45, tag :: table :: fields) s = s.refused tag .badKind ∧
    dispatch (0x45, [tag]) s = s.refused tag .badArgument) ∧
  (∀ (tag : Octet) (fields : List Octet) (s : State), s.ready → s.service = .mounting →
    (∀ c ∈ [Instr.loadTableClass tag fields, .loadTablePrefix tag fields, .loadTableBand tag fields,
        .loadTableParameters tag fields, .loadTrunk tag fields],
      commandLength c = some fields.length → exec c s = .next (s.refused tag .badState)) ∧
    (fields.length = 4 * (fields.headD 0).toNat + 3 →
      exec (.loadTableSchedule tag fields) s = .next (s.refused tag .badState))) ∧
  ∀ (tag a b o2 o1 o0 f k : Octet) (s : State), s.ready →
    let needLoaded : List Instr :=
      [.checkIn tag [a, b, o2, o1, o0], .checkOut tag [a, b], .setCredit tag [a, b, o2, o1, o0],
       .postPayment tag [a, b, o2, o1, o0], .unbar tag [a, b], .deskFlag tag [a, b, f], .lampForce tag [a, b, f],
       .lampResume tag [a, b]]
    let stated := [Instr.loadRoom tag [a, b, o2, o1, o0, k], .deleteMessages tag [a, b]] ++ needLoaded
    (s.service = .mounting → ∀ c ∈ stated, exec c s = .next (s.refused tag .badState)) ∧
    (s.service ≠ .mounting → 2047 < field16 a b →
      ∀ c ∈ stated, exec c s = .next (s.refused tag .badArgument)) ∧
    (2047 < field16 a b → exec (.queryRoom tag [a, b]) s = .next (s.refused tag .badArgument)) ∧
    (s.service ≠ .mounting →
      (999999 < field24 o2 o1 o0 ∨ 15 < k.toNat →
        exec (.loadRoom tag [a, b, o2, o1, o0, k]) s = .next (s.refused tag .badArgument)) ∧
      (9999999 < field24 o2 o1 o0 →
        ∀ c ∈ [Instr.checkIn tag [a, b, o2, o1, o0], .setCredit tag [a, b, o2, o1, o0], .postPayment tag [a, b, o2, o1, o0]],
          exec c s = .next (s.refused tag .badArgument)) ∧
      (1 < f.toNat → ∀ c ∈ [Instr.deskFlag tag [a, b, f], .lampForce tag [a, b, f]],
        exec c s = .next (s.refused tag .badArgument))) ∧
    (∀ r : RoomIx, s.service ≠ .mounting → field16 a b = r.val → field24 o2 o1 o0 ≤ 9999999 → f.toNat ≤ 1 →
      (s.room r).loaded = false → ∀ c ∈ needLoaded, exec c s = .next (s.refused tag .notFound))

/-- FETCH_CHARGES (n), n outside 1–8 being BAD_ARGUMENT: the k oldest records, k being the smaller of n and the fill,
enter the outbound queue with the reply, together, when k + 1 entries are free, and the charge queue keeps them; with
fewer entries free the command waits in the holder in stage WORKING, and FETCH_CHARGES_ENTRY makes the same offer again.
RELEASE_CHARGES (n): n above the fill is refused with BAD_ARGUMENT and no record is removed; else the n oldest records
leave the charge queue and the reply carries the fill after the release. That the first offer is part of the step that
takes FETCH_CHARGES is the model's reading (log entry 18). -/
def Obligations.ChargesFetchedAndReleased : Prop :=
  (∀ (tag n : Octet) (s : State), s.resetLow = false →
    let k := min n.toNat s.charges.length
    let records := (s.charges.take k).map OutFrame.chargeData
    let sent : State :=
      { s with link := { s.link with queue := s.link.queue ++ records ++ [.reply tag .ok [BitVec.ofNat 8 k]]
                                     holder := none } }
    let waits : State := { s with link := { s.link with holder := some ⟨0x5E, tag, [n], .working⟩ } }
    (s.link.holder = none → s.link.queue.length < 64 → n.toNat = 0 ∨ 8 < n.toNat →
      exec (.fetchCharges tag [n]) s = .next (s.refused tag .badArgument)) ∧
    (s.link.holder = none → 1 ≤ n.toNat → n.toNat ≤ 8 →
      exec (.fetchCharges tag [n]) s = .next (if s.link.queue.length + k + 1 ≤ 64 then sent else waits)) ∧
    (s.link.holder = some ⟨0x5E, tag, [n], .working⟩ → n.toNat ≤ 8 →
      exec .fetchChargesEntry s = .next (if s.link.queue.length + k + 1 ≤ 64 then sent else s))) ∧
  ∀ (tag n1 n0 : Octet) (s : State), s.ready →
    (s.charges.length < field16 n1 n0 →
      exec (.releaseCharges tag [n1, n0]) s = .next (s.refused tag .badArgument)) ∧
    (field16 n1 n0 ≤ s.charges.length →
      exec (.releaseCharges tag [n1, n0]) s =
        .next { s with charges := s.charges.drop (field16 n1 n0)
                       link := s.link.replied tag .ok (octets2 (s.charges.length - field16 n1 n0)) })

/-! ## Calls (Chapter 8) -/

/-- SEIZE_OUT in an active state for a trunk with no meter: an extension not found, or a room whose class has billing disabled,
only clears the trunk's mute; a room that is not OCCUPIED is denied with VACANT, a barred one with CREDIT, one that finds no
meter free or no charge admission with CAPACITY (CHARGES_FULL placed in the last case); else the lowest-numbered free meter is
allocated. A DENY_CALL that finds no entry free is dropped: OUTBOUND_FULL is placed, and the mute and the last denial reason
stand. That the DENY_CALL is offered before CHARGES_FULL is placed is the model's reading (log entry 12). A trunk that has a
meter is cleared first, the meter marked INTERRUPTED. Outside the active states nothing happens. -/
def Obligations.Seizure : Prop :=
  ∀ (t : TrunkIx) (x : Nat) (s : State), s.resetLow = false → x ≤ 999999 →
    let cleared : State := { s with trunks := s.trunks.set t { s.trunk t with mute := false } }
    (s.service = .setup ∨ s.service = .mounting → exec (.seizeOut t x) s = .next s) ∧
    (s.service ≠ .setup → s.service ≠ .mounting →
      ((s.trunk t).meter = none → s.lookup x = none → exec (.seizeOut t x) s = .next cleared) ∧
      (∀ r, (s.trunk t).meter = none → s.lookup x = some r →
        ((s.room r).occupancy ≠ .occupied → exec (.seizeOut t x) s = .next (s.denied t r .vacant)) ∧
        ((s.room r).occupancy = .occupied → (s.classOf r).billing = false →
          exec (.seizeOut t x) s = .next cleared) ∧
        ((s.room r).occupancy = .occupied → (s.classOf r).billing = true →
          ((s.room r).barred = true → exec (.seizeOut t x) s = .next (s.denied t r .credit)) ∧
          ((s.room r).barred = false → (∀ m, s.meter m ≠ none) →
            exec (.seizeOut t x) s = .next (s.denied t r .capacity)) ∧
          (∀ m, (s.room r).barred = false → s.meter m = none → (∀ m', m' < m → s.meter m' ≠ none) →
            (256 < s.charges.length + s.openMeters + s.checkouts + 1 →
              exec (.seizeOut t x) s =
                .next { s.denied t r .capacity with
                        attention := s.attention ||| attentionBit .chargesFull |||
                          if 64 ≤ s.link.queue.length ∨ (s.link.queue.length = 63 ∧ s.attention = 0) then
                            attentionBit .outboundFull else 0
                        link := { s.link with queue := s.link.queue ++
                          (if s.link.queue.length < 64 then [.denyCall t .capacity] else []) ++
                          if s.attention = 0 ∧ s.link.queue.length < 63 then [.attention] else [] } }) ∧
            (s.charges.length + s.openMeters + s.checkouts + 1 ≤ 256 →
              exec (.seizeOut t x) s =
                .next { s with
                        trunks := s.trunks.set t { s.trunk t with mute := false, meter := some m }
                        rooms := s.rooms.set r { s.room r with openMeters := (s.room r).openMeters + 1 }
                        meters := s.meters.set m (some
                          { trunk := t, room := r, extension := x, digits := [], state := .dialling, answered := false,
                            band := none, period := none, answer := none,
                            timer := if (s.classOf r).timedAnswer = 0 then none else some (s.classOf r).timedAnswer,
                            countdown := none, units := 0, base := 0, held := none,
                            flags := { timedAnswer := false, free := false, cutCredit := false, interrupted := false,
                                       clockUnset := false, saturated := false, grace := false } }) })))) ∧
      (∀ m y, (s.trunk t).meter = some m → s.meter m = some y → y.trunk = t →
        let marked : State :=
          { s with meters := s.meters.set m (some { y with flags := { y.flags with interrupted := true } }) }
        ∃ u, exec (.cleared t) marked = .next u ∧ exec (.seizeOut t x) s = exec (.seizeOut t x) u))

/-- DIGIT in an active state for a trunk whose meter is DIALLING: the digits are kept up to 20, the timed-answer timer restarts
with the value of the room's class, and when the longest match bars the room's class the meter is cut for PREFIX with a
provisional charge of 0 and the denial steps are made, a DENY_CALL with no entry free being dropped as at a seizure. For any
other meter, or none, nothing happens. -/
def Obligations.DigitsDialled : Prop :=
  ∀ (t : TrunkIx) (ds : List Nat) (s : State), s.resetLow = false → s.active = true → 1 ≤ ds.length → ds.length ≤ 20 →
    (∀ d ∈ ds, d ≤ 9) →
    ((∀ m x, (s.trunk t).meter = some m → s.meter m = some x → x.state ≠ .dialling) →
      exec (.digit t ds) s = .next s) ∧
    (∀ m x, (s.trunk t).meter = some m → s.meter m = some x → x.state = .dialling →
      let k := s.classOf x.room
      let y : Meter := { x with digits := (x.digits ++ ds).take 20
                                timer := if k.timedAnswer = 0 then none else some k.timedAnswer }
      let bars (e : DigitEntry) := e.bar.getLsbD (s.room x.room).cls.val = true
      ((∀ e, LongestMatch s y.digits e → ¬bars e) →
        exec (.digit t ds) s = .next { s with meters := s.meters.set m (some y) }) ∧
      ((∃ e, LongestMatch s y.digits e) → (∀ e, LongestMatch s y.digits e → bars e) →
        exec (.digit t ds) s =
          .next { s.denied x.trunk x.room .barredDigits with
                  meters := s.meters.set m (some { y with state := .cut, timer := none, held := some 0 }) }))

/-- The connection of a DIALLING meter, by an ANSWERED for its trunk in an active state or by its timed-answer timer at
0: the longest match, or the default entry unless it bars the room's class (which cuts the meter for PREFIX), gives the
action. The meter becomes CONNECTED with the time and period in force; a FREE action charges nothing; METER charges C0
and loads P0, or makes a credit cut in a barred room; and a P0 of 0 makes the first unit boundary at once. The model
guards TIMED_ANSWER_EXPIRY by its timer (log entry 4). -/
def Obligations.CallsConnected : Prop :=
  ∀ (timed : Bool) (m : MeterIx) (x : Meter) (s : State), s.resetLow = false →
    s.meter m = some x → x.state = .dialling →
    (timed = true → x.timer = some 0) → (timed = false → s.active = true ∧ (s.trunk x.trunk).meter = some m) →
    let event : Instr := if timed then .timedAnswerExpiry m else .answered x.trunk
    let p := s.periodInForce
    let y : Meter := { x with state := .connected, answered := true, timer := none
                              answer := some (s.clock.day, s.clock.seconds), period := some p
                              flags := { x.flags with timedAnswer := x.flags.timedAnswer || timed
                                                      clockUnset := x.flags.clockUnset || s.clock.unset } }
    let barsDefault := s.tariff.defaultBar.getLsbD (s.room x.room).cls.val
    let used (a : Action) :=
      ((∃ e, LongestMatch s x.digits e) ∧ ∀ e, LongestMatch s x.digits e → e.action = a) ∨
      ((∀ e, ¬LongestMatch s x.digits e) ∧ barsDefault = false ∧ s.tariff.defaultAction = a)
    ((∀ e, ¬LongestMatch s x.digits e) → barsDefault = true →
      exec event s =
        .next { s.denied x.trunk x.room .barredDigits with
                meters := s.meters.set m (some { x with state := .cut, timer := none, held := some 0 }) }) ∧
    (used .free →
      exec event s =
        .next { s with meters := s.meters.set m (some { y with flags := { y.flags with free := true } }) }) ∧
    (∀ b, used (.meter b) → (s.room x.room).barred = true →
      exec event s =
        .next { s.denied x.trunk x.room .credit with
                meters := s.meters.set m
                  (some (Meter.cutForCredit (s.classOf x.room).markup { y with band := some b })) }) ∧
    (∀ b, used (.meter b) → (s.room x.room).barred = false →
      let bp := s.bandPeriod b p
      let z : State :=
        evaluateRoom x.room
          (s.setMeter m (some { Meter.adds bp.c0 { y with band := some b } with countdown := some bp.p0 }))
      (bp.p0 ≠ 0 → exec event s = .next z) ∧ (bp.p0 = 0 → exec event s = exec (.unitBoundary m) z))

/-- A unit boundary of a CONNECTED meter whose countdown has reached 0: in a barred room a credit cut is made and the
unit is not charged; else Cu of the period in force is added, the units rise by 1 (held at 16,777,215), the countdown
takes U, and the room is re-evaluated. A meter whose countdown is not at 0 takes none. The guard is the model's (log
entry 4), and so is setting CLOCK_UNSET at a boundary that makes a credit cut (log entry 15). -/
def Obligations.UnitBoundaries : Prop :=
  ∀ (m : MeterIx) (x : Meter) (b : Fin 32) (s : State), s.resetLow = false → s.meter m = some x →
    (x.countdown ≠ some 0 ∨ x.state ≠ .connected → exec (.unitBoundary m) s = .next s) ∧
    (x.state = .connected → x.countdown = some 0 → x.band = some b →
      let y : Meter := { x with flags := { x.flags with clockUnset := x.flags.clockUnset || s.clock.unset } }
      let bp := s.bandPeriod b s.periodInForce
      ((s.room x.room).barred = true →
        exec (.unitBoundary m) s =
          .next { s.denied x.trunk x.room .credit with
                  meters := s.meters.set m (some (Meter.cutForCredit (s.classOf x.room).markup y)) }) ∧
      ((s.room x.room).barred = false →
        exec (.unitBoundary m) s =
          .next (evaluateRoom x.room
            (s.setMeter m (some { Meter.adds bp.cu y with
              units := min (x.units + 1) 16777215, countdown := some bp.u })))))

/-- CLEARED in an active state: the trunk's mute is cleared; a meter in DIALLING, or cut before an answer, is freed with
no record; a meter connected or cut after an answer is priced (duration, grace, minimum, markup and rounding), its CALL
record joins the charge queue and its final charge the balance, held at 9,999,999; the room's open-meter count falls and
the room is re-evaluated; and the last meter of a room in CHECKOUT_PENDING completes the checkout, its FINAL record
following the CALL record. Each append that leaves the charge queue at 224 records or more places CHARGES_HIGH. Record and
freeing are one step (log entry 23). -/
def Obligations.CallsCleared : Prop :=
  ∀ (t : TrunkIx) (s : State), s.resetLow = false → s.active = true →
    ((s.trunk t).meter = none →
      exec (.cleared t) s = .next { s with trunks := s.trunks.set t { s.trunk t with mute := false } }) ∧
    (∀ m x, (s.trunk t).meter = some m → s.meter m = some x → x.trunk = t →
      s.charges.length < 222 ∨ s.link.queue.length < 64 →
      let r := x.room
      let k := s.classOf r
      let priced := x.state = .connected ∨ (x.state = .cut ∧ x.answered = true)
      let ans := x.answer.getD (0, 0)
      let d := ((((s.clock.day + 65536 - ans.1) % 65536 : Nat) : Int) * 86400 + s.clock.seconds - ans.2).toNat
      let cmin := match x.band, x.period with
        | some b, some p => (s.bandPeriod b p).cmin
        | _, _ => 0
      let base := if d < k.grace then 0
                  else if x.band.isSome ∧ x.flags.free = false ∧ x.flags.cutCredit = false then max x.base cmin else x.base
      let final := (base * (1000 + k.markup) + 500) / 1000
      let call : CallRecord :=
        { room := r, extension := x.extension, trunk := t, digits := x.digits, band := x.band, answerDay := ans.1
          answerSecond := ans.2, duration := d, units := x.units, base := base, final := min final 999999
          flags := { x.flags with clockUnset := x.flags.clockUnset || s.clock.unset
                                  grace := x.flags.grace || decide (d < k.grace)
                                  saturated := x.flags.saturated || decide (999999 < final) } }
      let freed : State :=
        { (if priced then s.bills (.call call) else s) with
                 trunks := s.trunks.set t { s.trunk t with mute := false, meter := none }
                 meters := s.meters.set m none
                 rooms := s.rooms.set r
                   { s.room r with
                     openMeters := (s.room r).openMeters - 1
                     balance := if priced then min ((s.room r).balance + call.final) 9999999 else (s.room r).balance } }
      ((s.room r).occupancy ≠ .checkoutPending ∨ 1 < (s.room r).openMeters →
        exec (.cleared t) s = .next (evaluateRoom r freed)) ∧
      ((s.room r).occupancy = .checkoutPending → (s.room r).openMeters = 1 →
        let last : ChargeRecord :=
          .final { room := r, extension := (s.room r).extension.getD 0, balance := (freed.room r).balance
                   inDay := (s.room r).inDay, inSecond := (s.room r).inSecond
                   outDay := ((s.room r).outTime.getD (0, 0)).1, outSecond := ((s.room r).outTime.getD (0, 0)).2 }
        ∃ u, exec (.cleared t) s = .next u ∧
          u = { freed.bills last with rooms := u.rooms, lamps := u.lamps, checkouts := s.checkouts - 1 } ∧
          (∀ r', r' ≠ r → u.room r' = s.room r') ∧
          u.room r = { freed.room r with
            occupancy := .vacant, balance := 0, creditLimit := 0, barred := false, desk := false, outTime := none
            lamp := (u.room r).lamp }))

/-! ## Lamps (Chapter 7) -/

/-- HOOK sets or clears the OFFHOOK source of the room that holds the extension and nothing else. LAMP_SENSE: OK clears the
sense-failure count; OPEN and SHORT on a lit lamp raise it, held at 8, and at the class threshold set the FAULT latch and place
LAMP_FAULT when it was clear, and on a lamp not lit do nothing; ABSENT sets the absent flag, makes the target none and takes
the room out of the lamp order queue. An extension not found changes nothing. -/
def Obligations.HookAndSenseEvents : Prop :=
  ∀ (x : Nat) (off : Bool) (s : State), s.resetLow = false → x ≤ 999999 →
    (s.lookup x = none → exec (.hook x off) s = .next s ∧ ∀ res, exec (.lampSense x res) s = .next s) ∧
    (∀ r, s.lookup x = some r →
      let y := s.room r
      let lit := y.lamp.ordered = some .steady ∨ y.lamp.ordered = some .slow ∨ y.lamp.ordered = some .fast
      let count := min (y.lamp.failures + 1) 8
      let latches := (s.classOf r).faultThreshold ≤ count ∧ y.lamp.fault = false
      exec (.hook x off) s =
        .next { s with rooms := s.rooms.set r { y with lamp := { y.lamp with offHook := off } } } ∧
      exec (.lampSense x .ok) s =
        .next { s with rooms := s.rooms.set r { y with lamp := { y.lamp with failures := 0 } } } ∧
      exec (.lampSense x .absent) s =
        .next { s with
                rooms := s.rooms.set r { y with lamp := { y.lamp with absent := true, queued := false, target := none } }
                lamps := { s.lamps with queue := s.lamps.queue.filter (· ≠ r) } } ∧
      ∀ res, res = .openLine ∨ res = .short →
        (¬lit → exec (.lampSense x res) s = .next s) ∧
        (lit → ¬latches →
          exec (.lampSense x res) s =
            .next { s with rooms := s.rooms.set r { y with lamp := { y.lamp with failures := count } } }) ∧
        (lit → latches → s.link.queue.length < 64 →
          exec (.lampSense x res) s =
            .next { s with rooms := s.rooms.set r { y with lamp := { y.lamp with failures := count, fault := true } }
                           attention := s.attention ||| attentionBit .lampFault
                           link := { s.link with queue := s.link.queue ++
                             (if s.attention = 0 then [.attention] else []) } }))

/-- A sweep, its number one above the sweep count. Its shut test comes first: a lamp with a shutdown source is shut, and one
with none is restarted under AUTO and left as it is under MANUAL; each room whose shut field changes is evaluated, in index
order by the model's choice (log entry 11). The rooms of the lamp order queue are then taken from its head: those that need no
order leave the queue, those held off wait for its end, and the others are ordered in LAMP_ORDER frames of up to 14 rooms,
three frames at the most, each admitted when 32 entries are free, and recorded as ordered; the first frame refused puts its
rooms back at the head and ends the taking. A sense turn with no frame refused is followed by its sense query. So with at most
14 rooms in the queue and 32 entries free every room due is ordered in one frame, and with fewer than 32 entries free and every
room due the queue stays and nothing is sent. A sweep that no tick has begun does nothing. That SWEEP is a step of its own
after the tick that begins it is the model's (log entries 4 and 31). -/
def Obligations.SweepsOrderLamps : Prop :=
  ∀ s : State, s.resetLow = false →
    (s.lamps.due = false → exec .sweep s = .next s) ∧
    (s.lamps.due = true →
      let shut (r : RoomIx) : Bool := (s.room r).lamp.offHook || (s.room r).lamp.fault || (s.room r).lamp.maint ||
        ((s.classOf r).lampManual && (s.room r).lamp.shut)
      let flipped := (List.finRange 2048).filter fun r => shut r != (s.room r).lamp.shut
      let tested := flipped.foldl
        (fun z r => evaluateLamp r (z.setRoom r { z.room r with lamp := { (z.room r).lamp with shut := shut r } })) s
      exec .sweep s = exec .sweep tested ∧ ∀ r, (tested.room r).lamp.shut = shut r) ∧
    (s.lamps.due = true →
      (∀ r, (s.room r).lamp.shut = if (s.room r).lamp.offHook ∨ (s.room r).lamp.fault ∨ (s.room r).lamp.maint then true
        else (s.classOf r).lampManual && (s.room r).lamp.shut) →
      s.lamps.queue.Nodup →
      let number := (s.lamps.sweeps + 1) % 4294967296
      let needs (r : RoomIx) := (s.room r).lamp.target ≠ none ∧ (s.room r).lamp.target ≠ (s.room r).lamp.ordered
      let held (r : RoomIx) := ∃ k, (s.room r).lamp.orderSweep = some k ∧
        (number + 4294967296 - k) % 4294967296 ≤ s.lamps.holdOff
      let order (r : RoomIx) := ((s.room r).extension.getD 0, (s.room r).lamp.target.getD .off)
      (∃ (t u : State) (pre post due off : List RoomIx) (j : Nat) (refused : Bool), exec .sweep s = .next t ∧
        s.lamps.queue = pre ++ post ∧
        List.Sublist due pre ∧ (∀ r ∈ pre, r ∈ due ↔ needs r ∧ ¬held r) ∧
        List.Sublist off pre ∧ (∀ r ∈ pre, r ∈ off ↔ needs r ∧ held r) ∧
        (1 ≤ j → s.link.queue.length + j ≤ 33) ∧
        (refused = false → due.length ≤ 14 * j ∧ 14 * j < due.length + 14 ∧
          (due.length = 42 ∧ pre.getLast? = due.getLast? ∨ due.length < 42 ∧ post = [])) ∧
        (refused = true → j < 3 ∧ 32 < s.link.queue.length + j ∧ 14 * j < due.length ∧
          (due.length = 14 * j + 14 ∧ pre.getLast? = due.getLast? ∨ due.length < 14 * j + 14 ∧ post = [])) ∧
        u = { s with rooms := u.rooms
                     lamps := { s.lamps with due := false, sweeps := number, queue := due.drop (14 * j) ++ post ++ off }
                     link := { s.link with queue := s.link.queue ++
                       ((List.range j).map fun i => .lampOrder (((due.drop (14 * i)).take 14).map order)) } } ∧
        (∀ r, u.room r =
          if r ∈ due.take (14 * j) then
            { s.room r with lamp := { (s.room r).lamp with
              queued := false, ordered := (s.room r).lamp.target, orderSweep := some number } }
          else if r ∈ pre ∧ ¬needs r then { s.room r with lamp := { (s.room r).lamp with queued := false } }
          else s.room r) ∧
        if number % s.lamps.senseInterval = 0 ∧ refused = false then SenseQueried u t else t = u) ∧
      (number % s.lamps.senseInterval ≠ 0 → s.lamps.queue.length ≤ 14 → s.link.queue.length ≤ 32 →
        ∃ (t : State) (ordered : List RoomIx), exec .sweep s = .next t ∧
          List.Sublist ordered s.lamps.queue ∧ (∀ r ∈ s.lamps.queue, r ∈ ordered ↔ needs r ∧ ¬held r) ∧
          t = { s with rooms := t.rooms
                       lamps := { s.lamps with due := false, sweeps := number, queue := t.lamps.queue }
                       link := { s.link with queue := s.link.queue ++
                         (if ordered = [] then [] else [.lampOrder (ordered.map order)]) } } ∧
          List.Sublist t.lamps.queue s.lamps.queue ∧
          (∀ r ∈ s.lamps.queue, r ∈ t.lamps.queue ↔ needs r ∧ held r) ∧
          ∀ r, t.room r =
            if r ∈ ordered then
              { s.room r with lamp := { (s.room r).lamp with
                queued := false, ordered := (s.room r).lamp.target, orderSweep := some number } }
            else if r ∈ s.lamps.queue ∧ ¬needs r then
              { s.room r with lamp := { (s.room r).lamp with queued := false } }
            else s.room r) ∧
      (32 < s.link.queue.length → s.lamps.queue ≠ [] → (∀ r ∈ s.lamps.queue, needs r ∧ ¬held r) →
        exec .sweep s = .next { s with lamps := { s.lamps with due := false, sweeps := number } }))

/-- The sense query of a sense turn with no order to send: the rooms queried are loaded, present and lit, at most 14,
taken in index order from the sense cursor with wrapping, none of them passed over, and the cursor moves to the index
after the last; with no such room, or fewer than 32 entries free, no query is built and the cursor stays. The sweep is a
step of its own (log entries 4 and 31). -/
def Obligations.SenseQueriesWalkTheTable : Prop :=
  ∀ s : State, s.resetLow = false → s.lamps.due = true → s.lamps.queue = [] →
    (∀ r, (s.room r).lamp.shut = if (s.room r).lamp.offHook ∨ (s.room r).lamp.fault ∨ (s.room r).lamp.maint then true
      else (s.classOf r).lampManual && (s.room r).lamp.shut) →
    let number := (s.lamps.sweeps + 1) % 4294967296
    let counted : State := { s with lamps := { s.lamps with due := false, sweeps := number } }
    let senseable (r : RoomIx) := (s.room r).loaded = true ∧ (s.room r).lamp.absent = false ∧
      ((s.room r).lamp.ordered = some .steady ∨ (s.room r).lamp.ordered = some .slow ∨
        (s.room r).lamp.ordered = some .fast)
    let distance (r : RoomIx) := (r.val + 2048 - s.lamps.cursor.val) % 2048
    number % s.lamps.senseInterval = 0 →
    ((∀ r, ¬senseable r) ∨ 32 < s.link.queue.length → exec .sweep s = .next counted) ∧
    ((∃ r, senseable r) → s.link.queue.length ≤ 32 →
      ∃ (l : List RoomIx) (last : RoomIx), l.getLast? = some last ∧ l.length ≤ 14 ∧ (∀ r ∈ l, senseable r) ∧
        l.Pairwise (fun a b => distance a < distance b) ∧
        (∀ r, senseable r → r ∉ l → l.length = 14 ∧ distance last < distance r) ∧
        exec .sweep s =
          .next { counted with
                  lamps := { counted.lamps with cursor := Fin.ofNat 2048 (last.val + 1) }
                  link := { s.link with queue :=
                    s.link.queue ++ [.senseQuery (l.map fun r => (s.room r).extension.getD 0)] } })

/-- LAMP_FORCE sets or clears the MAINT source alone. LAMP_RESUME is refused with BUSY under MANUAL restart with the telephone
off-hook; else it clears MAINT, FAULT, the sense-failure count and the absent flag, unshuts the lamp when no source is left,
and evaluates the room. LAMP_RESYNC, outside MOUNTING, makes every last ordered state UNKNOWN and evaluates every room, so that
each loaded, present room not queued joins the lamp order queue in index order. -/
def Obligations.LampCommands : Prop :=
  (∀ (tag a b f : Octet) (s : State) (r : RoomIx), s.ready → s.service ≠ .mounting → field16 a b = r.val →
    (s.room r).loaded = true →
    let l := (s.room r).lamp
    (f.toNat ≤ 1 →
      exec (.lampForce tag [a, b, f]) s =
        .next { s with rooms := s.rooms.set r { s.room r with lamp := { l with maint := decide (f.toNat = 1) } }
                       link := s.link.replied tag .ok [] }) ∧
    ((s.classOf r).lampManual = true → l.offHook = true →
      exec (.lampResume tag [a, b]) s = .next (s.refused tag .busy)) ∧
    ((s.classOf r).lampManual = false ∨ l.offHook = false →
      exec (.lampResume tag [a, b]) s =
        .next { evaluateLamp r (s.setRoom r { s.room r with lamp :=
                  { l with maint := false, fault := false, failures := 0, absent := false
                           shut := if l.offHook = true then l.shut else false } }) with
                link := s.link.replied tag .ok [] })) ∧
  ∀ (tag : Octet) (s : State), s.ready →
    (s.service = .mounting → exec (.lampResync tag []) s = .next (s.refused tag .badState)) ∧
    (s.service ≠ .mounting →
      ∃ t, exec (.lampResync tag []) s = .next t ∧
        t = { s with rooms := t.rooms, lamps := { s.lamps with queue := t.lamps.queue }, link := s.link.replied tag .ok [] } ∧
        (∀ r, t.room r = (evaluateLamp r (s.setRoom r
          { s.room r with lamp := { (s.room r).lamp with ordered := none } })).room r) ∧
        t.lamps.queue = s.lamps.queue ++ (List.finRange 2048).filter fun r =>
          (s.room r).loaded && !(s.room r).lamp.absent && !(s.room r).lamp.queued)

/-! ## Voice channels and speech (Chapters 3 and 4) -/

/-- A DIVERT is refused with SLOT_DONE REFUSED_STATE outside IN_SERVICE, else REFUSED_SLOT for a slot above 125, bound, or
mapped to a trunk, else REFUSED_BUSY with no channel FREE; nothing else changes, and a SLOT_DONE dropped for want of an entry
places OUTBOUND_FULL. -/
def Obligations.DivertsRefused : Prop :=
  ∀ (slot : Octet) (x : Nat) (p : Purpose) (s : State), s.resetLow = false →
    let busySlot := 125 < slot.toNat ∨
      ∃ k : Fin 126, k.val = slot.toNat ∧ (s.highway.bindings[k] ≠ none ∨ ∃ t : TrunkIx, (s.trunk t).slot = some k)
    let refused (o : SlotOutcome) : State :=
      if s.link.queue.length < 64 then
        { s with link := { s.link with queue := s.link.queue ++ [.slotDone slot o] } }
      else { s with attention := s.attention ||| attentionBit .outboundFull }
    (s.service ≠ .inService → exec (.divert slot x p) s = .next (refused .refusedState)) ∧
    (s.service = .inService → busySlot → exec (.divert slot x p) s = .next (refused .refusedSlot)) ∧
    (s.service = .inService → ¬busySlot → (∀ c, (s.chan c).state ≠ .free) →
      exec (.divert slot x p) s = .next (refused .refusedBusy))

/-- A DIVERT granted the lowest-numbered FREE channel: the slot is bound, the channel takes its values at grant, and the room
found decides the dialogue's first state and play list (deposit admission with STORE_FULL placed when the store has no room,
the announcement of a retrieval, the notice of the last denial). The prompts that come to the head of the list with no
directory entry are removed and PROMPT_MISSING is placed; the channel's ring and decoder start on the first item left, and no
other channel, room or message changes. A list that empties so ends at once: CLOSING with SLOT_DONE COMPLETED and the channel
FREE, GREET with the recording, ANNOUNCE with the choice of the first message. That the attention kinds are placed before the
SLOT_DONE is offered is the model's reading (log entry 12). -/
def Obligations.DivertsGranted : Prop :=
  ∀ (k : Fin 126) (x : Nat) (p : Purpose) (c : ChannelIx) (s : State), s.resetLow = false → s.service = .inService →
    s.highway.bindings[k] = none → (∀ t : TrunkIx, (s.trunk t).slot ≠ some k) → (s.chan c).state = .free →
    (∀ c', c' < c → (s.chan c').state ≠ .free) → s.link.queue.length < 63 → x ≤ 999999 →
    let close (l : List PlayItem) : ChanState × List PlayItem := (.closing, l ++ [pGoodbye])
    let noRoom := 8192 ≤ s.store.messages.length ∨ s.store.free.length < s.store.reserve
    let full := ∃ r, s.lookup x = some r ∧ p = .deposit ∧ (s.room r).occupancy = .occupied ∧
      (s.room r).mailbox.length < (s.classOf r).mailboxLimit ∧ noRoom
    let plan : ChanState × List PlayItem :=
      match s.lookup x with
      | none => close [pNotInService]
      | some r =>
        let y := s.room r
        let desk := if y.barred = true ∨ y.desk = true then [pContactDesk] else []
        let kept := y.mailbox.length - y.newCount
        match p with
        | .deposit =>
          if y.occupancy ≠ .occupied then close [pNotInService]
          else if (s.classOf r).mailboxLimit ≤ y.mailbox.length then close [pMailboxFull]
          else if noRoom then close [pStoreFull]
          else (.greet, pGreeting :: spoken x ++ [pTone])
        | .retrieve =>
          if y.occupancy ≠ .occupied then close [pNotInService]
          else if y.newCount = 0 ∧ kept = 0 then close (desk ++ [pNoMessages])
          else (.announce, desk ++ [pYouHave] ++ spokenCount y.newCount ++ [pNewMessages] ++ spokenCount kept ++
            [pKeptMessages])
        | .notice =>
          match y.denial with
          | .vacant => close [pNotInService]
          | .barredDigits => close [pCallDenied]
          | .credit => close [pCreditLimit]
          | .capacity => close [pTryLater]
          | .none => close []
    let list := plan.2.dropWhile s.missing
    let misses := (plan.2.head?).any s.missing
    let begun : State :=
      { s with highway := { s.highway with bindings := s.highway.bindings.set k (some c) }
               attention := s.attention ||| (if full then attentionBit .storeFull else 0) |||
                 if misses then attentionBit .promptMissing else 0
               link := { s.link with queue := s.link.queue ++
                 if (full ∨ misses = true) ∧ s.attention = 0 then [.attention] else [] } }
    let channel : Channel :=
      { state := plan.1, kind := some p, slot := some k, extension := some x, room := s.lookup x, playList := list,
        keyHolder := none, timer := none, repeats := 0, current := none, kept := false, last := none, reading := false,
        callerPresent := true }
    (list ≠ [] →
      ∃ t, exec (.divert (BitVec.ofNat 8 k.val) x p) s = .next t ∧
        t = { begun with channels := t.channels, rings := t.rings, coder := { s.coder with decoders := t.coder.decoders } } ∧
        t.chan c = channel ∧
        (t.ring c).item = list.head? ∧ (t.decoder c).inPlay = .nothing ∧ (t.decoder c).position = 0 ∧
        ∀ c', c' ≠ c → t.chan c' = s.chan c' ∧ t.ring c' = s.ring c' ∧ t.decoder c' = s.decoder c') ∧
    (list = [] → plan.1 = .closing →
      exec (.divert (BitVec.ofNat 8 k.val) x p) s =
        .next { begun with
                highway := s.highway
                channels := s.channels.set c { channel with state := .free, slot := none }
                rings := s.rings.set c (s.ring c).leave
                link := { begun.link with queue :=
                  begun.link.queue ++ [.slotDone (BitVec.ofNat 8 k.val) .completed] } }) ∧
    (∀ r, list = [] → plan.1 = .greet → s.lookup x = some r → s.store.nextSerial ≠ 4294967295 →
      ∃ t, exec (.divert (BitVec.ofNat 8 k.val) x p) s = .next t ∧
        t = { begun with channels := t.channels, rings := t.rings, coder := { s.coder with encoders := t.coder.encoders }
                         rooms := s.rooms.set r { s.room r with recordings := (s.room r).recordings + 1 }
                         store := t.store } ∧
        t.chan c = { channel with state := .record, current := some s.store.nextSerial } ∧
        (t.encoder c).state = .running ∧ (t.ring c).item = none) ∧
    (∀ r n m kept, list = [] → plan.1 = .announce → s.lookup x = some r →
      begun.Chooses channel (s.room r).mailbox (some n) kept → s.message n = some m → m.urgent = false →
      exec (.divert (BitVec.ofNat 8 k.val) x p) s =
        .next (State.goesOn c (some n) kept (begun.withChan c channel)))

/-- SLOT_CLEAR for a slot bound to no channel, or above 125, does nothing; for a channel in FLUSH it makes caller present no;
in RECORD it ends the recording with an empty list and the caller absent, with two programs outstanding and nothing more to
raise or with the requests then due (R84) and the test of the flush end; in any other state the channel enters FREE: a reader
leaves its message, its play list, key holder and timer are emptied and its slot unbound, and its other fields keep their
values, caller present among them by the model's choice (log entry 43). In SUSPENDING the drain is tested (log entry 29). A
recording with no page programmed that the flush end frees is followed by the store-low test, which is the model's reading (log
entry 14). -/
def Obligations.SlotsCleared : Prop :=
  ∀ s : State, s.resetLow = false →
    (∀ slot : Octet, 125 < slot.toNat → exec (.slotClear slot) s = .next s) ∧
    ∀ k : Fin 126,
      let clear := Instr.slotClear (BitVec.ofNat 8 k.val)
      (s.highway.bindings[k] = none → exec clear s = .next s) ∧
      (∀ c, s.highway.bindings[k] = some c → (s.chan c).slot = some k →
        let x := s.chan c
        let heard := x.state = .greet ∨ x.state = .announce ∨ x.state = .replay ∨ x.state = .listen ∨ x.state = .closing
        (x.state = .flush →
          exec clear s = .next { s with channels := s.channels.set c { x with callerPresent := false } }) ∧
        (x.state = .record → 2 ≤ (s.ring c).outPrograms → (s.ring c).recorded ≠ [] →
          exec clear s =
            .next { s with channels := s.channels.set c { x with state := .flush, playList := [], callerPresent := false }
                           rings := s.rings.set c (s.ring c).finish
                           coder := { s.coder with encoders := s.coder.encoders.set c (s.encoder c).finish } }) ∧
        (x.state = .record →
          exec clear s = .next (State.drains (flushTest c (raisePrograms c (s.endsRecording c [] true))))) ∧
        (x.state ≠ .free → x.state ≠ .flush → x.state ≠ .record → x.reading = false →
          exec clear s =
            .next (State.drains
              { s with channels := s.channels.set c
                         { x with state := .free, playList := [], keyHolder := none, timer := none, slot := none
                                  reading := false, current := none }
                       rings := s.rings.set c (s.ring c).leave
                       highway := { s.highway with bindings := s.highway.bindings.set k none } })) ∧
        (heard → x.reading = false ∨ s.marksBlank → exec clear s = .next (s.frees c).drains) ∧
        (∀ n m, heard → x.reading = true → x.current = some n → s.message n = some m → m.state ≠ .deleting →
          ∃ t, exec clear s = .next t ∧ t.message n = some { m with readers := m.readers - 1 } ∧
            t.chan c = { x with state := .free, playList := [], keyHolder := none, timer := none, slot := none
                                reading := false, current := none } ∧
            t.highway.bindings[k] = none ∧ t.store.marks = s.store.marks ∧ ∀ c', c' ≠ c → t.chan c' = s.chan c'))

/-- A KEY, by the state of the channel bound to its slot: held in FLUSH and CLOSING when the key holder is empty and discarded
when it is not; in GREET `#` replaces a list that is not at TONE by [TONE] and other keys do nothing; in ANNOUNCE any key skips
to the choice of the next message; in RECORD `*` makes the message urgent, `#` ends the recording with [MESSAGE_SAVED, GOODBYE]
and digits do nothing; in REPLAY and LISTEN `#` leaves the message and closes with [GOODBYE] (its reader count falling), `1`
replays the message, `2` makes it HEARD, leaves it and goes on to the next choice, `3` hands it to the delete path, leaves it
and announces [DELETED], and the keys without a meaning do nothing. A NEW message whose page 14 is not blank becomes HEARD with
no mark queued and FLASH_FAULT placed. Prompts without a directory entry are removed from a list that comes to be played, with
PROMPT_MISSING placed; an emptied [TONE] begins the recording, or closes with [STORE_FULL, GOODBYE] when no message can be
created, an emptied [DELETED] chooses the next message, and a closing list that empties ends with SLOT_DONE COMPLETED and the
channel FREE. That an attention kind is placed before the SLOT_DONE is offered is the model's reading (log entry 12). A slot
bound to no channel, or above 125, discards the key. That the store-low test also follows key `3` on a message with no page
programmed is the model's reading (log entry 14). In SUSPENDING the drain is tested (log entry 29). -/
def Obligations.KeysTaken : Prop :=
  ∀ (key : Key) (s : State), s.resetLow = false →
    (∀ slot : Octet, 125 < slot.toNat → exec (.key slot key) s = .next s) ∧
    ∀ k : Fin 126,
      let press := Instr.key (BitVec.ofNat 8 k.val) key
      (s.highway.bindings[k] = none → exec press s = .next s) ∧
      (∀ c, s.highway.bindings[k] = some c →
        let x := s.chan c
        let idle := s.withChan c { x with timer := none }
        let may := s.prompted ∨ s.link.queue.length < 63
        (x.state = .flush ∨ x.state = .closing →
          exec press s =
            .next { s with channels := s.channels.set c
                             { x with keyHolder := if x.keyHolder = none then some key else x.keyHolder } }) ∧
        (x.state = .greet → key ≠ .hash ∨ x.playList.head? = some pTone → exec press s = .next s) ∧
        (x.state = .greet → key = .hash → x.playList.head? ≠ some pTone →
          (s.missing pTone = false →
            ∃ t, exec press s = .next t ∧
              t = { s with channels := s.channels.set c { x with playList := [pTone] }, rings := t.rings
                           coder := { s.coder with decoders := t.coder.decoders } } ∧
              (t.ring c).item = some pTone ∧ ∀ c', c' ≠ c → t.ring c' = s.ring c' ∧ t.decoder c' = s.decoder c') ∧
          (∀ r, s.missing pTone = true → x.room = some r → s.link.queue.length < 63 →
            let gone := s.placed .promptMissing
            (s.store.messages.length < 8192 → s.store.nextSerial ≠ 4294967295 →
              exec press s = .next (gone.records c r)) ∧
            (8192 ≤ s.store.messages.length ∨ s.store.nextSerial = 4294967295 → x.reading = false ∨ s.marksBlank →
              exec press s = .next (State.drains ((gone.placed .storeFull).closesWith c [pStoreFull, pGoodbye]))))) ∧
        (∀ r found kept, x.state = .announce → x.room = some r → s.Chooses x (s.room r).mailbox found kept →
          s.prompted ∨ s.link.queue.length < 63 ∧ (found = none → x.reading = false ∨ s.marksBlank) →
          exec press s = .next (State.drains (s.goesOn c found kept))) ∧
        (x.state = .record → ∀ d, key = .digit d → exec press s = .next s) ∧
        (∀ n, x.state = .record → key = .star → x.current = some n →
          exec press s =
            .next { s with
                    store := { s.store with
                      messages := s.store.messages.map fun m => if m.serial = n then { m with urgent := true } else m } }) ∧
        (x.state = .record → key = .hash →
          exec press s =
            .next (State.drains (flushTest c (raisePrograms c (s.endsRecording c [pMessageSaved, pGoodbye] false))))) ∧
        (x.state = .record → key = .hash → 2 ≤ (s.ring c).outPrograms → (s.ring c).recorded ≠ [] →
          exec press s =
            .next { s with channels := s.channels.set c { x with state := .flush, playList := [pMessageSaved, pGoodbye] }
                           rings := s.rings.set c (s.ring c).finish
                           coder := { s.coder with encoders := s.coder.encoders.set c (s.encoder c).finish } }) ∧
        (∀ n, x.state = .replay ∨ x.state = .listen → x.current = some n →
          (key = .star ∨ (∃ d : Fin 10, key = .digit d ∧ (d = 0 ∨ 3 < d)) → exec press s = .next s) ∧
          (key = .digit 1 →
            ∃ t, exec press s = .next t ∧
              t = { s with channels := s.channels.set c { x with state := .replay, timer := none, playList := [.message n] }
                           rings := t.rings, coder := { s.coder with decoders := t.coder.decoders } } ∧
              (t.ring c).item = some (.message n) ∧ (t.decoder c).position = 0 ∧
              ∀ c', c' ≠ c → t.ring c' = s.ring c' ∧ t.decoder c' = s.decoder c') ∧
          (∀ m, key = .digit 2 → s.message n = some m → m.state = .new → m.blank14 = false → s.link.queue.length < 64 →
            let heard : State := idle.madeHeard n
            let failed : State := State.placed { heard with store := { heard.store with marks := s.store.marks } } .flashFault
            let left := failed.leaves c
            ∀ r found kept, x.room = some r → left.Chooses (left.chan c) (left.room r).mailbox found kept → may →
              exec press s = .next (State.drains (left.goesOn c found kept))) ∧
          (key = .digit 2 → s.marksBlank →
            let left := (idle.madeHeard n).leaves c
            ∀ r found kept, x.room = some r → left.Chooses (left.chan c) (left.room r).mailbox found kept → may →
              exec press s = .next (State.drains (left.goesOn c found kept))) ∧
          (∀ m, key = .digit 3 → s.message n = some m → s.marksBlank → s.link.queue.length < 64 →
            let gone := if m.state = .new ∨ m.state = .heard then evaluateLamp m.room (idle.deletes n) else idle.deletes n
            let left := gone.leaves c
            let told := State.plays c [pDeleted] (left.withChan c { left.chan c with state := .announce })
            (s.missing pDeleted = false → exec press s = .next told) ∧
            (∀ r found kept, s.missing pDeleted = true → x.room = some r →
              told.Chooses (told.chan c) (told.room r).mailbox found kept → s.link.queue.length < 63 →
              exec press s = .next (State.drains (told.goesOn c found kept)))) ∧
          (key = .hash → s.marksBlank → may →
            exec press s = .next (State.drains (State.closesWith c [pGoodbye] (idle.leaves c)))) ∧
          (∀ m, key = .hash → x.reading = true → s.message n = some m → m.state ≠ .deleting → s.missing pGoodbye = false →
            ∃ t, exec press s = .next t ∧
              t = { s with channels := s.channels.set c
                             { x with state := .closing, timer := none, playList := [pGoodbye], reading := false
                                      current := none }
                           rings := t.rings, coder := { s.coder with decoders := t.coder.decoders }
                           store := { s.store with messages := t.store.messages } } ∧
              t.message n = some { m with readers := m.readers - 1 } ∧ (t.ring c).item = some pGoodbye)))

/-- The end of a speech frame of a recording: a frame whose peak is at or below a threshold that is not 0 is silent, its
nibbles are discarded, the quantiser returns to the frame-start values and the pending silence count rises; another frame is
offered to the ring as one VOICE stream frame of 83 octets, after the pending silence as runs of 127 frames and a remainder:
each is accepted whole when there is room, and the accepted VOICE frame is counted. Either way the frame count rises and the
next frame begins; short of its 160th sample nothing happens but the test of the drain in SUSPENDING (log entry 29). The
requests due are raised after each (R84): the oldest FULL page is requested with the next page of the message's last block or
page 0 of a new one, and where no block can be given the recording is exhausted. At the length limit the recording ends with
[TIME_LIMIT, GOODBYE], and at the no-voice limit, the length limit not being reached, with [MESSAGE_SAVED, GOODBYE]. The guards
by the sample count and the limits are the model's (log entries 4 and 5), and so are the request ages and the ring's exhausted
mark (log entry 31), the cause where both hold (log entry 35), and the store-low test when the flush end frees a recording with
no page programmed (log entry 14). -/
def Obligations.SpeechFramesEnd : Prop :=
  (∀ (c : ChannelIx) (s : State), s.resetLow = false → (s.chan c).state = .record →
    let e := s.encoder c
    let silent := s.coder.threshold ≠ 0 ∧ e.peak ≤ s.coder.threshold
    let ended (q : Quantiser) : Encoder :=
      { e with quant := q, start := q, samples := 0, peak := 0, nibbles := [], frames := e.frames + 1 }
    let frame := BitVec.ofNat 8 (128 + e.start.i) :: octetsInt16 e.start.p ++ packNibbles e.nibbles
    let runs : List (List Octet) :=
      List.replicate (e.pendingSilence / 127) [0x7F] ++
        if e.pendingSilence % 127 = 0 then [] else [[BitVec.ofNat 8 (e.pendingSilence % 127)]]
    let offered (voice : Nat) (z : State) (l : List Octet) : State :=
      let counted : Encoder := { z.encoder c with voiceFrames := (z.encoder c).voiceFrames + voice }
      if (z.ring c).ended = false ∧ l.length ≤ (z.ring c).room then
        raisePrograms c
          { z with rings := z.rings.set c (l.foldl Ring.add (z.ring c))
                   coder := { z.coder with encoders := z.coder.encoders.set c counted } }
      else z
    (e.nibbles.length = 160 → frame.length = 83) ∧
    (e.samples < 160 → exec (.speechFrameEnd c) s = .next s) ∧
    (160 ≤ e.samples → e.state = .running → silent →
      exec (.speechFrameEnd c) s =
        .next { s with
                coder := { s.coder with
                  encoders := s.coder.encoders.set c { ended e.start with pendingSilence := e.pendingSilence + 1 } } }) ∧
    (160 ≤ e.samples → e.state = .running → ¬silent → e.pendingSilence = 0 → 2 ≤ (s.ring c).outPrograms →
      ((s.ring c).ended = false → frame.length ≤ (s.ring c).room →
        exec (.speechFrameEnd c) s =
          .next { s with rings := s.rings.set c (frame.foldl Ring.add (s.ring c))
                         coder := { s.coder with
                                    encoders := s.coder.encoders.set c
                                      { ended e.quant with voiceFrames := e.voiceFrames + 1 } } }) ∧
      ((s.ring c).ended = true ∨ (s.ring c).room < frame.length →
        exec (.speechFrameEnd c) s =
          .next { s with coder := { s.coder with encoders := s.coder.encoders.set c (ended e.quant) } })) ∧
    (160 ≤ e.samples → e.state = .running → ¬silent →
      let begun : State :=
        { s with coder := { s.coder with encoders := s.coder.encoders.set c { ended e.quant with pendingSilence := 0 } } }
      exec (.speechFrameEnd c) s = .next (State.drains (offered 1 (runs.foldl (offered 0) begun) frame))) ∧
    (e.state = .running →
      let ends (list : List PlayItem) : State :=
        State.drains (flushTest c (raisePrograms c (s.endsRecording c list false)))
      let voiced := e.noVoiceLimit = 0 ∨ e.pendingSilence < e.noVoiceLimit
      (e.lengthLimit ≤ e.frames →
        exec (.maxLengthReached c) s = .next (ends [pTimeLimit, pGoodbye]) ∧ exec (.noVoiceTimeout c) s = .next s) ∧
      (e.frames < e.lengthLimit → exec (.maxLengthReached c) s = .next s ∧
        (¬voiced → exec (.noVoiceTimeout c) s = .next (ends [pMessageSaved, pGoodbye])) ∧
        (voiced → exec (.noVoiceTimeout c) s = .next s)) ∧
      (2 ≤ (s.ring c).outPrograms → (s.ring c).recorded ≠ [] → ∀ list, ends list = s.endsRecording c list false))) ∧
  (∀ (c : ChannelIx) (s : State), s.resetLow = false → (s.chan c).state ≠ .record ∨ (s.encoder c).state ≠ .running →
    ∀ i ∈ [Instr.speechFrameEnd c, .maxLengthReached c, .noVoiceTimeout c], exec i s = .next s.drains) ∧
  ∀ (c : ChannelIx) (n : Nat) (m : Message) (z : State), (z.chan c).current = some n → z.message n = some m →
    z.link.queue.length < 63 →
    let g := z.ring c
    let full := g.recorded.countP fun p => decide (p.status = .full)
    let due := g.outPrograms = 0 ∧ 1 ≤ full ∨ g.outPrograms = 1 ∧ (if g.ended then 1 else 2) ≤ full
    let more := g.outPrograms = 0 ∧ (if g.ended then 2 else 3) ≤ full
    let can (m : Message) (z : State) := m.needsBlock → z.hasBlock m
    (¬due → raisePrograms c z = z) ∧
    (due → ¬more → can m z → raisePrograms c z = z.requests c m) ∧
    (∀ m', more → can m z → (z.requests c m).message n = some m' → can m' (z.requests c m) →
      raisePrograms c z = (z.requests c m).requests c m') ∧
    (due → ¬can m z → z.prompted → z.marksBlank → (z.chan c).reading = false →
      ((z.chan c).callerPresent = true → (z.chan c).state = .record ∨ (z.chan c).playList ≠ []) →
      raisePrograms c z = (z.exhausts c).flushTests c)

/-- A bound slot in a highway frame. Its channel's encoder takes the octet's linear value in RECORD while it is running short
of a frame end and its limits, forming the nibble of the difference from the predictor; the slot carries the silence code while
the channel has no item; and an item's decoder gives the silence code of a run, the nearest code of its predictor in a VOICE
frame, or the silence code while it waits for an octet that has not arrived. Stream octets move the position on, the pages
passed leave the ring, and reads are raised. The item ends at END, a reserved tag, or the extent, and the list goes on with the
next item, prompts without a directory entry removed and PROMPT_MISSING placed; an emptied list records in GREET, chooses the
next message in ANNOUNCE, makes the message HEARD and plays the menu in REPLAY, starts the menu timer in LISTEN, and frees the
channel with SLOT_DONE COMPLETED in CLOSING. The bound slots of a frame act in slot order, then the drain is tested, the octets
of slots 126 and 127 are taken, and what they deliver is handed over after the encoder steps due. The guards of the sample are
the model's (log entries 4 and 5), and so are the order of slots 126 and 127, with no offer of a waiting REPLY between them,
and of the steps due (log entries 7, 9, 38 and 39), the HOUT record (log entry 25), the frame counter's 8,000 (log entry 5) and
its advance after a SET_CLOCK of slot 127 (log entry 34), the sample before the output code (log entry 10), a VOICE header read
whole (log entry 16), lastOctet (log entry 31), the drain test (log entry 29) and, where a step due frees a recording with no
page programmed, the store-low test (log entry 14). -/
def Obligations.BoundSlotsRecordAndPlay : Prop :=
  (∀ (c : ChannelIx) (o : Octet) (s : State), CodersInRange s →
    let x := s.chan c
    let e := s.encoder c
    let g := s.ring c
    let d := s.decoder c
    let quiet : Octet := s.coder.silence.getD 0xFF
    let carries (code : Octet → Prop) (z : State) : Prop := ∃ v, code v ∧ boundFrame c o s = (v, z)
    let sample := s.coder.expansion[Fin.ofNat 256 o.toNat]
    let diff := sample - e.quant.p
    let nibble := (if diff < 0 then 8 else 0) + min 7 (2 * diff.natAbs / ((4 + e.quant.i % 4) * 2 ^ (e.quant.i / 4)))
    let sampled : Encoder :=
      { e with quant := e.quant.coded nibble, nibbles := e.nibbles ++ [nibble], peak := max e.peak sample.natAbs
               samples := e.samples + 1 }
    let taking := e.state = .running ∧ e.samples < 160 ∧ e.frames < e.lengthLimit ∧
      (e.noVoiceLimit = 0 ∨ e.pendingSilence < e.noVoiceLimit)
    let has (pos : Nat) (v : Octet) : Prop := ∃ data,
      g.items.find? (·.index = pos / 512) = some { index := pos / 512, status := .arrived data } ∧ data[pos % 512]? = some v
    let moved (d' : Decoder) : State :=
      { s with coder := { s.coder with decoders := s.coder.decoders.set c d' }
               rings := s.rings.set c
                 (Ring.raiseReads { g with items := g.items.filter fun p => d'.position < 512 * (p.index + 1) }) }
    let speaks (d' : Decoder) : Prop := carries (NearestCode s.coder.expansion d'.quant.p) (moved d')
    let ending : Prop :=
      (d.inPlay = .nothing ∧ (d.extent ≤ d.position ∨ ∃ v, has d.position v ∧
        (v = 0 ∨ 0xA8 ≤ v.toNat ∨ (0x80 ≤ v.toNat ∧ v.toNat < 0xA8 ∧ d.extent < d.position + 83)))) ∨
      (d.extent ≤ d.position ∧ ∃ n, d.inPlay = .voice (n + 1) ∧ n % 2 = 1)
    let gone := s.withChan c { x with playList := [] }
    let left : State := { gone with rings := s.rings.set c g.leave }
    (x.state = .record → g.item = none →
      (taking →
        carries (· = quiet) { s with coder := { s.coder with encoders := s.coder.encoders.set c sampled } }) ∧
      (¬taking → carries (· = quiet) s)) ∧
    (x.state ≠ .record → g.item = none → carries (· = quiet) s) ∧
    (x.state ≠ .record → g.item ≠ none →
      (∀ n, d.inPlay = .silence (n + 1) →
        carries (· = quiet) (moved { d with inPlay := if n = 0 then .nothing else .silence n })) ∧
      (∀ n, d.inPlay = .voice (n + 1) → n % 2 = 0 →
        speaks { d with quant := d.quant.coded (d.lastOctet.toNat % 16), inPlay := if n = 0 then .nothing else .voice n }) ∧
      (∀ n, d.inPlay = .voice (n + 1) → n % 2 = 1 → d.position < d.extent →
        (∀ v, has d.position v →
          speaks { d with quant := d.quant.coded (v.toNat / 16), position := d.position + 1, lastOctet := v
                          inPlay := .voice n }) ∧
        ((∀ v, ¬has d.position v) → carries (· = quiet) s)) ∧
      (d.inPlay = .nothing → d.position < d.extent →
        ((∀ v, ¬has d.position v) → carries (· = quiet) s) ∧
        (∀ v, has d.position v → v ≠ 0 → v.toNat < 0x80 →
          carries (· = quiet) (moved { d with position := d.position + 1, inPlay := .silence (160 * v.toNat - 1) })) ∧
        (∀ v, has d.position v → 0x80 ≤ v.toNat → v.toNat < 0xA8 → d.position + 83 ≤ d.extent →
          (∀ p1 p0 v', has (d.position + 1) p1 → has (d.position + 2) p0 → has (d.position + 3) v' →
            let q : Quantiser := { p := max (-8192) (min 8191 (fieldInt16 p1 p0)), i := v.toNat - 0x80 }
            speaks { d with quant := q.coded (v'.toNat / 16), position := d.position + 4, lastOctet := v'
                            inPlay := .voice 159 }) ∧
          ((∀ v', ¬(∃ p1 p0, has (d.position + 1) p1 ∧ has (d.position + 2) p0 ∧ has (d.position + 3) v')) →
            carries (· = quiet) s))) ∧
      (ending →
        (x.playList.tail.dropWhile s.missing ≠ [] → s.prompted ∨ s.link.queue.length < 64 →
          carries (· = quiet) (State.plays c x.playList.tail s)) ∧
        (x.playList.tail = [] →
          (∀ r, x.state = .greet → x.room = some r → s.store.messages.length < 8192 →
            s.store.nextSerial ≠ 4294967295 →
            carries (· = quiet) (s.records c r)) ∧
          (∀ r, x.state = .greet → x.room = some r →
            8192 ≤ s.store.messages.length ∨ s.store.nextSerial = 4294967295 → s.prompted → s.link.queue.length < 64 →
            carries (· = quiet) (State.starts c pStoreFull
              ((s.placed .storeFull).withChan c { x with state := .closing, playList := [pStoreFull, pGoodbye] }))) ∧
          (∀ r found kept, x.state = .announce → x.room = some r → s.prompted →
            s.Chooses x (s.room r).mailbox found kept → carries (· = quiet) (s.goesOn c found kept)) ∧
          (∀ n, x.state = .replay → x.current = some n → s.prompted → s.marksBlank →
            carries (· = quiet) (State.starts c pAfterMenu
              ((s.madeHeard n).withChan c { x with state := .listen, repeats := 0, playList := [pAfterMenu] }))) ∧
          (∀ r, x.state = .listen → x.room = some r →
            carries (· = quiet) (left.withChan c { x with playList := [], timer := some (s.classOf r).menuTimeout })) ∧
          (∀ k, x.state = .closing → x.slot = some k → x.reading = false → s.link.queue.length < 64 →
            let done : OutFrame := .slotDone (BitVec.ofNat 8 k.val) .completed
            carries (· = quiet)
              (State.frees c { s with link := { s.link with queue := s.link.queue ++ [done] } })))))) ∧
  (∀ (s : State) (hin : List Octet), s.resetLow = false → s.highway.presence ≠ .lost → hin.length ≤ 128 →
    let bound : List (Fin 126 × ChannelIx) :=
      (List.finRange 126).filterMap fun k => (s.highway.bindings[k]).map fun c => (k, c)
    let begun : State := { s with highway := { s.highway with presence := .present, missing := 0 } }
    let after (l : List (Fin 126 × ChannelIx)) : State :=
      l.foldl (fun z b => (boundFrame b.2 (hin.getD b.1.val 0xFF) z).2) begun
    let spoken := (after bound).drains
    let r126 := spoken.link.framer126.take (hin.getD 126 0xFF)
    let taken126 : State := { spoken with link := { spoken.link with framer126 := r126.1 } }
    let heard : State := r126.2.elim taken126 fun f => snoop f (encodersSettled taken126)
    let sent : State := if hin.length < 128 then heard else heard.sent
    let r127 := sent.link.framer127.take (hin.getD 127 0xFF)
    let taken127 : State := { sent with link := { sent.link with framer127 := r127.1 } }
    let done : State := r127.2.elim taken127 fun f => dispatch f (encodersSettled taken127)
    ∃ t, exec (.highwayFrame hin) s = .next t ∧ (∀ k : Fin 128, t.highway.delay[k] = hin.getD k.val 0xFF) ∧
      t = { done with
            clock := { done.clock with frames := min (done.clock.frames + 1) 8000 }
            highway := { done.highway with delay := t.highway.delay, hout := t.highway.hout } } ∧
      ∀ before k c rest, bound = before ++ (k, c) :: rest → k.val < hin.length →
        t.highway.hout[k.val]? = some (boundFrame c (hin.getD k.val 0xFF) (after before)).1) ∧
  ∀ g : Ring,
    let one (r : Ring) : Ring :=
      let reads := r.items.countP (fun p => decide (p.status = .reserved ∨ p.status = .reading)) + r.held.count .read
      let free := r.size - (r.recorded.length + r.items.length + r.held.length)
      if r.nextItem < r.itemCount ∧ (reads = 0 ∧ 1 ≤ free ∨ reads = 1 ∧ 2 ≤ free) then
        { r with items := r.items ++ [{ index := r.nextItem, status := .reserved }], nextItem := r.nextItem + 1 }
      else r
    g.raiseReads = one (one g)

/-- RESET_CHANNEL: a number above 31 is BAD_ARGUMENT; a FREE channel is left as it is, its encoder's values among that (log
entry 36); a channel in any other state enters FREE, its slot is unbound, its ring's pages are discarded (a read or a program
in progress staying as a held page), its encoder is IDLE with the reset values, and SLOT_DONE RESET precedes the reply. In
RECORD and FLUSH its message takes the delete path first, and a reader's message loses it as a reader. The ring's exhausted
mark is a field of the model (log entry 31), and that the store-low test follows the freeing of a recording with no page
programmed is the model's reading (log entry 14). In SUSPENDING the drain is tested (log entry 29). -/
def Obligations.ChannelReset : Prop :=
  ∀ (tag : Octet) (s : State), s.ready →
    (∀ o : Octet, 31 < o.toNat → exec (.resetChannel tag [o]) s = .next (s.refused tag .badArgument)) ∧
    ∀ c : ChannelIx,
      let x := s.chan c
      let g := s.ring c
      let reports (k : Fin 126) : List OutFrame := [.slotDone (BitVec.ofNat 8 k.val) .reset, .reply tag .ok []]
      (x.state = .free →
        exec (.resetChannel tag [BitVec.ofNat 8 c.val]) s = .next { s with link := s.link.replied tag .ok [] }) ∧
      (∀ k, x.state ≠ .free → x.state ≠ .record → x.state ≠ .flush → x.reading = false → x.slot = some k →
        s.link.queue.length < 63 →
        exec (.resetChannel tag [BitVec.ofNat 8 c.val]) s =
          .next (State.drains
            { s with channels := s.channels.set c
                       { x with state := .free, playList := [], keyHolder := none, timer := none, slot := none
                                current := none }
                     rings := s.rings.set c g.discardReset.leave
                     coder := { s.coder with encoders := s.coder.encoders.set c Encoder.reset }
                     highway := { s.highway with bindings := s.highway.bindings.set k none }
                     link := { s.link with queue := s.link.queue ++ reports k } })) ∧
      (∀ k, x.state ≠ .free → x.slot = some k → s.marksBlank → s.link.queue.length < 62 →
        let gone : State := if x.state = .record ∨ x.state = .flush then x.current.elim s fun n => s.deletes n else s
        let emptied : Ring :=
          { g with recorded := [], ended := false, exhausted := false
                   held := g.held ++ (g.recorded.filter (·.isProgramming)).map fun _ => .program }
        let freed := State.frees c
          { gone with rings := s.rings.set c emptied
                      coder := { s.coder with encoders := s.coder.encoders.set c Encoder.reset } }
        exec (.resetChannel tag [BitVec.ofNat 8 c.val]) s =
          .next (State.drains { freed with link := { freed.link with queue := freed.link.queue ++ reports k } })) ∧
      (∀ k n m, x.state = .record ∨ x.state = .flush → x.slot = some k → x.current = some n → s.message n = some m →
        m.state = .recording → m.blocks = [] → s.link.queue.length < 62 →
        ∃ t, exec (.resetChannel tag [BitVec.ofNat 8 c.val]) s = .next t ∧ (t.chan c).state = .free ∧
          (∀ m' ∈ t.store.messages, m'.serial ≠ n) ∧
          (t.room m.room).recordings = (s.room m.room).recordings - 1 ∧ (t.ring c).recorded = [] ∧
          (t.encoder c).state = .idle ∧ t.highway.bindings[k] = none) ∧
      (∀ k n m, x.state = .replay ∨ x.state = .listen → x.slot = some k → x.reading = true → x.current = some n →
        s.message n = some m → m.state ≠ .deleting → s.link.queue.length < 62 →
        ∃ t, exec (.resetChannel tag [BitVec.ofNat 8 c.val]) s = .next t ∧ (t.chan c).state = .free ∧
          t.message n = some { m with readers := m.readers - 1 } ∧ t.highway.bindings[k] = none)

/-! ## The staging rings, the flash port and the store (Chapters 5 and 6) -/

/-- SET_GEOMETRY in SETUP with every ring size in 2–16, their sum at most 256, both codes in range and the store not mounted:
geometry and ring sizes are loaded together, prompt entries that no longer fit leave, and the load buffer is emptied; each
check that fails refuses it. MOUNT in SETUP with the geometry set and no store mounted replies OK, enters MOUNTING and starts
the mount job; else it is refused with BAD_STATE. -/
def Obligations.GeometryAndMount : Prop :=
  (∀ (tag total area : Octet) (sizes : List Octet) (s : State), s.ready → sizes.length = 32 →
    let set := Instr.setGeometry tag (total :: area :: sizes)
    let sized := (∀ z ∈ sizes, 2 ≤ z.toNat ∧ z.toNat ≤ 16) ∧ (sizes.map (·.toNat)).sum ≤ 256
    let coded := total.toNat ≤ 4 ∧ area.toNat ≤ 3
    (s.service ≠ .setup → exec set s = .next (s.refused tag .badState)) ∧
    (s.service = .setup → ¬sized ∨ ¬coded → exec set s = .next (s.refused tag .badArgument)) ∧
    (s.service = .setup → sized → coded → s.store.mounted = true → exec set s = .next (s.refused tag .badState)) ∧
    (s.service = .setup → sized → coded → s.store.mounted = false →
      ∃ t, exec set s = .next t ∧
        t = { s with rings := t.rings, link := s.link.replied tag .ok []
                     store := { s.store with
                       geometrySet := true, totalBlocks := 4096 * 2 ^ total.toNat, promptBlocks := 64 * 2 ^ area.toNat
                       buffer := LoadBuffer.reset, prompts := t.store.prompts } } ∧
        (∀ c : ChannelIx, t.ring c = { s.ring c with size := (sizes.getD c.val 0).toNat }) ∧
        (∀ (id : PromptId) (e : PromptEntry), t.store.prompts[id] = some e ↔
          s.store.prompts[id] = some e ∧ e.first + e.count ≤ 64 * 2 ^ area.toNat * 16))) ∧
  ∀ (tag : Octet) (s : State), s.ready →
    (s.service ≠ .setup ∨ s.store.geometrySet = false ∨ s.store.mounted = true →
      exec (.mount tag []) s = .next (s.refused tag .badState)) ∧
    (s.service = .setup → s.store.geometrySet = true → s.store.mounted = false →
      exec (.mount tag []) s =
        .next { s with service := .mounting, link := s.link.replied tag .ok []
                       store := { s.store with
                         job := .mount { classes := [], todo := [], page14 := false, found := [] } } })

/-- The prompt commands outside SETUP and SUSPENDED, or with no geometry, are refused with BAD_STATE. PROMPT_PAGE writes its
octets into the load buffer from the offset on and marks them sent, a buffer with another target being emptied first;
PROMPT_DIR writes or empties one entry; PROMPT_ERASE empties the directory and the buffer, and it, PROMPT_COMMIT,
PROMPT_VERIFY and PROMPT_BLANK wait in the holder in stage WORKING with their maintenance job set. -/
def Obligations.PromptCommands : Prop :=
  ∀ (tag a2 a1 a0 p1 p0 id f1 f0 c1 c0 : Octet) (l : List Octet) (s : State), s.ready → 1 ≤ l.length → l.length ≤ 56 →
    let pageLoad := Instr.promptPage tag (a2 :: a1 :: a0 :: l)
    let dir := Instr.promptDir tag [id, f1, f0, c1, c0]
    let pages := s.store.promptBlocks * 16
    let page := field24 a2 a1 a0 / 512
    let offset := field24 a2 a1 a0 % 512
    let may := (s.service = .setup ∨ s.service = .suspended) ∧ s.store.geometrySet = true
    let waits (kind : Octet) (fields : List Octet) (j : Job) : State :=
      { s with link := { s.link with holder := some ⟨kind, tag, fields, .working⟩ }, store := { s.store with job := j } }
    (¬may → ∀ c ∈ [pageLoad, dir, .promptErase tag [], .promptCommit tag [], .promptVerify tag [],
      .promptBlank tag [p1, p0]], exec c s = .next (s.refused tag .badState)) ∧
    (may →
      (pages ≤ page ∨ 512 < offset + l.length → exec pageLoad s = .next (s.refused tag .badArgument)) ∧
      (page < pages → offset + l.length ≤ 512 →
        ∃ t, exec pageLoad s = .next t ∧
          t = { s with store := { s.store with buffer := t.store.buffer }, link := s.link.replied tag .ok [] } ∧
          t.store.buffer.target = some page ∧
          ∀ i : Fin 512,
            if offset ≤ i.val ∧ i.val < offset + l.length then
              t.store.buffer.data[i] = l.getD (i.val - offset) 0 ∧ t.store.buffer.sent[i] = true
            else if s.store.buffer.target = some page then
              t.store.buffer.data[i] = s.store.buffer.data[i] ∧ t.store.buffer.sent[i] = s.store.buffer.sent[i]
            else t.store.buffer.data[i] = 0xFF ∧ t.store.buffer.sent[i] = false) ∧
      (31 < id.toNat ∨ (field16 f1 f0 ≠ 65535 ∧ pages < field16 f1 f0 + field16 c1 c0) →
        exec dir s = .next (s.refused tag .badArgument)) ∧
      (∀ k : PromptId, k.val = id.toNat → field16 f1 f0 = 65535 ∨ field16 f1 f0 + field16 c1 c0 ≤ pages →
        exec dir s =
          .next { s with link := s.link.replied tag .ok []
                         store := { s.store with
                           prompts := s.store.prompts.set k
                                        (if field16 f1 f0 = 65535 then none
                                         else some { first := field16 f1 f0, count := field16 c1 c0 }) } }) ∧
      exec (.promptErase tag []) s =
        .next { waits 0x54 [] (.promptErase 0 0 []) with
                store := { s.store with prompts := Vector.replicate 32 none, buffer := LoadBuffer.reset
                                        job := .promptErase 0 0 [] } } ∧
      (s.store.buffer.target = none →
        exec (.promptCommit tag []) s = .next (s.refused tag .badArgument) ∧
        exec (.promptVerify tag []) s = .next (s.refused tag .badArgument)) ∧
      (∀ q, s.store.buffer.target = some q →
        exec (.promptCommit tag []) s = .next (waits 0x56 [] (.promptCommit q)) ∧
        exec (.promptVerify tag []) s = .next (waits 0x57 [] (.promptVerify q))) ∧
      (pages ≤ field16 p1 p0 → exec (.promptBlank tag [p1, p0]) s = .next (s.refused tag .badArgument)) ∧
      (field16 p1 p0 < pages →
        exec (.promptBlank tag [p1, p0]) s = .next (waits 0x58 [p1, p0] (.promptBlank (field16 p1 p0)))))

/-- The choice of the arbiter, only with the port IDLE, in the order of its sources: the urgent erase of the dirty-list head;
the lowest RESERVED item page of the first channel after the round-robin pointer that has one; the oldest program request, with
the header the store builds; the head of the mark queue; the next operation of the maintenance job in SETUP, MOUNTING and
SUSPENDED; the background erase; and nothing when none is eligible. The port becomes BUSY with the operation's cycles on its
pins. The cycles stand in port.drive and the ages in nextAge, fields of the model (log entries 26 and 31); CONT headers count
passed blocks (log entry 33), and HEAD headers are written with their unnamed bits 0 (log entry 41). -/
def Obligations.ArbiterSources : Prop :=
  ∀ s : State, s.resetLow = false →
    let idle := s.port.state = .idle
    let urgent := s.store.free.length < 16 ∧ s.store.dirty ≠ []
    let noRead := ∀ c, ∀ p ∈ (s.ring c).items, p.status ≠ .reserved
    let noProgram := ∀ c, ∀ p ∈ (s.ring c).recorded, ∀ b g a, p.status ≠ .requested b g a
    let distance (c : ChannelIx) := (c.val + 31 - s.port.pointer.val) % 32
    let erased (b : Nat) (rest : List Nat) : State :=
      State.opIssued { s with store := { s.store with dirty := rest, erasing := some b } } (.erase b)
        ([.command 0x60] ++ rowAddress (b * 16) ++ [.command 0xD0])
    let reads (spare : Octet) (page : Nat) : List FlashCycle :=
      [.command 0x00, .address 0, .address spare] ++ rowAddress page ++ [.command 0x30]
    let writes (spare : Octet) (page : Nat) (l : List Octet) : List FlashCycle :=
      [.command 0x80, .address 0, .address spare] ++ rowAddress page ++ l.map .write ++ [.command 0x10]
    (¬idle → exec .arbiterChoice s = .next s) ∧
    (∀ b rest, idle → urgent → s.store.dirty = b :: rest → exec .arbiterChoice s = .next (erased b rest)) ∧
    (∀ c k before after, idle → ¬urgent → (s.ring c).items = before ++ { index := k, status := .reserved } :: after →
      (∀ p ∈ before, p.status ≠ .reserved) →
      (∀ c', distance c' < distance c → ∀ p ∈ (s.ring c').items, p.status ≠ .reserved) →
      let page := (s.ring c).itemFlash.getD k 0
      exec .arbiterChoice s =
        .next (State.opIssued { s with
                 port := { s.port with pointer := c }
                 rings := s.rings.set c
                   { s.ring c with
                     items := (s.ring c).items.map fun p =>
                       if p.index = k then { p with status := .reading } else p } }
          (.ringRead c k page) (reads 0 page))) ∧
    (∀ c p b g a m, idle → ¬urgent → noRead → p ∈ (s.ring c).recorded → p.status = .requested b g a →
      (∀ c', ∀ p' ∈ (s.ring c').recorded, ∀ b' g' a', p'.status = .requested b' g' a' → c' = c ∧ p' = p ∨ a < a') →
      (s.chan c).current = some m.serial → s.message m.serial = some m →
      let spare :=
        if g ≠ 0 then List.replicate 16 0xFF
        else if passedBefore b m.blocks = 0 then headSpare m else contSpare m.serial (passedBefore b m.blocks)
      exec .arbiterChoice s =
        .next (State.opIssued { s with
                 rings := s.rings.set c
                   { s.ring c with
                     recorded := (s.ring c).recorded.map fun q =>
                       if q.status = .requested b g a then { q with status := .programming b g a } else q } }
          (.ringProgram c m.serial b g (decide (g = 0 ∧ passedBefore b m.blocks = 0)) p.data spare)
          (writes 0 (b * 16 + g) (p.data ++ spare)))) ∧
    (∀ n k rest m h, idle → ¬urgent → noRead → noProgram → s.store.marks = (n, k) :: rest → s.message n = some m →
      m.head = some h →
      let page := h * 16 + (if k = .heard then 14 else 15)
      exec .arbiterChoice s =
        .next (State.opIssued { s with store := { s.store with marks := rest, marking := some (n, k) } }
          (.mark page (markSpare k n)) (writes 2 page (markSpare k n)))) ∧
    (idle → ¬urgent → noRead → noProgram → s.store.marks = [] →
      let may := s.service = .setup ∨ s.service = .mounting ∨ s.service = .suspended
      (may → ∀ next failed l, s.store.job = .promptErase next failed l →
        exec .arbiterChoice s =
          .next (s.opIssued (.promptErase next) ([.command 0x60] ++ rowAddress (next * 16) ++ [.command 0xD0]))) ∧
      (may → ∀ page, s.store.job = .promptCommit page →
        exec .arbiterChoice s =
          .next (s.opIssued (.promptProgram page s.store.buffer.data.toList (List.replicate 16 0xFF))
            (writes 0 page (s.store.buffer.data.toList ++ List.replicate 16 0xFF)))) ∧
      (may → ∀ page, s.store.job = .promptVerify page ∨ s.store.job = .promptBlank page →
        exec .arbiterChoice s = .next (s.opIssued (.promptRead page) (reads 0 page))) ∧
      (may → ∀ page blank, s.store.job = .promptBlankSpare page blank →
        exec .arbiterChoice s = .next (s.opIssued (.promptReadSpare page) (reads 2 page))) ∧
      (may → ∀ m, s.store.job = .mount m →
        (m.classes.length < s.store.totalBlocks - s.store.promptBlocks →
          let page := (s.store.promptBlocks + m.classes.length) * 16
          exec .arbiterChoice s = .next (s.opIssued (.mountRead page) (reads 2 page))) ∧
        (∀ h rest, s.store.totalBlocks - s.store.promptBlocks ≤ m.classes.length → m.todo = h :: rest →
          let page := h.block * 16 + (if m.page14 then 15 else 14)
          exec .arbiterChoice s = .next (s.opIssued (.mountRead page) (reads 2 page)))) ∧
      (¬may ∨ s.store.job = .none →
        (s.store.dirty = [] → exec .arbiterChoice s = .next s) ∧
        (∀ b rest, s.store.dirty = b :: rest → exec .arbiterChoice s = .next (erased b rest))))

/-- The completions of ring operations, each only while its operation is in progress. A program that passes leaves its ring
with its block's valid-page count raised, and the requests due and the flush end follow; at a flush end the message is
committed, and the channel goes on to CLOSING with its list or, its caller gone, to FREE. One that fails retires the block,
places FLASH_FAULT and goes on in the later block of the list, or in a fresh one from the free list; with none the recording is
exhausted. A held or discarded program is handed to the store, which counts its page or retires its block, settles a DELETING
message, or with no record left marks the block bad; it is not retried. In SUSPENDING the drain is tested (log entry 29). A
read that passes makes its page ARRIVED; one that fails cuts the item there and places FLASH_FAULT; a held read is discarded.
The guards by the operation in progress are the model's (log entries 4, 6 and 31), and so are a prompt's shortened directory
entry (log entry 37), the cause of an exhaustion where both hold (log entry 35), and the store-low test when a flush end frees
a recording with no page programmed (log entry 14). -/
def Obligations.RingCompletions : Prop :=
  (∀ (c : ChannelIx) (s : State), s.resetLow = false →
    (∀ n b p head data spare, s.port.op = some (.ringProgram c n b p head data spare) →
      let g := s.ring c
      let x := s.chan c
      let passed (m : Message) : Message :=
        { m with blocks := m.blocks.map fun e => if e.block = b then { e with valid := p + 1 } else e
                 head := if p = 0 ∧ head = true then some b else m.head }
      let retired (m : Message) : Message :=
        { m with blocks := m.blocks.map fun e => if e.block = b then { e with retire := true } else e }
      let left : List RecPage := g.recorded.filter (!·.isProgramming)
      let put (z : State) (f : Message → Message) (ring : Ring) : State :=
        { z with rings := s.rings.set c ring
                 store := { s.store with messages := s.store.messages.map fun m => if m.serial = n then f m else m } }
      let done : State := put (s.opEnded true []) passed { g with recorded := left }
      let failed (f : Message → Message) (ring : Ring) : State := (put (s.opEnded false []) f ring).placed .flashFault
      let accepted (ok : Bool) (ring : Ring) : State :=
        if s.message n ≠ none then (if ok then put (s.opEnded true []) passed ring else failed retired ring).settles n
        else if ok then { s.opEnded true [] with rings := s.rings.set c ring }
        else State.placed { s.opEnded false [] with
               rings := s.rings.set c ring
               store := { s.store with
                 dirty := s.store.dirty.erase b
                 bad := if b ∈ s.store.bad then s.store.bad else s.store.bad ++ [b] } } .flashFault
      (g.exhausted = false → .program ∉ g.held →
        (∀ ok, exec (.heldProgramComplete ok) s = .next s) ∧
        exec (.programComplete true) s = .next (State.drains (flushTest c (raisePrograms c done))) ∧
        ((∀ q ∈ g.recorded, q.status ≠ .full) → x.state ≠ .flush ∨ left ≠ [] →
          exec (.programComplete true) s = .next done.drains) ∧
        (left = [] → g.ended = true → x.state = .flush → s.prompted → s.marksBlank → s.link.queue.length < 64 →
          x.reading = false → (x.callerPresent = true → x.playList ≠ []) →
          exec (.programComplete true) s = .next (done.flushEnds c).drains) ∧
        (∀ m r k, left = [] → g.ended = true → x.state = .flush → x.callerPresent = false → x.reading = false →
          x.current = some n → x.slot = some k → s.message n = some m → m.room = r → (∃ e ∈ m.blocks, e.block = b) →
          (s.room r).occupancy = .occupied → 25 ≤ (s.encoder c).voiceFrames →
          ∃ t, exec (.programComplete true) s = .next t ∧
            t.message n = some { passed m with state := .new } ∧
            (t.room r).mailbox = serialInsert n (s.room r).mailbox ∧ (t.room r).newCount = (s.room r).newCount + 1 ∧
            (t.room r).urgentCount = (s.room r).urgentCount + (if m.urgent then 1 else 0) ∧
            (t.room r).recordings = (s.room r).recordings - 1 ∧ (∀ r', r' ≠ r → t.room r' = s.room r') ∧
            (t.chan c).state = .free ∧ (t.chan c).slot = none ∧ t.highway.bindings[k] = none ∧
            (t.encoder c).state = .idle ∧ (∀ c', c' ≠ c → t.chan c' = s.chan c') ∧ t.link.queue = s.link.queue) ∧
        (s.message n = none → s.link.queue.length < 64 →
          exec (.programComplete false) s = .next (State.drains ((s.opEnded false []).placed .flashFault))) ∧
        (∀ m l e l', s.message n = some m → m.blocks = l ++ e :: l' → e.block = b → (∀ e' ∈ l, e'.block ≠ b) →
          s.link.queue.length < 62 →
          let given (m : Message) : Message := { retired m with written := g.recorded.countP RecPage.inProgram }
          (∀ e2 l2, l' = e2 :: l2 →
            exec (.programComplete false) s =
              .next (State.drains (failed given { g with recorded := regive e2.block 0 g.recorded }))) ∧
          (∀ f rest, l' = [] → m.blocks.length < 320 → s.store.free = f :: rest →
            let fresh (m : Message) : Message :=
              { given m with blocks := (given m).blocks ++ [{ block := f, valid := 0, retire := false }] }
            let z := failed fresh { g with recorded := regive f 0 g.recorded }
            exec (.programComplete false) s =
              .next (State.drains (State.lowTested { z with store := { z.store with free := rest } }))) ∧
          (l' = [] → ¬s.hasBlock m → s.prompted → s.marksBlank → x.reading = false →
            (x.callerPresent = true → x.state = .record ∨ x.playList ≠ []) →
            exec (.programComplete false) s =
              .next (State.drains (((failed retired { g with recorded := [] }).exhausts c).flushTests c))))) ∧
      (g.exhausted = true ∨ .program ∈ g.held → ∀ ok, exec (.programComplete ok) s = .next s) ∧
      (g.exhausted = true → .program ∉ g.held → s.prompted → s.marksBlank → s.link.queue.length < 63 →
        x.reading = false → (x.callerPresent = true → x.playList ≠ []) →
        ∀ ok, exec (.heldProgramComplete ok) s =
          .next (State.drains ((accepted ok { g with recorded := left }).flushTests c))) ∧
      (.program ∈ g.held → s.marksBlank → s.link.queue.length < 63 →
        let ring : Ring := Ring.raiseReads { g with held := g.held.erase .program }
        (∀ ok, exec (.heldProgramComplete ok) s = .next (State.drains (raisePrograms c (accepted ok ring)))) ∧
        (∀ ok, (∀ q ∈ g.recorded, q.status ≠ .full) → raisePrograms c (accepted ok ring) = accepted ok ring) ∧
        (g.nextItem = g.itemCount → ring = { g with held := g.held.erase .program }))) ∧
    ∀ k page, s.port.op = some (.ringRead c k page) →
      let g := s.ring c
      (.read ∉ g.held →
        (∀ d, exec (.heldReadComplete d) s = .next s) ∧
        (∀ d, exec (.readComplete (.page d)) s =
          .next { s.opEnded true d.toList with
                  rings := s.rings.set c (Ring.raiseReads { g with
                    items := g.items.map fun p =>
                      if p.status = .reading then { p with status := .arrived d.toList } else p }) }) ∧
        (s.link.queue.length < 64 →
          exec (.readComplete .fail) s =
            .next (State.placed { s.opEnded false [] with
                     rings := s.rings.set c { g with itemCount := k, nextItem := k
                                                     items := g.items.filter fun p => p.index < k }
                     coder := { s.coder with
                       decoders := s.coder.decoders.set c { s.decoder c with extent := 512 * k } }
                     store := { s.store with
                       prompts := match g.item with
                         | some (.prompt id) =>
                           s.store.prompts.set id ((s.store.prompts[id]).map fun e => { e with count := min e.count k })
                         | _ => s.store.prompts } } .flashFault))) ∧
      (.read ∈ g.held →
        let ring : Ring := Ring.raiseReads { g with held := g.held.erase .read }
        (∀ d, exec (.readComplete d) s = .next s) ∧
        (g.nextItem = g.itemCount → ring = { g with held := g.held.erase .read }) ∧
        exec (.heldReadComplete .fail) s = .next { s.opEnded false [] with rings := s.rings.set c ring } ∧
        ∀ d, exec (.heldReadComplete (.page d)) s = .next { s.opEnded true d.toList with rings := s.rings.set c ring })) ∧
  ∀ s : State, s.resetLow = false →
    ((∀ c n b p head data spare, s.port.op ≠ some (.ringProgram c n b p head data spare)) →
      ∀ ok, exec (.programComplete ok) s = .next s ∧ exec (.heldProgramComplete ok) s = .next s) ∧
    ((∀ c k page, s.port.op ≠ some (.ringRead c k page)) →
      ∀ d, exec (.readComplete d) s = .next s ∧ exec (.heldReadComplete d) s = .next s) ∧
    ∀ d, exec (.readComplete (.spare d)) s = .next s ∧ exec (.heldReadComplete (.spare d)) s = .next s

/-- The completion of an erase gives its block to the free list, or with fail to the bad table with FLASH_FAULT placed, ends
the erase in progress and makes the store-low test. The completion of a HEARD mark has no effect when it passes and places
FLASH_FAULT when it fails; that of a DELETED mark, placing FLASH_FAULT when it fails, reclaims the message: its blocks join the
dirty list in order, or the bad table where their retire flag is set, its record leaves the directory, the store-low test is
made, and in SUSPENDING the drain is tested (log entry 29). The guards by the operation in progress are the model's (log entry
4). -/
def Obligations.ErasesAndMarksComplete : Prop :=
  ∀ s : State, s.resetLow = false → s.link.queue.length < 64 →
    (∀ b, s.port.op = some (.erase b) →
      exec (.eraseComplete true) s =
        .next (State.lowTested { s.opEnded true [] with
                 store := { s.store with erasing := none, free := s.store.free ++ [b] } }) ∧
      exec (.eraseComplete false) s =
        .next (State.placed { s.opEnded false [] with
                 store := { s.store with
                   erasing := none
                   bad := if b ∈ s.store.bad then s.store.bad else s.store.bad ++ [b] } } .flashFault).lowTested) ∧
    (∀ page spare n, s.port.op = some (.mark page spare) →
      (s.store.marking = some (n, .heard) →
        exec (.markComplete true) s =
          .next (State.drains { s.opEnded true [] with store := { s.store with marking := none } }) ∧
        exec (.markComplete false) s =
          .next (State.drains (State.placed { s.opEnded false [] with
                   store := { s.store with marking := none } } .flashFault))) ∧
      (∀ m, s.store.marking = some (n, .deleted) → s.message n = some m →
        let reclaimed : Store :=
          { s.store with
            marking := none, messages := s.store.messages.filter fun m => m.serial ≠ n
            dirty := s.store.dirty ++ (m.blocks.filter (!·.retire)).map (·.block)
            bad := ((m.blocks.filter (·.retire)).map (·.block)).foldl
              (fun l b => if b ∈ l then l else l ++ [b]) s.store.bad }
        exec (.markComplete true) s =
          .next (State.drains (State.lowTested { s.opEnded true [] with store := reclaimed })) ∧
        exec (.markComplete false) s =
          .next (State.drains (State.placed { s.opEnded false [] with store := reclaimed } .flashFault).lowTested))) ∧
    ((∀ b, s.port.op ≠ some (.erase b)) → ∀ ok, exec (.eraseComplete ok) s = .next s) ∧
    ((∀ page spare, s.port.op ≠ some (.mark page spare)) → ∀ ok, exec (.markComplete ok) s = .next s)

/-- The reads of a mount. In the first step each block is classified by its spare area (dirty, with FLASH_FAULT placed, on a
failure), and the last lists the HEAD blocks; in the second step page 14 and then page 15 of each HEAD block are noted. The
last read of all ends the mount: the chains of CONT blocks, the duplicates and the messages found deleted are resolved, the
lists of blocks and the directory are built in the order of serials, DIR_FULL and STORE_LOW are placed where they hold, the
rooms whose mailbox changed are evaluated, in index order by the model's choice (log entry 11), and the device returns to SETUP
with MOUNT_DONE. The guards by the operation in progress are the model's (log entries 4 and 6). -/
def Obligations.MountReads : Prop :=
  (∀ (m : MountJob) (page : Nat) (d : Vector Octet 16) (s : State), s.resetLow = false → s.store.job = .mount m →
    s.port.op = some (.mountRead page) → s.link.queue.length < 64 →
    let area := s.store.totalBlocks - s.store.promptBlocks
    let first := s.store.promptBlocks
    let ok := s.opEnded true d.toList
    let fault := (s.opEnded false []).placed .flashFault
    let goesOn (z : State) (job : MountJob) : State := { z with store := { z.store with job := .mount job } }
    let ends (result : FlashRead) (z : State) (classes : List BlockClass) (heads : List MountHead) : Prop :=
      ∃ t, exec (.mountReadComplete result) s = .next t ∧ MountEnded classes heads z t
    (m.classes.length + 1 < area →
      exec (.mountReadComplete (.spare d)) s =
        .next (goesOn ok { m with classes := m.classes ++ [classifySpare d.toList] }) ∧
      exec (.mountReadComplete .fail) s = .next (goesOn fault { m with classes := m.classes ++ [.dirty] })) ∧
    (m.classes.length + 1 = area →
      let heads (classes : List BlockClass) : List MountHead :=
        (List.range classes.length).filterMap fun i =>
          match classes[i]? with
          | some (BlockClass.head info) =>
            some { block := first + i, info := info, heardMark := false, blank14 := false, deletedMark := false
                   blank15 := false }
          | _ => none
      let read := m.classes ++ [classifySpare d.toList]
      let bad := m.classes ++ [.dirty]
      (heads read ≠ [] →
        exec (.mountReadComplete (.spare d)) s = .next (goesOn ok { m with classes := read, todo := heads read })) ∧
      (heads bad ≠ [] →
        exec (.mountReadComplete .fail) s = .next (goesOn fault { m with classes := bad, todo := heads bad })) ∧
      (heads read = [] → ends (.spare d) ok read m.found) ∧ (heads bad = [] → ends .fail fault bad m.found)) ∧
    (∀ h rest, area ≤ m.classes.length → m.todo = h :: rest →
      let marked : MountHead :=
        { h with deletedMark := isMark .deleted h.info.serial d.toList, blank15 := d.toList.all (· == 0xFF) }
      let unread : MountHead := { h with deletedMark := false, blank15 := false }
      (m.page14 = false →
        exec (.mountReadComplete (.spare d)) s =
          .next (goesOn ok
            { m with page14 := true
                     todo := { h with heardMark := isMark .heard h.info.serial d.toList
                                      blank14 := d.toList.all (· == 0xFF) } :: rest }) ∧
        exec (.mountReadComplete .fail) s =
          .next (goesOn fault { m with page14 := true, todo := { h with heardMark := false, blank14 := false } :: rest })) ∧
      (m.page14 = true → rest ≠ [] →
        exec (.mountReadComplete (.spare d)) s =
          .next (goesOn ok { m with page14 := false, todo := rest, found := m.found ++ [marked] }) ∧
        exec (.mountReadComplete .fail) s =
          .next (goesOn fault { m with page14 := false, todo := rest, found := m.found ++ [unread] })) ∧
      (m.page14 = true → rest = [] →
        ends (.spare d) ok m.classes (m.found ++ [marked]) ∧ ends .fail fault m.classes (m.found ++ [unread])))) ∧
  ∀ s : State, s.resetLow = false →
    (∀ page, s.port.op ≠ some (.mountRead page)) → ∀ d, exec (.mountReadComplete d) s = .next s

/-- The ends of the prompt jobs, with the command held and its TAG in the reply. The erase of a block that is not the
last goes on to the next, a failed one counted and, up to 28, listed; the last builds the reply OK with the failed count
and list, and FLASH_FAULT when any failed. A commit replies OK, or FULL with FLASH_FAULT. A verify replies OK when every
sent octet equals the octet read, else MISMATCH; a blank check reads the page and then the spare area and replies OK when
both are blank, else NOT_BLANK; a failed read places FLASH_FAULT. The guards are the model's (log entries 4 and 6), and
so is the place of the reply after the attention kind (log entry 12). -/
def Obligations.PromptCompletions : Prop :=
  ∀ (h : Held) (s : State), s.resetLow = false → s.link.holder = some h → s.link.queue.length < 63 →
    let ends (z : State) (st : Status) (data : List Octet) : State :=
      State.answered { z with store := { z.store with job := .none } } h.tag st data
    (∀ b next failed l ok, s.port.op = some (.promptErase b) → s.store.job = .promptErase next failed l →
      let failed' := if ok = true then failed else failed + 1
      let l' := if ok = true ∨ 28 ≤ l.length then l else l ++ [next]
      let z := s.opEnded ok []
      (next + 1 < s.store.promptBlocks →
        exec (.promptEraseComplete ok) s =
          .next { z with store := { s.store with job := .promptErase (next + 1) failed' l' } }) ∧
      (s.store.promptBlocks ≤ next + 1 →
        exec (.promptEraseComplete ok) s =
          .next (ends (if failed' = 0 then z else z.placed .flashFault) .ok
            (octets2 failed' ++ l'.flatMap octets2)))) ∧
    (∀ page data spare, s.port.op = some (.promptProgram page data spare) →
      exec (.promptProgramComplete true) s = .next (ends (s.opEnded true []) .ok []) ∧
      exec (.promptProgramComplete false) s = .next (ends ((s.opEnded false []).placed .flashFault) .full [])) ∧
    (∀ page q, s.port.op = some (.promptRead page) → s.store.job = .promptVerify q →
      (∀ d, exec (.promptReadComplete (.page d)) s =
        .next (ends (s.opEnded true d.toList)
          (if ∀ i : Fin 512, s.store.buffer.sent[i] = true → s.store.buffer.data[i] = d[i] then .ok else .mismatch) [])) ∧
      exec (.promptReadComplete .fail) s = .next (ends ((s.opEnded false []).placed .flashFault) .mismatch [])) ∧
    (∀ page q, s.port.op = some (.promptRead page) → s.store.job = .promptBlank q →
      (∀ d, exec (.promptReadComplete (.page d)) s =
        .next { s.opEnded true d.toList with
                store := { s.store with job := .promptBlankSpare q (d.toList.all (· == 0xFF)) } }) ∧
      exec (.promptReadComplete .fail) s = .next (ends ((s.opEnded false []).placed .flashFault) .notBlank [])) ∧
    (∀ page q blank, s.port.op = some (.promptReadSpare page) → s.store.job = .promptBlankSpare q blank →
      (∀ d, exec (.promptReadComplete (.spare d)) s =
        .next (ends (s.opEnded true d.toList) (if blank = true ∧ ∀ i : Fin 16, d[i] = 0xFF then .ok else .notBlank) [])) ∧
      exec (.promptReadComplete .fail) s = .next (ends ((s.opEnded false []).placed .flashFault) .notBlank []))

/-- A flash timeout has the effect of a failing status for the operation in progress, and leaves the port RECOVERING with
command 0xFF issued; the end of recovery, and of the start after reset, makes the port IDLE; with no operation in progress, or
in another port state, these events do nothing. In SUSPENDING the drain is tested after a timeout (log entry 29). The guards
are the model's (log entry 4). -/
def Obligations.TimeoutAndRecovery : Prop :=
  ∀ s : State, s.resetLow = false →
    (s.port.op = none → exec .flashTimeout s = .next s) ∧
    (∀ op, s.port.op = some op →
      ∃ u, exec (failedCompletion s op) s = .next u ∧
        exec .flashTimeout s =
          .next (State.drains { u with port := { u.port with state := .recovering, drive := .cycles [.command 0xFF] } })) ∧
    exec .portRecoveryEnd s =
      .next { s with port := { s.port with state := if s.port.state = .recovering then .idle else s.port.state } } ∧
    exec .portStartEnd s =
      .next { s with port := { s.port with state := if s.port.state = .starting then .idle else s.port.state } }

/-! ## Invariants: what every step keeps -/

/-- The machine right after reset meets every invariant stated below. -/
def Obligations.ResetMeetsTheInvariants : Prop :=
  QueueBounded State.reset ∧ StatusLegal State.reset ∧ BalancesInRange State.reset ∧ ChargesAdmitted State.reset ∧
    CodersInRange State.reset ∧ BindingsOneToOne State.reset ∧ LampQueueAgrees State.reset

/-- The outbound queue never holds more than 64 frames, and the presence state, the missing-sync count, the clock and the
attention set stay in their ranges. The frame counter's range reaches the 8,000 of a tick that is due, which is the model's
(log entry 5). -/
def Obligations.EveryStepKeepsTheStatusLegal : Prop :=
  (∀ s t : State, QueueBounded s → step s = .next t → QueueBounded t) ∧
  ∀ s t : State, StatusLegal s → step s = .next t → StatusLegal t

/-- Every room balance stays within 0..9,999,999. -/
def Obligations.EveryStepKeepsBalancesInRange : Prop :=
  ∀ s t : State, BalancesInRange s → step s = .next t → BalancesInRange t

/-- The admission sum (charge records held, open meters, and rooms in CHECKOUT_PENDING) never exceeds 256, so that every close
and every checkout finds a place in the charge queue. -/
def Obligations.EveryStepKeepsChargesAdmitted : Prop :=
  ∀ s t : State, ChargesAdmitted s → step s = .next t → ChargesAdmitted t

/-- Every encoder and decoder predictor stays within −8,192..8,191 and every step index within 0..39, and so does every entry
of the expansion table within −8,192..8,191. -/
def Obligations.EveryStepKeepsCodersInRange : Prop :=
  ∀ s t : State, CodersInRange s → step s = .next t → CodersInRange t

/-- The slot binding table stays one-to-one with the channels' bound slots, and no bound slot is mapped to a trunk. -/
def Obligations.EveryStepKeepsBindingsOneToOne : Prop :=
  ∀ s t : State, BindingsOneToOne s → step s = .next t → BindingsOneToOne t

/-- The lamp order queue never holds a room twice, and a room's queued field is yes exactly while it is in the queue. -/
def Obligations.EveryStepKeepsLampQueue : Prop :=
  ∀ s t : State, LampQueueAgrees s → step s = .next t → LampQueueAgrees t

end Statements
end

