-- ==== Sys2Proof/Laws/State.lean ====
section
/-! SUPPORT. What each record update of the state leaves and writes: one lemma for each update and each field it does not
write, and for each update what reading the record back gives. -/

namespace Sys2Proof.Machine

/-! ## setRoom -/

@[simp] theorem State.setRoom_pending (s : State) (r : RoomIx) (x : Room) : (s.setRoom r x).pending = s.pending := rfl
@[simp] theorem State.setRoom_resetLow (s : State) (r : RoomIx) (x : Room) : (s.setRoom r x).resetLow = s.resetLow := rfl
@[simp] theorem State.setRoom_highway (s : State) (r : RoomIx) (x : Room) : (s.setRoom r x).highway = s.highway := rfl
@[simp] theorem State.setRoom_clock (s : State) (r : RoomIx) (x : Room) : (s.setRoom r x).clock = s.clock := rfl
@[simp] theorem State.setRoom_link (s : State) (r : RoomIx) (x : Room) : (s.setRoom r x).link = s.link := rfl
@[simp] theorem State.setRoom_service (s : State) (r : RoomIx) (x : Room) : (s.setRoom r x).service = s.service := rfl
@[simp] theorem State.setRoom_attention (s : State) (r : RoomIx) (x : Room) : (s.setRoom r x).attention = s.attention := rfl
@[simp] theorem State.setRoom_checkouts (s : State) (r : RoomIx) (x : Room) : (s.setRoom r x).checkouts = s.checkouts := rfl
@[simp] theorem State.setRoom_directory (s : State) (r : RoomIx) (x : Room) : (s.setRoom r x).directory = s.directory := rfl
@[simp] theorem State.setRoom_classes (s : State) (r : RoomIx) (x : Room) : (s.setRoom r x).classes = s.classes := rfl
@[simp] theorem State.setRoom_channels (s : State) (r : RoomIx) (x : Room) : (s.setRoom r x).channels = s.channels := rfl
@[simp] theorem State.setRoom_coder (s : State) (r : RoomIx) (x : Room) : (s.setRoom r x).coder = s.coder := rfl
@[simp] theorem State.setRoom_rings (s : State) (r : RoomIx) (x : Room) : (s.setRoom r x).rings = s.rings := rfl
@[simp] theorem State.setRoom_port (s : State) (r : RoomIx) (x : Room) : (s.setRoom r x).port = s.port := rfl
@[simp] theorem State.setRoom_store (s : State) (r : RoomIx) (x : Room) : (s.setRoom r x).store = s.store := rfl
@[simp] theorem State.setRoom_lamps (s : State) (r : RoomIx) (x : Room) : (s.setRoom r x).lamps = s.lamps := rfl
@[simp] theorem State.setRoom_trunks (s : State) (r : RoomIx) (x : Room) : (s.setRoom r x).trunks = s.trunks := rfl
@[simp] theorem State.setRoom_meters (s : State) (r : RoomIx) (x : Room) : (s.setRoom r x).meters = s.meters := rfl
@[simp] theorem State.setRoom_tariff (s : State) (r : RoomIx) (x : Room) : (s.setRoom r x).tariff = s.tariff := rfl
@[simp] theorem State.setRoom_charges (s : State) (r : RoomIx) (x : Room) : (s.setRoom r x).charges = s.charges := rfl

/-! ## updRoom -/

@[simp] theorem State.updRoom_pending (s : State) (r : RoomIx) (f : Room → Room) : (s.updRoom r f).pending = s.pending := rfl
@[simp] theorem State.updRoom_resetLow (s : State) (r : RoomIx) (f : Room → Room) : (s.updRoom r f).resetLow = s.resetLow := rfl
@[simp] theorem State.updRoom_highway (s : State) (r : RoomIx) (f : Room → Room) : (s.updRoom r f).highway = s.highway := rfl
@[simp] theorem State.updRoom_clock (s : State) (r : RoomIx) (f : Room → Room) : (s.updRoom r f).clock = s.clock := rfl
@[simp] theorem State.updRoom_link (s : State) (r : RoomIx) (f : Room → Room) : (s.updRoom r f).link = s.link := rfl
@[simp] theorem State.updRoom_service (s : State) (r : RoomIx) (f : Room → Room) : (s.updRoom r f).service = s.service := rfl
@[simp] theorem State.updRoom_attention (s : State) (r : RoomIx) (f : Room → Room) : (s.updRoom r f).attention = s.attention := rfl
@[simp] theorem State.updRoom_checkouts (s : State) (r : RoomIx) (f : Room → Room) : (s.updRoom r f).checkouts = s.checkouts := rfl
@[simp] theorem State.updRoom_directory (s : State) (r : RoomIx) (f : Room → Room) : (s.updRoom r f).directory = s.directory := rfl
@[simp] theorem State.updRoom_classes (s : State) (r : RoomIx) (f : Room → Room) : (s.updRoom r f).classes = s.classes := rfl
@[simp] theorem State.updRoom_channels (s : State) (r : RoomIx) (f : Room → Room) : (s.updRoom r f).channels = s.channels := rfl
@[simp] theorem State.updRoom_coder (s : State) (r : RoomIx) (f : Room → Room) : (s.updRoom r f).coder = s.coder := rfl
@[simp] theorem State.updRoom_rings (s : State) (r : RoomIx) (f : Room → Room) : (s.updRoom r f).rings = s.rings := rfl
@[simp] theorem State.updRoom_port (s : State) (r : RoomIx) (f : Room → Room) : (s.updRoom r f).port = s.port := rfl
@[simp] theorem State.updRoom_store (s : State) (r : RoomIx) (f : Room → Room) : (s.updRoom r f).store = s.store := rfl
@[simp] theorem State.updRoom_lamps (s : State) (r : RoomIx) (f : Room → Room) : (s.updRoom r f).lamps = s.lamps := rfl
@[simp] theorem State.updRoom_trunks (s : State) (r : RoomIx) (f : Room → Room) : (s.updRoom r f).trunks = s.trunks := rfl
@[simp] theorem State.updRoom_meters (s : State) (r : RoomIx) (f : Room → Room) : (s.updRoom r f).meters = s.meters := rfl
@[simp] theorem State.updRoom_tariff (s : State) (r : RoomIx) (f : Room → Room) : (s.updRoom r f).tariff = s.tariff := rfl
@[simp] theorem State.updRoom_charges (s : State) (r : RoomIx) (f : Room → Room) : (s.updRoom r f).charges = s.charges := rfl

/-! ## updLamp -/

@[simp] theorem State.updLamp_pending (s : State) (r : RoomIx) (f : LampRecord → LampRecord) : (s.updLamp r f).pending = s.pending := rfl
@[simp] theorem State.updLamp_resetLow (s : State) (r : RoomIx) (f : LampRecord → LampRecord) : (s.updLamp r f).resetLow = s.resetLow := rfl
@[simp] theorem State.updLamp_highway (s : State) (r : RoomIx) (f : LampRecord → LampRecord) : (s.updLamp r f).highway = s.highway := rfl
@[simp] theorem State.updLamp_clock (s : State) (r : RoomIx) (f : LampRecord → LampRecord) : (s.updLamp r f).clock = s.clock := rfl
@[simp] theorem State.updLamp_link (s : State) (r : RoomIx) (f : LampRecord → LampRecord) : (s.updLamp r f).link = s.link := rfl
@[simp] theorem State.updLamp_service (s : State) (r : RoomIx) (f : LampRecord → LampRecord) : (s.updLamp r f).service = s.service := rfl
@[simp] theorem State.updLamp_attention (s : State) (r : RoomIx) (f : LampRecord → LampRecord) : (s.updLamp r f).attention = s.attention := rfl
@[simp] theorem State.updLamp_checkouts (s : State) (r : RoomIx) (f : LampRecord → LampRecord) : (s.updLamp r f).checkouts = s.checkouts := rfl
@[simp] theorem State.updLamp_directory (s : State) (r : RoomIx) (f : LampRecord → LampRecord) : (s.updLamp r f).directory = s.directory := rfl
@[simp] theorem State.updLamp_classes (s : State) (r : RoomIx) (f : LampRecord → LampRecord) : (s.updLamp r f).classes = s.classes := rfl
@[simp] theorem State.updLamp_channels (s : State) (r : RoomIx) (f : LampRecord → LampRecord) : (s.updLamp r f).channels = s.channels := rfl
@[simp] theorem State.updLamp_coder (s : State) (r : RoomIx) (f : LampRecord → LampRecord) : (s.updLamp r f).coder = s.coder := rfl
@[simp] theorem State.updLamp_rings (s : State) (r : RoomIx) (f : LampRecord → LampRecord) : (s.updLamp r f).rings = s.rings := rfl
@[simp] theorem State.updLamp_port (s : State) (r : RoomIx) (f : LampRecord → LampRecord) : (s.updLamp r f).port = s.port := rfl
@[simp] theorem State.updLamp_store (s : State) (r : RoomIx) (f : LampRecord → LampRecord) : (s.updLamp r f).store = s.store := rfl
@[simp] theorem State.updLamp_lamps (s : State) (r : RoomIx) (f : LampRecord → LampRecord) : (s.updLamp r f).lamps = s.lamps := rfl
@[simp] theorem State.updLamp_trunks (s : State) (r : RoomIx) (f : LampRecord → LampRecord) : (s.updLamp r f).trunks = s.trunks := rfl
@[simp] theorem State.updLamp_meters (s : State) (r : RoomIx) (f : LampRecord → LampRecord) : (s.updLamp r f).meters = s.meters := rfl
@[simp] theorem State.updLamp_tariff (s : State) (r : RoomIx) (f : LampRecord → LampRecord) : (s.updLamp r f).tariff = s.tariff := rfl
@[simp] theorem State.updLamp_charges (s : State) (r : RoomIx) (f : LampRecord → LampRecord) : (s.updLamp r f).charges = s.charges := rfl

/-! ## updChan -/

@[simp] theorem State.updChan_pending (s : State) (c : ChannelIx) (f : Channel → Channel) : (s.updChan c f).pending = s.pending := rfl
@[simp] theorem State.updChan_resetLow (s : State) (c : ChannelIx) (f : Channel → Channel) : (s.updChan c f).resetLow = s.resetLow := rfl
@[simp] theorem State.updChan_highway (s : State) (c : ChannelIx) (f : Channel → Channel) : (s.updChan c f).highway = s.highway := rfl
@[simp] theorem State.updChan_clock (s : State) (c : ChannelIx) (f : Channel → Channel) : (s.updChan c f).clock = s.clock := rfl
@[simp] theorem State.updChan_link (s : State) (c : ChannelIx) (f : Channel → Channel) : (s.updChan c f).link = s.link := rfl
@[simp] theorem State.updChan_service (s : State) (c : ChannelIx) (f : Channel → Channel) : (s.updChan c f).service = s.service := rfl
@[simp] theorem State.updChan_attention (s : State) (c : ChannelIx) (f : Channel → Channel) : (s.updChan c f).attention = s.attention := rfl
@[simp] theorem State.updChan_rooms (s : State) (c : ChannelIx) (f : Channel → Channel) : (s.updChan c f).rooms = s.rooms := rfl
@[simp] theorem State.updChan_checkouts (s : State) (c : ChannelIx) (f : Channel → Channel) : (s.updChan c f).checkouts = s.checkouts := rfl
@[simp] theorem State.updChan_directory (s : State) (c : ChannelIx) (f : Channel → Channel) : (s.updChan c f).directory = s.directory := rfl
@[simp] theorem State.updChan_classes (s : State) (c : ChannelIx) (f : Channel → Channel) : (s.updChan c f).classes = s.classes := rfl
@[simp] theorem State.updChan_coder (s : State) (c : ChannelIx) (f : Channel → Channel) : (s.updChan c f).coder = s.coder := rfl
@[simp] theorem State.updChan_rings (s : State) (c : ChannelIx) (f : Channel → Channel) : (s.updChan c f).rings = s.rings := rfl
@[simp] theorem State.updChan_port (s : State) (c : ChannelIx) (f : Channel → Channel) : (s.updChan c f).port = s.port := rfl
@[simp] theorem State.updChan_store (s : State) (c : ChannelIx) (f : Channel → Channel) : (s.updChan c f).store = s.store := rfl
@[simp] theorem State.updChan_lamps (s : State) (c : ChannelIx) (f : Channel → Channel) : (s.updChan c f).lamps = s.lamps := rfl
@[simp] theorem State.updChan_trunks (s : State) (c : ChannelIx) (f : Channel → Channel) : (s.updChan c f).trunks = s.trunks := rfl
@[simp] theorem State.updChan_meters (s : State) (c : ChannelIx) (f : Channel → Channel) : (s.updChan c f).meters = s.meters := rfl
@[simp] theorem State.updChan_tariff (s : State) (c : ChannelIx) (f : Channel → Channel) : (s.updChan c f).tariff = s.tariff := rfl
@[simp] theorem State.updChan_charges (s : State) (c : ChannelIx) (f : Channel → Channel) : (s.updChan c f).charges = s.charges := rfl

/-! ## updRing -/

@[simp] theorem State.updRing_pending (s : State) (c : ChannelIx) (f : Ring → Ring) : (s.updRing c f).pending = s.pending := rfl
@[simp] theorem State.updRing_resetLow (s : State) (c : ChannelIx) (f : Ring → Ring) : (s.updRing c f).resetLow = s.resetLow := rfl
@[simp] theorem State.updRing_highway (s : State) (c : ChannelIx) (f : Ring → Ring) : (s.updRing c f).highway = s.highway := rfl
@[simp] theorem State.updRing_clock (s : State) (c : ChannelIx) (f : Ring → Ring) : (s.updRing c f).clock = s.clock := rfl
@[simp] theorem State.updRing_link (s : State) (c : ChannelIx) (f : Ring → Ring) : (s.updRing c f).link = s.link := rfl
@[simp] theorem State.updRing_service (s : State) (c : ChannelIx) (f : Ring → Ring) : (s.updRing c f).service = s.service := rfl
@[simp] theorem State.updRing_attention (s : State) (c : ChannelIx) (f : Ring → Ring) : (s.updRing c f).attention = s.attention := rfl
@[simp] theorem State.updRing_rooms (s : State) (c : ChannelIx) (f : Ring → Ring) : (s.updRing c f).rooms = s.rooms := rfl
@[simp] theorem State.updRing_checkouts (s : State) (c : ChannelIx) (f : Ring → Ring) : (s.updRing c f).checkouts = s.checkouts := rfl
@[simp] theorem State.updRing_directory (s : State) (c : ChannelIx) (f : Ring → Ring) : (s.updRing c f).directory = s.directory := rfl
@[simp] theorem State.updRing_classes (s : State) (c : ChannelIx) (f : Ring → Ring) : (s.updRing c f).classes = s.classes := rfl
@[simp] theorem State.updRing_channels (s : State) (c : ChannelIx) (f : Ring → Ring) : (s.updRing c f).channels = s.channels := rfl
@[simp] theorem State.updRing_coder (s : State) (c : ChannelIx) (f : Ring → Ring) : (s.updRing c f).coder = s.coder := rfl
@[simp] theorem State.updRing_port (s : State) (c : ChannelIx) (f : Ring → Ring) : (s.updRing c f).port = s.port := rfl
@[simp] theorem State.updRing_store (s : State) (c : ChannelIx) (f : Ring → Ring) : (s.updRing c f).store = s.store := rfl
@[simp] theorem State.updRing_lamps (s : State) (c : ChannelIx) (f : Ring → Ring) : (s.updRing c f).lamps = s.lamps := rfl
@[simp] theorem State.updRing_trunks (s : State) (c : ChannelIx) (f : Ring → Ring) : (s.updRing c f).trunks = s.trunks := rfl
@[simp] theorem State.updRing_meters (s : State) (c : ChannelIx) (f : Ring → Ring) : (s.updRing c f).meters = s.meters := rfl
@[simp] theorem State.updRing_tariff (s : State) (c : ChannelIx) (f : Ring → Ring) : (s.updRing c f).tariff = s.tariff := rfl
@[simp] theorem State.updRing_charges (s : State) (c : ChannelIx) (f : Ring → Ring) : (s.updRing c f).charges = s.charges := rfl

/-! ## updEncoder -/

@[simp] theorem State.updEncoder_pending (s : State) (c : ChannelIx) (f : Encoder → Encoder) : (s.updEncoder c f).pending = s.pending := rfl
@[simp] theorem State.updEncoder_resetLow (s : State) (c : ChannelIx) (f : Encoder → Encoder) : (s.updEncoder c f).resetLow = s.resetLow := rfl
@[simp] theorem State.updEncoder_highway (s : State) (c : ChannelIx) (f : Encoder → Encoder) : (s.updEncoder c f).highway = s.highway := rfl
@[simp] theorem State.updEncoder_clock (s : State) (c : ChannelIx) (f : Encoder → Encoder) : (s.updEncoder c f).clock = s.clock := rfl
@[simp] theorem State.updEncoder_link (s : State) (c : ChannelIx) (f : Encoder → Encoder) : (s.updEncoder c f).link = s.link := rfl
@[simp] theorem State.updEncoder_service (s : State) (c : ChannelIx) (f : Encoder → Encoder) : (s.updEncoder c f).service = s.service := rfl
@[simp] theorem State.updEncoder_attention (s : State) (c : ChannelIx) (f : Encoder → Encoder) : (s.updEncoder c f).attention = s.attention := rfl
@[simp] theorem State.updEncoder_rooms (s : State) (c : ChannelIx) (f : Encoder → Encoder) : (s.updEncoder c f).rooms = s.rooms := rfl
@[simp] theorem State.updEncoder_checkouts (s : State) (c : ChannelIx) (f : Encoder → Encoder) : (s.updEncoder c f).checkouts = s.checkouts := rfl
@[simp] theorem State.updEncoder_directory (s : State) (c : ChannelIx) (f : Encoder → Encoder) : (s.updEncoder c f).directory = s.directory := rfl
@[simp] theorem State.updEncoder_classes (s : State) (c : ChannelIx) (f : Encoder → Encoder) : (s.updEncoder c f).classes = s.classes := rfl
@[simp] theorem State.updEncoder_channels (s : State) (c : ChannelIx) (f : Encoder → Encoder) : (s.updEncoder c f).channels = s.channels := rfl
@[simp] theorem State.updEncoder_rings (s : State) (c : ChannelIx) (f : Encoder → Encoder) : (s.updEncoder c f).rings = s.rings := rfl
@[simp] theorem State.updEncoder_port (s : State) (c : ChannelIx) (f : Encoder → Encoder) : (s.updEncoder c f).port = s.port := rfl
@[simp] theorem State.updEncoder_store (s : State) (c : ChannelIx) (f : Encoder → Encoder) : (s.updEncoder c f).store = s.store := rfl
@[simp] theorem State.updEncoder_lamps (s : State) (c : ChannelIx) (f : Encoder → Encoder) : (s.updEncoder c f).lamps = s.lamps := rfl
@[simp] theorem State.updEncoder_trunks (s : State) (c : ChannelIx) (f : Encoder → Encoder) : (s.updEncoder c f).trunks = s.trunks := rfl
@[simp] theorem State.updEncoder_meters (s : State) (c : ChannelIx) (f : Encoder → Encoder) : (s.updEncoder c f).meters = s.meters := rfl
@[simp] theorem State.updEncoder_tariff (s : State) (c : ChannelIx) (f : Encoder → Encoder) : (s.updEncoder c f).tariff = s.tariff := rfl
@[simp] theorem State.updEncoder_charges (s : State) (c : ChannelIx) (f : Encoder → Encoder) : (s.updEncoder c f).charges = s.charges := rfl

/-! ## updDecoder -/

@[simp] theorem State.updDecoder_pending (s : State) (c : ChannelIx) (f : Decoder → Decoder) : (s.updDecoder c f).pending = s.pending := rfl
@[simp] theorem State.updDecoder_resetLow (s : State) (c : ChannelIx) (f : Decoder → Decoder) : (s.updDecoder c f).resetLow = s.resetLow := rfl
@[simp] theorem State.updDecoder_highway (s : State) (c : ChannelIx) (f : Decoder → Decoder) : (s.updDecoder c f).highway = s.highway := rfl
@[simp] theorem State.updDecoder_clock (s : State) (c : ChannelIx) (f : Decoder → Decoder) : (s.updDecoder c f).clock = s.clock := rfl
@[simp] theorem State.updDecoder_link (s : State) (c : ChannelIx) (f : Decoder → Decoder) : (s.updDecoder c f).link = s.link := rfl
@[simp] theorem State.updDecoder_service (s : State) (c : ChannelIx) (f : Decoder → Decoder) : (s.updDecoder c f).service = s.service := rfl
@[simp] theorem State.updDecoder_attention (s : State) (c : ChannelIx) (f : Decoder → Decoder) : (s.updDecoder c f).attention = s.attention := rfl
@[simp] theorem State.updDecoder_rooms (s : State) (c : ChannelIx) (f : Decoder → Decoder) : (s.updDecoder c f).rooms = s.rooms := rfl
@[simp] theorem State.updDecoder_checkouts (s : State) (c : ChannelIx) (f : Decoder → Decoder) : (s.updDecoder c f).checkouts = s.checkouts := rfl
@[simp] theorem State.updDecoder_directory (s : State) (c : ChannelIx) (f : Decoder → Decoder) : (s.updDecoder c f).directory = s.directory := rfl
@[simp] theorem State.updDecoder_classes (s : State) (c : ChannelIx) (f : Decoder → Decoder) : (s.updDecoder c f).classes = s.classes := rfl
@[simp] theorem State.updDecoder_channels (s : State) (c : ChannelIx) (f : Decoder → Decoder) : (s.updDecoder c f).channels = s.channels := rfl
@[simp] theorem State.updDecoder_rings (s : State) (c : ChannelIx) (f : Decoder → Decoder) : (s.updDecoder c f).rings = s.rings := rfl
@[simp] theorem State.updDecoder_port (s : State) (c : ChannelIx) (f : Decoder → Decoder) : (s.updDecoder c f).port = s.port := rfl
@[simp] theorem State.updDecoder_store (s : State) (c : ChannelIx) (f : Decoder → Decoder) : (s.updDecoder c f).store = s.store := rfl
@[simp] theorem State.updDecoder_lamps (s : State) (c : ChannelIx) (f : Decoder → Decoder) : (s.updDecoder c f).lamps = s.lamps := rfl
@[simp] theorem State.updDecoder_trunks (s : State) (c : ChannelIx) (f : Decoder → Decoder) : (s.updDecoder c f).trunks = s.trunks := rfl
@[simp] theorem State.updDecoder_meters (s : State) (c : ChannelIx) (f : Decoder → Decoder) : (s.updDecoder c f).meters = s.meters := rfl
@[simp] theorem State.updDecoder_tariff (s : State) (c : ChannelIx) (f : Decoder → Decoder) : (s.updDecoder c f).tariff = s.tariff := rfl
@[simp] theorem State.updDecoder_charges (s : State) (c : ChannelIx) (f : Decoder → Decoder) : (s.updDecoder c f).charges = s.charges := rfl

/-! ## updTrunk -/

@[simp] theorem State.updTrunk_pending (s : State) (t : TrunkIx) (f : Trunk → Trunk) : (s.updTrunk t f).pending = s.pending := rfl
@[simp] theorem State.updTrunk_resetLow (s : State) (t : TrunkIx) (f : Trunk → Trunk) : (s.updTrunk t f).resetLow = s.resetLow := rfl
@[simp] theorem State.updTrunk_highway (s : State) (t : TrunkIx) (f : Trunk → Trunk) : (s.updTrunk t f).highway = s.highway := rfl
@[simp] theorem State.updTrunk_clock (s : State) (t : TrunkIx) (f : Trunk → Trunk) : (s.updTrunk t f).clock = s.clock := rfl
@[simp] theorem State.updTrunk_link (s : State) (t : TrunkIx) (f : Trunk → Trunk) : (s.updTrunk t f).link = s.link := rfl
@[simp] theorem State.updTrunk_service (s : State) (t : TrunkIx) (f : Trunk → Trunk) : (s.updTrunk t f).service = s.service := rfl
@[simp] theorem State.updTrunk_attention (s : State) (t : TrunkIx) (f : Trunk → Trunk) : (s.updTrunk t f).attention = s.attention := rfl
@[simp] theorem State.updTrunk_rooms (s : State) (t : TrunkIx) (f : Trunk → Trunk) : (s.updTrunk t f).rooms = s.rooms := rfl
@[simp] theorem State.updTrunk_checkouts (s : State) (t : TrunkIx) (f : Trunk → Trunk) : (s.updTrunk t f).checkouts = s.checkouts := rfl
@[simp] theorem State.updTrunk_directory (s : State) (t : TrunkIx) (f : Trunk → Trunk) : (s.updTrunk t f).directory = s.directory := rfl
@[simp] theorem State.updTrunk_classes (s : State) (t : TrunkIx) (f : Trunk → Trunk) : (s.updTrunk t f).classes = s.classes := rfl
@[simp] theorem State.updTrunk_channels (s : State) (t : TrunkIx) (f : Trunk → Trunk) : (s.updTrunk t f).channels = s.channels := rfl
@[simp] theorem State.updTrunk_coder (s : State) (t : TrunkIx) (f : Trunk → Trunk) : (s.updTrunk t f).coder = s.coder := rfl
@[simp] theorem State.updTrunk_rings (s : State) (t : TrunkIx) (f : Trunk → Trunk) : (s.updTrunk t f).rings = s.rings := rfl
@[simp] theorem State.updTrunk_port (s : State) (t : TrunkIx) (f : Trunk → Trunk) : (s.updTrunk t f).port = s.port := rfl
@[simp] theorem State.updTrunk_store (s : State) (t : TrunkIx) (f : Trunk → Trunk) : (s.updTrunk t f).store = s.store := rfl
@[simp] theorem State.updTrunk_lamps (s : State) (t : TrunkIx) (f : Trunk → Trunk) : (s.updTrunk t f).lamps = s.lamps := rfl
@[simp] theorem State.updTrunk_meters (s : State) (t : TrunkIx) (f : Trunk → Trunk) : (s.updTrunk t f).meters = s.meters := rfl
@[simp] theorem State.updTrunk_tariff (s : State) (t : TrunkIx) (f : Trunk → Trunk) : (s.updTrunk t f).tariff = s.tariff := rfl
@[simp] theorem State.updTrunk_charges (s : State) (t : TrunkIx) (f : Trunk → Trunk) : (s.updTrunk t f).charges = s.charges := rfl

/-! ## setMeter -/

@[simp] theorem State.setMeter_pending (s : State) (m : MeterIx) (x : Option Meter) : (s.setMeter m x).pending = s.pending := rfl
@[simp] theorem State.setMeter_resetLow (s : State) (m : MeterIx) (x : Option Meter) : (s.setMeter m x).resetLow = s.resetLow := rfl
@[simp] theorem State.setMeter_highway (s : State) (m : MeterIx) (x : Option Meter) : (s.setMeter m x).highway = s.highway := rfl
@[simp] theorem State.setMeter_clock (s : State) (m : MeterIx) (x : Option Meter) : (s.setMeter m x).clock = s.clock := rfl
@[simp] theorem State.setMeter_link (s : State) (m : MeterIx) (x : Option Meter) : (s.setMeter m x).link = s.link := rfl
@[simp] theorem State.setMeter_service (s : State) (m : MeterIx) (x : Option Meter) : (s.setMeter m x).service = s.service := rfl
@[simp] theorem State.setMeter_attention (s : State) (m : MeterIx) (x : Option Meter) : (s.setMeter m x).attention = s.attention := rfl
@[simp] theorem State.setMeter_rooms (s : State) (m : MeterIx) (x : Option Meter) : (s.setMeter m x).rooms = s.rooms := rfl
@[simp] theorem State.setMeter_checkouts (s : State) (m : MeterIx) (x : Option Meter) : (s.setMeter m x).checkouts = s.checkouts := rfl
@[simp] theorem State.setMeter_directory (s : State) (m : MeterIx) (x : Option Meter) : (s.setMeter m x).directory = s.directory := rfl
@[simp] theorem State.setMeter_classes (s : State) (m : MeterIx) (x : Option Meter) : (s.setMeter m x).classes = s.classes := rfl
@[simp] theorem State.setMeter_channels (s : State) (m : MeterIx) (x : Option Meter) : (s.setMeter m x).channels = s.channels := rfl
@[simp] theorem State.setMeter_coder (s : State) (m : MeterIx) (x : Option Meter) : (s.setMeter m x).coder = s.coder := rfl
@[simp] theorem State.setMeter_rings (s : State) (m : MeterIx) (x : Option Meter) : (s.setMeter m x).rings = s.rings := rfl
@[simp] theorem State.setMeter_port (s : State) (m : MeterIx) (x : Option Meter) : (s.setMeter m x).port = s.port := rfl
@[simp] theorem State.setMeter_store (s : State) (m : MeterIx) (x : Option Meter) : (s.setMeter m x).store = s.store := rfl
@[simp] theorem State.setMeter_lamps (s : State) (m : MeterIx) (x : Option Meter) : (s.setMeter m x).lamps = s.lamps := rfl
@[simp] theorem State.setMeter_trunks (s : State) (m : MeterIx) (x : Option Meter) : (s.setMeter m x).trunks = s.trunks := rfl
@[simp] theorem State.setMeter_tariff (s : State) (m : MeterIx) (x : Option Meter) : (s.setMeter m x).tariff = s.tariff := rfl
@[simp] theorem State.setMeter_charges (s : State) (m : MeterIx) (x : Option Meter) : (s.setMeter m x).charges = s.charges := rfl

/-! ## bind -/

@[simp] theorem State.bind_pending (s : State) (k : Fin 126) (c : Option ChannelIx) : (s.bind k c).pending = s.pending := rfl
@[simp] theorem State.bind_resetLow (s : State) (k : Fin 126) (c : Option ChannelIx) : (s.bind k c).resetLow = s.resetLow := rfl
@[simp] theorem State.bind_clock (s : State) (k : Fin 126) (c : Option ChannelIx) : (s.bind k c).clock = s.clock := rfl
@[simp] theorem State.bind_link (s : State) (k : Fin 126) (c : Option ChannelIx) : (s.bind k c).link = s.link := rfl
@[simp] theorem State.bind_service (s : State) (k : Fin 126) (c : Option ChannelIx) : (s.bind k c).service = s.service := rfl
@[simp] theorem State.bind_attention (s : State) (k : Fin 126) (c : Option ChannelIx) : (s.bind k c).attention = s.attention := rfl
@[simp] theorem State.bind_rooms (s : State) (k : Fin 126) (c : Option ChannelIx) : (s.bind k c).rooms = s.rooms := rfl
@[simp] theorem State.bind_checkouts (s : State) (k : Fin 126) (c : Option ChannelIx) : (s.bind k c).checkouts = s.checkouts := rfl
@[simp] theorem State.bind_directory (s : State) (k : Fin 126) (c : Option ChannelIx) : (s.bind k c).directory = s.directory := rfl
@[simp] theorem State.bind_classes (s : State) (k : Fin 126) (c : Option ChannelIx) : (s.bind k c).classes = s.classes := rfl
@[simp] theorem State.bind_channels (s : State) (k : Fin 126) (c : Option ChannelIx) : (s.bind k c).channels = s.channels := rfl
@[simp] theorem State.bind_coder (s : State) (k : Fin 126) (c : Option ChannelIx) : (s.bind k c).coder = s.coder := rfl
@[simp] theorem State.bind_rings (s : State) (k : Fin 126) (c : Option ChannelIx) : (s.bind k c).rings = s.rings := rfl
@[simp] theorem State.bind_port (s : State) (k : Fin 126) (c : Option ChannelIx) : (s.bind k c).port = s.port := rfl
@[simp] theorem State.bind_store (s : State) (k : Fin 126) (c : Option ChannelIx) : (s.bind k c).store = s.store := rfl
@[simp] theorem State.bind_lamps (s : State) (k : Fin 126) (c : Option ChannelIx) : (s.bind k c).lamps = s.lamps := rfl
@[simp] theorem State.bind_trunks (s : State) (k : Fin 126) (c : Option ChannelIx) : (s.bind k c).trunks = s.trunks := rfl
@[simp] theorem State.bind_meters (s : State) (k : Fin 126) (c : Option ChannelIx) : (s.bind k c).meters = s.meters := rfl
@[simp] theorem State.bind_tariff (s : State) (k : Fin 126) (c : Option ChannelIx) : (s.bind k c).tariff = s.tariff := rfl
@[simp] theorem State.bind_charges (s : State) (k : Fin 126) (c : Option ChannelIx) : (s.bind k c).charges = s.charges := rfl

/-! ## push -/

@[simp] theorem State.push_pending (s : State) (f : OutFrame) : (s.push f).pending = s.pending := rfl
@[simp] theorem State.push_resetLow (s : State) (f : OutFrame) : (s.push f).resetLow = s.resetLow := rfl
@[simp] theorem State.push_highway (s : State) (f : OutFrame) : (s.push f).highway = s.highway := rfl
@[simp] theorem State.push_clock (s : State) (f : OutFrame) : (s.push f).clock = s.clock := rfl
@[simp] theorem State.push_service (s : State) (f : OutFrame) : (s.push f).service = s.service := rfl
@[simp] theorem State.push_attention (s : State) (f : OutFrame) : (s.push f).attention = s.attention := rfl
@[simp] theorem State.push_rooms (s : State) (f : OutFrame) : (s.push f).rooms = s.rooms := rfl
@[simp] theorem State.push_checkouts (s : State) (f : OutFrame) : (s.push f).checkouts = s.checkouts := rfl
@[simp] theorem State.push_directory (s : State) (f : OutFrame) : (s.push f).directory = s.directory := rfl
@[simp] theorem State.push_classes (s : State) (f : OutFrame) : (s.push f).classes = s.classes := rfl
@[simp] theorem State.push_channels (s : State) (f : OutFrame) : (s.push f).channels = s.channels := rfl
@[simp] theorem State.push_coder (s : State) (f : OutFrame) : (s.push f).coder = s.coder := rfl
@[simp] theorem State.push_rings (s : State) (f : OutFrame) : (s.push f).rings = s.rings := rfl
@[simp] theorem State.push_port (s : State) (f : OutFrame) : (s.push f).port = s.port := rfl
@[simp] theorem State.push_store (s : State) (f : OutFrame) : (s.push f).store = s.store := rfl
@[simp] theorem State.push_lamps (s : State) (f : OutFrame) : (s.push f).lamps = s.lamps := rfl
@[simp] theorem State.push_trunks (s : State) (f : OutFrame) : (s.push f).trunks = s.trunks := rfl
@[simp] theorem State.push_meters (s : State) (f : OutFrame) : (s.push f).meters = s.meters := rfl
@[simp] theorem State.push_tariff (s : State) (f : OutFrame) : (s.push f).tariff = s.tariff := rfl
@[simp] theorem State.push_charges (s : State) (f : OutFrame) : (s.push f).charges = s.charges := rfl

/-! ## updMessage -/

@[simp] theorem State.updMessage_pending (s : State) (n : Nat) (f : Message → Message) : (s.updMessage n f).pending = s.pending := rfl
@[simp] theorem State.updMessage_resetLow (s : State) (n : Nat) (f : Message → Message) : (s.updMessage n f).resetLow = s.resetLow := rfl
@[simp] theorem State.updMessage_highway (s : State) (n : Nat) (f : Message → Message) : (s.updMessage n f).highway = s.highway := rfl
@[simp] theorem State.updMessage_clock (s : State) (n : Nat) (f : Message → Message) : (s.updMessage n f).clock = s.clock := rfl
@[simp] theorem State.updMessage_link (s : State) (n : Nat) (f : Message → Message) : (s.updMessage n f).link = s.link := rfl
@[simp] theorem State.updMessage_service (s : State) (n : Nat) (f : Message → Message) : (s.updMessage n f).service = s.service := rfl
@[simp] theorem State.updMessage_attention (s : State) (n : Nat) (f : Message → Message) : (s.updMessage n f).attention = s.attention := rfl
@[simp] theorem State.updMessage_rooms (s : State) (n : Nat) (f : Message → Message) : (s.updMessage n f).rooms = s.rooms := rfl
@[simp] theorem State.updMessage_checkouts (s : State) (n : Nat) (f : Message → Message) : (s.updMessage n f).checkouts = s.checkouts := rfl
@[simp] theorem State.updMessage_directory (s : State) (n : Nat) (f : Message → Message) : (s.updMessage n f).directory = s.directory := rfl
@[simp] theorem State.updMessage_classes (s : State) (n : Nat) (f : Message → Message) : (s.updMessage n f).classes = s.classes := rfl
@[simp] theorem State.updMessage_channels (s : State) (n : Nat) (f : Message → Message) : (s.updMessage n f).channels = s.channels := rfl
@[simp] theorem State.updMessage_coder (s : State) (n : Nat) (f : Message → Message) : (s.updMessage n f).coder = s.coder := rfl
@[simp] theorem State.updMessage_rings (s : State) (n : Nat) (f : Message → Message) : (s.updMessage n f).rings = s.rings := rfl
@[simp] theorem State.updMessage_port (s : State) (n : Nat) (f : Message → Message) : (s.updMessage n f).port = s.port := rfl
@[simp] theorem State.updMessage_lamps (s : State) (n : Nat) (f : Message → Message) : (s.updMessage n f).lamps = s.lamps := rfl
@[simp] theorem State.updMessage_trunks (s : State) (n : Nat) (f : Message → Message) : (s.updMessage n f).trunks = s.trunks := rfl
@[simp] theorem State.updMessage_meters (s : State) (n : Nat) (f : Message → Message) : (s.updMessage n f).meters = s.meters := rfl
@[simp] theorem State.updMessage_tariff (s : State) (n : Nat) (f : Message → Message) : (s.updMessage n f).tariff = s.tariff := rfl
@[simp] theorem State.updMessage_charges (s : State) (n : Nat) (f : Message → Message) : (s.updMessage n f).charges = s.charges := rfl

/-! ## dropMessage -/

@[simp] theorem State.dropMessage_pending (s : State) (n : Nat) : (s.dropMessage n).pending = s.pending := rfl
@[simp] theorem State.dropMessage_resetLow (s : State) (n : Nat) : (s.dropMessage n).resetLow = s.resetLow := rfl
@[simp] theorem State.dropMessage_highway (s : State) (n : Nat) : (s.dropMessage n).highway = s.highway := rfl
@[simp] theorem State.dropMessage_clock (s : State) (n : Nat) : (s.dropMessage n).clock = s.clock := rfl
@[simp] theorem State.dropMessage_link (s : State) (n : Nat) : (s.dropMessage n).link = s.link := rfl
@[simp] theorem State.dropMessage_service (s : State) (n : Nat) : (s.dropMessage n).service = s.service := rfl
@[simp] theorem State.dropMessage_attention (s : State) (n : Nat) : (s.dropMessage n).attention = s.attention := rfl
@[simp] theorem State.dropMessage_rooms (s : State) (n : Nat) : (s.dropMessage n).rooms = s.rooms := rfl
@[simp] theorem State.dropMessage_checkouts (s : State) (n : Nat) : (s.dropMessage n).checkouts = s.checkouts := rfl
@[simp] theorem State.dropMessage_directory (s : State) (n : Nat) : (s.dropMessage n).directory = s.directory := rfl
@[simp] theorem State.dropMessage_classes (s : State) (n : Nat) : (s.dropMessage n).classes = s.classes := rfl
@[simp] theorem State.dropMessage_channels (s : State) (n : Nat) : (s.dropMessage n).channels = s.channels := rfl
@[simp] theorem State.dropMessage_coder (s : State) (n : Nat) : (s.dropMessage n).coder = s.coder := rfl
@[simp] theorem State.dropMessage_rings (s : State) (n : Nat) : (s.dropMessage n).rings = s.rings := rfl
@[simp] theorem State.dropMessage_port (s : State) (n : Nat) : (s.dropMessage n).port = s.port := rfl
@[simp] theorem State.dropMessage_lamps (s : State) (n : Nat) : (s.dropMessage n).lamps = s.lamps := rfl
@[simp] theorem State.dropMessage_trunks (s : State) (n : Nat) : (s.dropMessage n).trunks = s.trunks := rfl
@[simp] theorem State.dropMessage_meters (s : State) (n : Nat) : (s.dropMessage n).meters = s.meters := rfl
@[simp] theorem State.dropMessage_tariff (s : State) (n : Nat) : (s.dropMessage n).tariff = s.tariff := rfl
@[simp] theorem State.dropMessage_charges (s : State) (n : Nat) : (s.dropMessage n).charges = s.charges := rfl

/-! ## withLampQueue -/

@[simp] theorem State.withLampQueue_pending (s : State) (q : List RoomIx) : (s.withLampQueue q).pending = s.pending := rfl
@[simp] theorem State.withLampQueue_resetLow (s : State) (q : List RoomIx) : (s.withLampQueue q).resetLow = s.resetLow := rfl
@[simp] theorem State.withLampQueue_highway (s : State) (q : List RoomIx) : (s.withLampQueue q).highway = s.highway := rfl
@[simp] theorem State.withLampQueue_clock (s : State) (q : List RoomIx) : (s.withLampQueue q).clock = s.clock := rfl
@[simp] theorem State.withLampQueue_link (s : State) (q : List RoomIx) : (s.withLampQueue q).link = s.link := rfl
@[simp] theorem State.withLampQueue_service (s : State) (q : List RoomIx) : (s.withLampQueue q).service = s.service := rfl
@[simp] theorem State.withLampQueue_attention (s : State) (q : List RoomIx) : (s.withLampQueue q).attention = s.attention := rfl
@[simp] theorem State.withLampQueue_rooms (s : State) (q : List RoomIx) : (s.withLampQueue q).rooms = s.rooms := rfl
@[simp] theorem State.withLampQueue_checkouts (s : State) (q : List RoomIx) : (s.withLampQueue q).checkouts = s.checkouts := rfl
@[simp] theorem State.withLampQueue_directory (s : State) (q : List RoomIx) : (s.withLampQueue q).directory = s.directory := rfl
@[simp] theorem State.withLampQueue_classes (s : State) (q : List RoomIx) : (s.withLampQueue q).classes = s.classes := rfl
@[simp] theorem State.withLampQueue_channels (s : State) (q : List RoomIx) : (s.withLampQueue q).channels = s.channels := rfl
@[simp] theorem State.withLampQueue_coder (s : State) (q : List RoomIx) : (s.withLampQueue q).coder = s.coder := rfl
@[simp] theorem State.withLampQueue_rings (s : State) (q : List RoomIx) : (s.withLampQueue q).rings = s.rings := rfl
@[simp] theorem State.withLampQueue_port (s : State) (q : List RoomIx) : (s.withLampQueue q).port = s.port := rfl
@[simp] theorem State.withLampQueue_store (s : State) (q : List RoomIx) : (s.withLampQueue q).store = s.store := rfl
@[simp] theorem State.withLampQueue_trunks (s : State) (q : List RoomIx) : (s.withLampQueue q).trunks = s.trunks := rfl
@[simp] theorem State.withLampQueue_meters (s : State) (q : List RoomIx) : (s.withLampQueue q).meters = s.meters := rfl
@[simp] theorem State.withLampQueue_tariff (s : State) (q : List RoomIx) : (s.withLampQueue q).tariff = s.tariff := rfl
@[simp] theorem State.withLampQueue_charges (s : State) (q : List RoomIx) : (s.withLampQueue q).charges = s.charges := rfl

/-! ## setJob -/

@[simp] theorem State.setJob_pending (s : State) (j : Job) : (s.setJob j).pending = s.pending := rfl
@[simp] theorem State.setJob_resetLow (s : State) (j : Job) : (s.setJob j).resetLow = s.resetLow := rfl
@[simp] theorem State.setJob_highway (s : State) (j : Job) : (s.setJob j).highway = s.highway := rfl
@[simp] theorem State.setJob_clock (s : State) (j : Job) : (s.setJob j).clock = s.clock := rfl
@[simp] theorem State.setJob_link (s : State) (j : Job) : (s.setJob j).link = s.link := rfl
@[simp] theorem State.setJob_service (s : State) (j : Job) : (s.setJob j).service = s.service := rfl
@[simp] theorem State.setJob_attention (s : State) (j : Job) : (s.setJob j).attention = s.attention := rfl
@[simp] theorem State.setJob_rooms (s : State) (j : Job) : (s.setJob j).rooms = s.rooms := rfl
@[simp] theorem State.setJob_checkouts (s : State) (j : Job) : (s.setJob j).checkouts = s.checkouts := rfl
@[simp] theorem State.setJob_directory (s : State) (j : Job) : (s.setJob j).directory = s.directory := rfl
@[simp] theorem State.setJob_classes (s : State) (j : Job) : (s.setJob j).classes = s.classes := rfl
@[simp] theorem State.setJob_channels (s : State) (j : Job) : (s.setJob j).channels = s.channels := rfl
@[simp] theorem State.setJob_coder (s : State) (j : Job) : (s.setJob j).coder = s.coder := rfl
@[simp] theorem State.setJob_rings (s : State) (j : Job) : (s.setJob j).rings = s.rings := rfl
@[simp] theorem State.setJob_port (s : State) (j : Job) : (s.setJob j).port = s.port := rfl
@[simp] theorem State.setJob_lamps (s : State) (j : Job) : (s.setJob j).lamps = s.lamps := rfl
@[simp] theorem State.setJob_trunks (s : State) (j : Job) : (s.setJob j).trunks = s.trunks := rfl
@[simp] theorem State.setJob_meters (s : State) (j : Job) : (s.setJob j).meters = s.meters := rfl
@[simp] theorem State.setJob_tariff (s : State) (j : Job) : (s.setJob j).tariff = s.tariff := rfl
@[simp] theorem State.setJob_charges (s : State) (j : Job) : (s.setJob j).charges = s.charges := rfl

/-! ## setPrompt -/

@[simp] theorem State.setPrompt_pending (s : State) (i : PromptId) (e : Option PromptEntry) : (s.setPrompt i e).pending = s.pending := rfl
@[simp] theorem State.setPrompt_resetLow (s : State) (i : PromptId) (e : Option PromptEntry) : (s.setPrompt i e).resetLow = s.resetLow := rfl
@[simp] theorem State.setPrompt_highway (s : State) (i : PromptId) (e : Option PromptEntry) : (s.setPrompt i e).highway = s.highway := rfl
@[simp] theorem State.setPrompt_clock (s : State) (i : PromptId) (e : Option PromptEntry) : (s.setPrompt i e).clock = s.clock := rfl
@[simp] theorem State.setPrompt_link (s : State) (i : PromptId) (e : Option PromptEntry) : (s.setPrompt i e).link = s.link := rfl
@[simp] theorem State.setPrompt_service (s : State) (i : PromptId) (e : Option PromptEntry) : (s.setPrompt i e).service = s.service := rfl
@[simp] theorem State.setPrompt_attention (s : State) (i : PromptId) (e : Option PromptEntry) : (s.setPrompt i e).attention = s.attention := rfl
@[simp] theorem State.setPrompt_rooms (s : State) (i : PromptId) (e : Option PromptEntry) : (s.setPrompt i e).rooms = s.rooms := rfl
@[simp] theorem State.setPrompt_checkouts (s : State) (i : PromptId) (e : Option PromptEntry) : (s.setPrompt i e).checkouts = s.checkouts := rfl
@[simp] theorem State.setPrompt_directory (s : State) (i : PromptId) (e : Option PromptEntry) : (s.setPrompt i e).directory = s.directory := rfl
@[simp] theorem State.setPrompt_classes (s : State) (i : PromptId) (e : Option PromptEntry) : (s.setPrompt i e).classes = s.classes := rfl
@[simp] theorem State.setPrompt_channels (s : State) (i : PromptId) (e : Option PromptEntry) : (s.setPrompt i e).channels = s.channels := rfl
@[simp] theorem State.setPrompt_coder (s : State) (i : PromptId) (e : Option PromptEntry) : (s.setPrompt i e).coder = s.coder := rfl
@[simp] theorem State.setPrompt_rings (s : State) (i : PromptId) (e : Option PromptEntry) : (s.setPrompt i e).rings = s.rings := rfl
@[simp] theorem State.setPrompt_port (s : State) (i : PromptId) (e : Option PromptEntry) : (s.setPrompt i e).port = s.port := rfl
@[simp] theorem State.setPrompt_lamps (s : State) (i : PromptId) (e : Option PromptEntry) : (s.setPrompt i e).lamps = s.lamps := rfl
@[simp] theorem State.setPrompt_trunks (s : State) (i : PromptId) (e : Option PromptEntry) : (s.setPrompt i e).trunks = s.trunks := rfl
@[simp] theorem State.setPrompt_meters (s : State) (i : PromptId) (e : Option PromptEntry) : (s.setPrompt i e).meters = s.meters := rfl
@[simp] theorem State.setPrompt_tariff (s : State) (i : PromptId) (e : Option PromptEntry) : (s.setPrompt i e).tariff = s.tariff := rfl
@[simp] theorem State.setPrompt_charges (s : State) (i : PromptId) (e : Option PromptEntry) : (s.setPrompt i e).charges = s.charges := rfl

/-! ## Reading a record back -/

theorem State.room_setRoom (s : State) (r r' : RoomIx) (x : Room) :
    (s.setRoom r x).room r' = if r = r' then x else s.room r' := by
  simp [State.room, State.setRoom, Vector.getElem_set, Fin.ext_iff]

@[simp] theorem State.room_setRoom_same (s : State) (r : RoomIx) (x : Room) : (s.setRoom r x).room r = x := by
  simp [State.room_setRoom]

theorem State.room_updRoom (s : State) (r r' : RoomIx) (f : Room → Room) :
    (s.updRoom r f).room r' = if r = r' then f (s.room r) else s.room r' := State.room_setRoom ..

@[simp] theorem State.room_updRoom_same (s : State) (r : RoomIx) (f : Room → Room) :
    (s.updRoom r f).room r = f (s.room r) := by simp [State.room_updRoom]

theorem State.room_updLamp (s : State) (r r' : RoomIx) (f : LampRecord → LampRecord) :
    (s.updLamp r f).room r' = if r = r' then { s.room r with lamp := f (s.room r).lamp } else s.room r' :=
  State.room_updRoom ..

@[simp] theorem State.room_updLamp_same (s : State) (r : RoomIx) (f : LampRecord → LampRecord) :
    (s.updLamp r f).room r = { s.room r with lamp := f (s.room r).lamp } := State.room_updRoom_same ..

theorem State.chan_updChan (s : State) (c c' : ChannelIx) (f : Channel → Channel) :
    (s.updChan c f).chan c' = if c = c' then f (s.chan c) else s.chan c' := by
  simp [State.chan, State.updChan, Vector.getElem_set, Fin.ext_iff]

@[simp] theorem State.chan_updChan_same (s : State) (c : ChannelIx) (f : Channel → Channel) :
    (s.updChan c f).chan c = f (s.chan c) := by simp [State.chan_updChan]

theorem State.ring_updRing (s : State) (c c' : ChannelIx) (f : Ring → Ring) :
    (s.updRing c f).ring c' = if c = c' then f (s.ring c) else s.ring c' := by
  simp [State.ring, State.updRing, Vector.getElem_set, Fin.ext_iff]

@[simp] theorem State.ring_updRing_same (s : State) (c : ChannelIx) (f : Ring → Ring) :
    (s.updRing c f).ring c = f (s.ring c) := by simp [State.ring_updRing]

theorem State.encoder_updEncoder (s : State) (c c' : ChannelIx) (f : Encoder → Encoder) :
    (s.updEncoder c f).encoder c' = if c = c' then f (s.encoder c) else s.encoder c' := by
  simp [State.encoder, State.updEncoder, Vector.getElem_set, Fin.ext_iff]

@[simp] theorem State.encoder_updEncoder_same (s : State) (c : ChannelIx) (f : Encoder → Encoder) :
    (s.updEncoder c f).encoder c = f (s.encoder c) := by simp [State.encoder_updEncoder]

theorem State.decoder_updDecoder (s : State) (c c' : ChannelIx) (f : Decoder → Decoder) :
    (s.updDecoder c f).decoder c' = if c = c' then f (s.decoder c) else s.decoder c' := by
  simp [State.decoder, State.updDecoder, Vector.getElem_set, Fin.ext_iff]

@[simp] theorem State.decoder_updDecoder_same (s : State) (c : ChannelIx) (f : Decoder → Decoder) :
    (s.updDecoder c f).decoder c = f (s.decoder c) := by simp [State.decoder_updDecoder]

@[simp] theorem State.encoder_updDecoder (s : State) (c c' : ChannelIx) (f : Decoder → Decoder) :
    (s.updDecoder c f).encoder c' = s.encoder c' := rfl

@[simp] theorem State.decoder_updEncoder (s : State) (c c' : ChannelIx) (f : Encoder → Encoder) :
    (s.updEncoder c f).decoder c' = s.decoder c' := rfl

theorem State.trunk_updTrunk (s : State) (t t' : TrunkIx) (f : Trunk → Trunk) :
    (s.updTrunk t f).trunk t' = if t = t' then f (s.trunk t) else s.trunk t' := by
  simp [State.trunk, State.updTrunk, Vector.getElem_set, Fin.ext_iff]

@[simp] theorem State.trunk_updTrunk_same (s : State) (t : TrunkIx) (f : Trunk → Trunk) :
    (s.updTrunk t f).trunk t = f (s.trunk t) := by simp [State.trunk_updTrunk]

theorem State.meter_setMeter (s : State) (m m' : MeterIx) (x : Option Meter) :
    (s.setMeter m x).meter m' = if m = m' then x else s.meter m' := by
  simp [State.meter, State.setMeter, Vector.getElem_set, Fin.ext_iff]

@[simp] theorem State.meter_setMeter_same (s : State) (m : MeterIx) (x : Option Meter) :
    (s.setMeter m x).meter m = x := by simp [State.meter_setMeter]

theorem State.bindings_bind (s : State) (k k' : Fin 126) (c : Option ChannelIx) :
    (s.bind k c).highway.bindings[k'] = if k = k' then c else s.highway.bindings[k'] := by
  simp [State.bind, Vector.getElem_set, Fin.ext_iff]

/-! ## Records that an update does not write -/

@[simp] theorem State.chan_setRoom (s : State) (r : RoomIx) (x : Room) (c' : ChannelIx) : (s.setRoom r x).chan c' = s.chan c' := rfl
@[simp] theorem State.ring_setRoom (s : State) (r : RoomIx) (x : Room) (c' : ChannelIx) : (s.setRoom r x).ring c' = s.ring c' := rfl
@[simp] theorem State.encoder_setRoom (s : State) (r : RoomIx) (x : Room) (c' : ChannelIx) : (s.setRoom r x).encoder c' = s.encoder c' := rfl
@[simp] theorem State.decoder_setRoom (s : State) (r : RoomIx) (x : Room) (c' : ChannelIx) : (s.setRoom r x).decoder c' = s.decoder c' := rfl
@[simp] theorem State.trunk_setRoom (s : State) (r : RoomIx) (x : Room) (t' : TrunkIx) : (s.setRoom r x).trunk t' = s.trunk t' := rfl
@[simp] theorem State.meter_setRoom (s : State) (r : RoomIx) (x : Room) (m' : MeterIx) : (s.setRoom r x).meter m' = s.meter m' := rfl
@[simp] theorem State.message_setRoom (s : State) (r : RoomIx) (x : Room) (n' : Nat) : (s.setRoom r x).message n' = s.message n' := rfl
@[simp] theorem State.chan_updRoom (s : State) (r : RoomIx) (f : Room → Room) (c' : ChannelIx) : (s.updRoom r f).chan c' = s.chan c' := rfl
@[simp] theorem State.ring_updRoom (s : State) (r : RoomIx) (f : Room → Room) (c' : ChannelIx) : (s.updRoom r f).ring c' = s.ring c' := rfl
@[simp] theorem State.encoder_updRoom (s : State) (r : RoomIx) (f : Room → Room) (c' : ChannelIx) : (s.updRoom r f).encoder c' = s.encoder c' := rfl
@[simp] theorem State.decoder_updRoom (s : State) (r : RoomIx) (f : Room → Room) (c' : ChannelIx) : (s.updRoom r f).decoder c' = s.decoder c' := rfl
@[simp] theorem State.trunk_updRoom (s : State) (r : RoomIx) (f : Room → Room) (t' : TrunkIx) : (s.updRoom r f).trunk t' = s.trunk t' := rfl
@[simp] theorem State.meter_updRoom (s : State) (r : RoomIx) (f : Room → Room) (m' : MeterIx) : (s.updRoom r f).meter m' = s.meter m' := rfl
@[simp] theorem State.message_updRoom (s : State) (r : RoomIx) (f : Room → Room) (n' : Nat) : (s.updRoom r f).message n' = s.message n' := rfl
@[simp] theorem State.chan_updLamp (s : State) (r : RoomIx) (f : LampRecord → LampRecord) (c' : ChannelIx) : (s.updLamp r f).chan c' = s.chan c' := rfl
@[simp] theorem State.ring_updLamp (s : State) (r : RoomIx) (f : LampRecord → LampRecord) (c' : ChannelIx) : (s.updLamp r f).ring c' = s.ring c' := rfl
@[simp] theorem State.encoder_updLamp (s : State) (r : RoomIx) (f : LampRecord → LampRecord) (c' : ChannelIx) : (s.updLamp r f).encoder c' = s.encoder c' := rfl
@[simp] theorem State.decoder_updLamp (s : State) (r : RoomIx) (f : LampRecord → LampRecord) (c' : ChannelIx) : (s.updLamp r f).decoder c' = s.decoder c' := rfl
@[simp] theorem State.trunk_updLamp (s : State) (r : RoomIx) (f : LampRecord → LampRecord) (t' : TrunkIx) : (s.updLamp r f).trunk t' = s.trunk t' := rfl
@[simp] theorem State.meter_updLamp (s : State) (r : RoomIx) (f : LampRecord → LampRecord) (m' : MeterIx) : (s.updLamp r f).meter m' = s.meter m' := rfl
@[simp] theorem State.message_updLamp (s : State) (r : RoomIx) (f : LampRecord → LampRecord) (n' : Nat) : (s.updLamp r f).message n' = s.message n' := rfl
@[simp] theorem State.room_updChan (s : State) (c : ChannelIx) (f : Channel → Channel) (r' : RoomIx) : (s.updChan c f).room r' = s.room r' := rfl
@[simp] theorem State.ring_updChan (s : State) (c : ChannelIx) (f : Channel → Channel) (c' : ChannelIx) : (s.updChan c f).ring c' = s.ring c' := rfl
@[simp] theorem State.encoder_updChan (s : State) (c : ChannelIx) (f : Channel → Channel) (c' : ChannelIx) : (s.updChan c f).encoder c' = s.encoder c' := rfl
@[simp] theorem State.decoder_updChan (s : State) (c : ChannelIx) (f : Channel → Channel) (c' : ChannelIx) : (s.updChan c f).decoder c' = s.decoder c' := rfl
@[simp] theorem State.trunk_updChan (s : State) (c : ChannelIx) (f : Channel → Channel) (t' : TrunkIx) : (s.updChan c f).trunk t' = s.trunk t' := rfl
@[simp] theorem State.meter_updChan (s : State) (c : ChannelIx) (f : Channel → Channel) (m' : MeterIx) : (s.updChan c f).meter m' = s.meter m' := rfl
@[simp] theorem State.message_updChan (s : State) (c : ChannelIx) (f : Channel → Channel) (n' : Nat) : (s.updChan c f).message n' = s.message n' := rfl
@[simp] theorem State.room_updRing (s : State) (c : ChannelIx) (f : Ring → Ring) (r' : RoomIx) : (s.updRing c f).room r' = s.room r' := rfl
@[simp] theorem State.chan_updRing (s : State) (c : ChannelIx) (f : Ring → Ring) (c' : ChannelIx) : (s.updRing c f).chan c' = s.chan c' := rfl
@[simp] theorem State.encoder_updRing (s : State) (c : ChannelIx) (f : Ring → Ring) (c' : ChannelIx) : (s.updRing c f).encoder c' = s.encoder c' := rfl
@[simp] theorem State.decoder_updRing (s : State) (c : ChannelIx) (f : Ring → Ring) (c' : ChannelIx) : (s.updRing c f).decoder c' = s.decoder c' := rfl
@[simp] theorem State.trunk_updRing (s : State) (c : ChannelIx) (f : Ring → Ring) (t' : TrunkIx) : (s.updRing c f).trunk t' = s.trunk t' := rfl
@[simp] theorem State.meter_updRing (s : State) (c : ChannelIx) (f : Ring → Ring) (m' : MeterIx) : (s.updRing c f).meter m' = s.meter m' := rfl
@[simp] theorem State.message_updRing (s : State) (c : ChannelIx) (f : Ring → Ring) (n' : Nat) : (s.updRing c f).message n' = s.message n' := rfl
@[simp] theorem State.room_updEncoder (s : State) (c : ChannelIx) (f : Encoder → Encoder) (r' : RoomIx) : (s.updEncoder c f).room r' = s.room r' := rfl
@[simp] theorem State.chan_updEncoder (s : State) (c : ChannelIx) (f : Encoder → Encoder) (c' : ChannelIx) : (s.updEncoder c f).chan c' = s.chan c' := rfl
@[simp] theorem State.ring_updEncoder (s : State) (c : ChannelIx) (f : Encoder → Encoder) (c' : ChannelIx) : (s.updEncoder c f).ring c' = s.ring c' := rfl
@[simp] theorem State.trunk_updEncoder (s : State) (c : ChannelIx) (f : Encoder → Encoder) (t' : TrunkIx) : (s.updEncoder c f).trunk t' = s.trunk t' := rfl
@[simp] theorem State.meter_updEncoder (s : State) (c : ChannelIx) (f : Encoder → Encoder) (m' : MeterIx) : (s.updEncoder c f).meter m' = s.meter m' := rfl
@[simp] theorem State.message_updEncoder (s : State) (c : ChannelIx) (f : Encoder → Encoder) (n' : Nat) : (s.updEncoder c f).message n' = s.message n' := rfl
@[simp] theorem State.room_updDecoder (s : State) (c : ChannelIx) (f : Decoder → Decoder) (r' : RoomIx) : (s.updDecoder c f).room r' = s.room r' := rfl
@[simp] theorem State.chan_updDecoder (s : State) (c : ChannelIx) (f : Decoder → Decoder) (c' : ChannelIx) : (s.updDecoder c f).chan c' = s.chan c' := rfl
@[simp] theorem State.ring_updDecoder (s : State) (c : ChannelIx) (f : Decoder → Decoder) (c' : ChannelIx) : (s.updDecoder c f).ring c' = s.ring c' := rfl
@[simp] theorem State.trunk_updDecoder (s : State) (c : ChannelIx) (f : Decoder → Decoder) (t' : TrunkIx) : (s.updDecoder c f).trunk t' = s.trunk t' := rfl
@[simp] theorem State.meter_updDecoder (s : State) (c : ChannelIx) (f : Decoder → Decoder) (m' : MeterIx) : (s.updDecoder c f).meter m' = s.meter m' := rfl
@[simp] theorem State.message_updDecoder (s : State) (c : ChannelIx) (f : Decoder → Decoder) (n' : Nat) : (s.updDecoder c f).message n' = s.message n' := rfl
@[simp] theorem State.room_updTrunk (s : State) (t : TrunkIx) (f : Trunk → Trunk) (r' : RoomIx) : (s.updTrunk t f).room r' = s.room r' := rfl
@[simp] theorem State.chan_updTrunk (s : State) (t : TrunkIx) (f : Trunk → Trunk) (c' : ChannelIx) : (s.updTrunk t f).chan c' = s.chan c' := rfl
@[simp] theorem State.ring_updTrunk (s : State) (t : TrunkIx) (f : Trunk → Trunk) (c' : ChannelIx) : (s.updTrunk t f).ring c' = s.ring c' := rfl
@[simp] theorem State.encoder_updTrunk (s : State) (t : TrunkIx) (f : Trunk → Trunk) (c' : ChannelIx) : (s.updTrunk t f).encoder c' = s.encoder c' := rfl
@[simp] theorem State.decoder_updTrunk (s : State) (t : TrunkIx) (f : Trunk → Trunk) (c' : ChannelIx) : (s.updTrunk t f).decoder c' = s.decoder c' := rfl
@[simp] theorem State.meter_updTrunk (s : State) (t : TrunkIx) (f : Trunk → Trunk) (m' : MeterIx) : (s.updTrunk t f).meter m' = s.meter m' := rfl
@[simp] theorem State.message_updTrunk (s : State) (t : TrunkIx) (f : Trunk → Trunk) (n' : Nat) : (s.updTrunk t f).message n' = s.message n' := rfl
@[simp] theorem State.room_setMeter (s : State) (m : MeterIx) (x : Option Meter) (r' : RoomIx) : (s.setMeter m x).room r' = s.room r' := rfl
@[simp] theorem State.chan_setMeter (s : State) (m : MeterIx) (x : Option Meter) (c' : ChannelIx) : (s.setMeter m x).chan c' = s.chan c' := rfl
@[simp] theorem State.ring_setMeter (s : State) (m : MeterIx) (x : Option Meter) (c' : ChannelIx) : (s.setMeter m x).ring c' = s.ring c' := rfl
@[simp] theorem State.encoder_setMeter (s : State) (m : MeterIx) (x : Option Meter) (c' : ChannelIx) : (s.setMeter m x).encoder c' = s.encoder c' := rfl
@[simp] theorem State.decoder_setMeter (s : State) (m : MeterIx) (x : Option Meter) (c' : ChannelIx) : (s.setMeter m x).decoder c' = s.decoder c' := rfl
@[simp] theorem State.trunk_setMeter (s : State) (m : MeterIx) (x : Option Meter) (t' : TrunkIx) : (s.setMeter m x).trunk t' = s.trunk t' := rfl
@[simp] theorem State.message_setMeter (s : State) (m : MeterIx) (x : Option Meter) (n' : Nat) : (s.setMeter m x).message n' = s.message n' := rfl
@[simp] theorem State.room_bind (s : State) (k : Fin 126) (c : Option ChannelIx) (r' : RoomIx) : (s.bind k c).room r' = s.room r' := rfl
@[simp] theorem State.chan_bind (s : State) (k : Fin 126) (c : Option ChannelIx) (c' : ChannelIx) : (s.bind k c).chan c' = s.chan c' := rfl
@[simp] theorem State.ring_bind (s : State) (k : Fin 126) (c : Option ChannelIx) (c' : ChannelIx) : (s.bind k c).ring c' = s.ring c' := rfl
@[simp] theorem State.encoder_bind (s : State) (k : Fin 126) (c : Option ChannelIx) (c' : ChannelIx) : (s.bind k c).encoder c' = s.encoder c' := rfl
@[simp] theorem State.decoder_bind (s : State) (k : Fin 126) (c : Option ChannelIx) (c' : ChannelIx) : (s.bind k c).decoder c' = s.decoder c' := rfl
@[simp] theorem State.trunk_bind (s : State) (k : Fin 126) (c : Option ChannelIx) (t' : TrunkIx) : (s.bind k c).trunk t' = s.trunk t' := rfl
@[simp] theorem State.meter_bind (s : State) (k : Fin 126) (c : Option ChannelIx) (m' : MeterIx) : (s.bind k c).meter m' = s.meter m' := rfl
@[simp] theorem State.message_bind (s : State) (k : Fin 126) (c : Option ChannelIx) (n' : Nat) : (s.bind k c).message n' = s.message n' := rfl
@[simp] theorem State.room_push (s : State) (f : OutFrame) (r' : RoomIx) : (s.push f).room r' = s.room r' := rfl
@[simp] theorem State.chan_push (s : State) (f : OutFrame) (c' : ChannelIx) : (s.push f).chan c' = s.chan c' := rfl
@[simp] theorem State.ring_push (s : State) (f : OutFrame) (c' : ChannelIx) : (s.push f).ring c' = s.ring c' := rfl
@[simp] theorem State.encoder_push (s : State) (f : OutFrame) (c' : ChannelIx) : (s.push f).encoder c' = s.encoder c' := rfl
@[simp] theorem State.decoder_push (s : State) (f : OutFrame) (c' : ChannelIx) : (s.push f).decoder c' = s.decoder c' := rfl
@[simp] theorem State.trunk_push (s : State) (f : OutFrame) (t' : TrunkIx) : (s.push f).trunk t' = s.trunk t' := rfl
@[simp] theorem State.meter_push (s : State) (f : OutFrame) (m' : MeterIx) : (s.push f).meter m' = s.meter m' := rfl
@[simp] theorem State.message_push (s : State) (f : OutFrame) (n' : Nat) : (s.push f).message n' = s.message n' := rfl
@[simp] theorem State.room_updMessage (s : State) (n : Nat) (f : Message → Message) (r' : RoomIx) : (s.updMessage n f).room r' = s.room r' := rfl
@[simp] theorem State.chan_updMessage (s : State) (n : Nat) (f : Message → Message) (c' : ChannelIx) : (s.updMessage n f).chan c' = s.chan c' := rfl
@[simp] theorem State.ring_updMessage (s : State) (n : Nat) (f : Message → Message) (c' : ChannelIx) : (s.updMessage n f).ring c' = s.ring c' := rfl
@[simp] theorem State.encoder_updMessage (s : State) (n : Nat) (f : Message → Message) (c' : ChannelIx) : (s.updMessage n f).encoder c' = s.encoder c' := rfl
@[simp] theorem State.decoder_updMessage (s : State) (n : Nat) (f : Message → Message) (c' : ChannelIx) : (s.updMessage n f).decoder c' = s.decoder c' := rfl
@[simp] theorem State.trunk_updMessage (s : State) (n : Nat) (f : Message → Message) (t' : TrunkIx) : (s.updMessage n f).trunk t' = s.trunk t' := rfl
@[simp] theorem State.meter_updMessage (s : State) (n : Nat) (f : Message → Message) (m' : MeterIx) : (s.updMessage n f).meter m' = s.meter m' := rfl
@[simp] theorem State.room_dropMessage (s : State) (n : Nat) (r' : RoomIx) : (s.dropMessage n).room r' = s.room r' := rfl
@[simp] theorem State.chan_dropMessage (s : State) (n : Nat) (c' : ChannelIx) : (s.dropMessage n).chan c' = s.chan c' := rfl
@[simp] theorem State.ring_dropMessage (s : State) (n : Nat) (c' : ChannelIx) : (s.dropMessage n).ring c' = s.ring c' := rfl
@[simp] theorem State.encoder_dropMessage (s : State) (n : Nat) (c' : ChannelIx) : (s.dropMessage n).encoder c' = s.encoder c' := rfl
@[simp] theorem State.decoder_dropMessage (s : State) (n : Nat) (c' : ChannelIx) : (s.dropMessage n).decoder c' = s.decoder c' := rfl
@[simp] theorem State.trunk_dropMessage (s : State) (n : Nat) (t' : TrunkIx) : (s.dropMessage n).trunk t' = s.trunk t' := rfl
@[simp] theorem State.meter_dropMessage (s : State) (n : Nat) (m' : MeterIx) : (s.dropMessage n).meter m' = s.meter m' := rfl
@[simp] theorem State.room_withLampQueue (s : State) (q : List RoomIx) (r' : RoomIx) : (s.withLampQueue q).room r' = s.room r' := rfl
@[simp] theorem State.chan_withLampQueue (s : State) (q : List RoomIx) (c' : ChannelIx) : (s.withLampQueue q).chan c' = s.chan c' := rfl
@[simp] theorem State.ring_withLampQueue (s : State) (q : List RoomIx) (c' : ChannelIx) : (s.withLampQueue q).ring c' = s.ring c' := rfl
@[simp] theorem State.encoder_withLampQueue (s : State) (q : List RoomIx) (c' : ChannelIx) : (s.withLampQueue q).encoder c' = s.encoder c' := rfl
@[simp] theorem State.decoder_withLampQueue (s : State) (q : List RoomIx) (c' : ChannelIx) : (s.withLampQueue q).decoder c' = s.decoder c' := rfl
@[simp] theorem State.trunk_withLampQueue (s : State) (q : List RoomIx) (t' : TrunkIx) : (s.withLampQueue q).trunk t' = s.trunk t' := rfl
@[simp] theorem State.meter_withLampQueue (s : State) (q : List RoomIx) (m' : MeterIx) : (s.withLampQueue q).meter m' = s.meter m' := rfl
@[simp] theorem State.message_withLampQueue (s : State) (q : List RoomIx) (n' : Nat) : (s.withLampQueue q).message n' = s.message n' := rfl
@[simp] theorem State.room_setJob (s : State) (j : Job) (r' : RoomIx) : (s.setJob j).room r' = s.room r' := rfl
@[simp] theorem State.chan_setJob (s : State) (j : Job) (c' : ChannelIx) : (s.setJob j).chan c' = s.chan c' := rfl
@[simp] theorem State.ring_setJob (s : State) (j : Job) (c' : ChannelIx) : (s.setJob j).ring c' = s.ring c' := rfl
@[simp] theorem State.encoder_setJob (s : State) (j : Job) (c' : ChannelIx) : (s.setJob j).encoder c' = s.encoder c' := rfl
@[simp] theorem State.decoder_setJob (s : State) (j : Job) (c' : ChannelIx) : (s.setJob j).decoder c' = s.decoder c' := rfl
@[simp] theorem State.trunk_setJob (s : State) (j : Job) (t' : TrunkIx) : (s.setJob j).trunk t' = s.trunk t' := rfl
@[simp] theorem State.meter_setJob (s : State) (j : Job) (m' : MeterIx) : (s.setJob j).meter m' = s.meter m' := rfl
@[simp] theorem State.room_setPrompt (s : State) (i : PromptId) (e : Option PromptEntry) (r' : RoomIx) : (s.setPrompt i e).room r' = s.room r' := rfl
@[simp] theorem State.chan_setPrompt (s : State) (i : PromptId) (e : Option PromptEntry) (c' : ChannelIx) : (s.setPrompt i e).chan c' = s.chan c' := rfl
@[simp] theorem State.ring_setPrompt (s : State) (i : PromptId) (e : Option PromptEntry) (c' : ChannelIx) : (s.setPrompt i e).ring c' = s.ring c' := rfl
@[simp] theorem State.encoder_setPrompt (s : State) (i : PromptId) (e : Option PromptEntry) (c' : ChannelIx) : (s.setPrompt i e).encoder c' = s.encoder c' := rfl
@[simp] theorem State.decoder_setPrompt (s : State) (i : PromptId) (e : Option PromptEntry) (c' : ChannelIx) : (s.setPrompt i e).decoder c' = s.decoder c' := rfl
@[simp] theorem State.trunk_setPrompt (s : State) (i : PromptId) (e : Option PromptEntry) (t' : TrunkIx) : (s.setPrompt i e).trunk t' = s.trunk t' := rfl
@[simp] theorem State.meter_setPrompt (s : State) (i : PromptId) (e : Option PromptEntry) (m' : MeterIx) : (s.setPrompt i e).meter m' = s.meter m' := rfl

end Sys2Proof.Machine
end

