-- ==== Sys2Proof/Laws/Ops.lean ====
section
/-! SUPPORT. What the shared operations of Machine/Ops.lean and Machine/Rooms.lean leave as it was. Each lemma is a conjunction of equations that `simp`
reads one by one; the fields it does not name are those the operation may write. -/

namespace Sys2Proof.Machine

@[simp] theorem place_frame (k : Attention) (s : State) :
    (place k s).pending = s.pending ∧
    (place k s).resetLow = s.resetLow ∧
    (place k s).highway = s.highway ∧
    (place k s).clock = s.clock ∧
    (place k s).service = s.service ∧
    (place k s).rooms = s.rooms ∧
    (place k s).checkouts = s.checkouts ∧
    (place k s).directory = s.directory ∧
    (place k s).classes = s.classes ∧
    (place k s).channels = s.channels ∧
    (place k s).coder = s.coder ∧
    (place k s).rings = s.rings ∧
    (place k s).port = s.port ∧
    (place k s).store = s.store ∧
    (place k s).lamps = s.lamps ∧
    (place k s).trunks = s.trunks ∧
    (place k s).meters = s.meters ∧
    (place k s).tariff = s.tariff ∧
    (place k s).charges = s.charges := by
  unfold place
  try dsimp only
  repeat' split
  all_goals simp

@[simp] theorem offerNotice_frame (f : OutFrame) (s : State) :
    (offerNotice f s).pending = s.pending ∧
    (offerNotice f s).resetLow = s.resetLow ∧
    (offerNotice f s).highway = s.highway ∧
    (offerNotice f s).clock = s.clock ∧
    (offerNotice f s).service = s.service ∧
    (offerNotice f s).rooms = s.rooms ∧
    (offerNotice f s).checkouts = s.checkouts ∧
    (offerNotice f s).directory = s.directory ∧
    (offerNotice f s).classes = s.classes ∧
    (offerNotice f s).channels = s.channels ∧
    (offerNotice f s).coder = s.coder ∧
    (offerNotice f s).rings = s.rings ∧
    (offerNotice f s).port = s.port ∧
    (offerNotice f s).store = s.store ∧
    (offerNotice f s).lamps = s.lamps ∧
    (offerNotice f s).trunks = s.trunks ∧
    (offerNotice f s).meters = s.meters ∧
    (offerNotice f s).tariff = s.tariff ∧
    (offerNotice f s).charges = s.charges := by
  unfold offerNotice
  try dsimp only
  repeat' split
  all_goals simp

@[simp] theorem buildReply_frame (st : Status) (data : List Octet) (s : State) :
    (buildReply st data s).pending = s.pending ∧
    (buildReply st data s).resetLow = s.resetLow ∧
    (buildReply st data s).highway = s.highway ∧
    (buildReply st data s).clock = s.clock ∧
    (buildReply st data s).service = s.service ∧
    (buildReply st data s).attention = s.attention ∧
    (buildReply st data s).rooms = s.rooms ∧
    (buildReply st data s).checkouts = s.checkouts ∧
    (buildReply st data s).directory = s.directory ∧
    (buildReply st data s).classes = s.classes ∧
    (buildReply st data s).channels = s.channels ∧
    (buildReply st data s).coder = s.coder ∧
    (buildReply st data s).rings = s.rings ∧
    (buildReply st data s).port = s.port ∧
    (buildReply st data s).store = s.store ∧
    (buildReply st data s).lamps = s.lamps ∧
    (buildReply st data s).trunks = s.trunks ∧
    (buildReply st data s).meters = s.meters ∧
    (buildReply st data s).tariff = s.tariff ∧
    (buildReply st data s).charges = s.charges := by
  unfold buildReply
  try dsimp only
  repeat' split
  all_goals simp

@[simp] theorem drainTest_frame (s : State) :
    (drainTest s).pending = s.pending ∧
    (drainTest s).resetLow = s.resetLow ∧
    (drainTest s).highway = s.highway ∧
    (drainTest s).clock = s.clock ∧
    (drainTest s).link = s.link ∧
    (drainTest s).attention = s.attention ∧
    (drainTest s).rooms = s.rooms ∧
    (drainTest s).checkouts = s.checkouts ∧
    (drainTest s).directory = s.directory ∧
    (drainTest s).classes = s.classes ∧
    (drainTest s).channels = s.channels ∧
    (drainTest s).coder = s.coder ∧
    (drainTest s).rings = s.rings ∧
    (drainTest s).port = s.port ∧
    (drainTest s).store = s.store ∧
    (drainTest s).lamps = s.lamps ∧
    (drainTest s).trunks = s.trunks ∧
    (drainTest s).meters = s.meters ∧
    (drainTest s).tariff = s.tariff ∧
    (drainTest s).charges = s.charges := by
  unfold drainTest
  try dsimp only
  repeat' split
  all_goals simp

@[simp] theorem evaluateBarring_frame (r : RoomIx) (s : State) :
    (evaluateBarring r s).pending = s.pending ∧
    (evaluateBarring r s).resetLow = s.resetLow ∧
    (evaluateBarring r s).highway = s.highway ∧
    (evaluateBarring r s).clock = s.clock ∧
    (evaluateBarring r s).link = s.link ∧
    (evaluateBarring r s).service = s.service ∧
    (evaluateBarring r s).attention = s.attention ∧
    (evaluateBarring r s).checkouts = s.checkouts ∧
    (evaluateBarring r s).directory = s.directory ∧
    (evaluateBarring r s).classes = s.classes ∧
    (evaluateBarring r s).channels = s.channels ∧
    (evaluateBarring r s).coder = s.coder ∧
    (evaluateBarring r s).rings = s.rings ∧
    (evaluateBarring r s).port = s.port ∧
    (evaluateBarring r s).store = s.store ∧
    (evaluateBarring r s).lamps = s.lamps ∧
    (evaluateBarring r s).trunks = s.trunks ∧
    (evaluateBarring r s).meters = s.meters ∧
    (evaluateBarring r s).tariff = s.tariff ∧
    (evaluateBarring r s).charges = s.charges := by
  unfold evaluateBarring
  try dsimp only
  repeat' split
  all_goals simp

@[simp] theorem evaluateLamp_frame (r : RoomIx) (s : State) :
    (evaluateLamp r s).pending = s.pending ∧
    (evaluateLamp r s).resetLow = s.resetLow ∧
    (evaluateLamp r s).highway = s.highway ∧
    (evaluateLamp r s).clock = s.clock ∧
    (evaluateLamp r s).link = s.link ∧
    (evaluateLamp r s).service = s.service ∧
    (evaluateLamp r s).attention = s.attention ∧
    (evaluateLamp r s).checkouts = s.checkouts ∧
    (evaluateLamp r s).directory = s.directory ∧
    (evaluateLamp r s).classes = s.classes ∧
    (evaluateLamp r s).channels = s.channels ∧
    (evaluateLamp r s).coder = s.coder ∧
    (evaluateLamp r s).rings = s.rings ∧
    (evaluateLamp r s).port = s.port ∧
    (evaluateLamp r s).store = s.store ∧
    (evaluateLamp r s).trunks = s.trunks ∧
    (evaluateLamp r s).meters = s.meters ∧
    (evaluateLamp r s).tariff = s.tariff ∧
    (evaluateLamp r s).charges = s.charges := by
  unfold evaluateLamp
  try dsimp only
  repeat' split
  all_goals simp

@[simp] theorem evaluateRoom_frame (r : RoomIx) (s : State) :
    (evaluateRoom r s).pending = s.pending ∧
    (evaluateRoom r s).resetLow = s.resetLow ∧
    (evaluateRoom r s).highway = s.highway ∧
    (evaluateRoom r s).clock = s.clock ∧
    (evaluateRoom r s).link = s.link ∧
    (evaluateRoom r s).service = s.service ∧
    (evaluateRoom r s).attention = s.attention ∧
    (evaluateRoom r s).checkouts = s.checkouts ∧
    (evaluateRoom r s).directory = s.directory ∧
    (evaluateRoom r s).classes = s.classes ∧
    (evaluateRoom r s).channels = s.channels ∧
    (evaluateRoom r s).coder = s.coder ∧
    (evaluateRoom r s).rings = s.rings ∧
    (evaluateRoom r s).port = s.port ∧
    (evaluateRoom r s).store = s.store ∧
    (evaluateRoom r s).trunks = s.trunks ∧
    (evaluateRoom r s).meters = s.meters ∧
    (evaluateRoom r s).tariff = s.tariff ∧
    (evaluateRoom r s).charges = s.charges := by
  unfold evaluateRoom
  try dsimp only
  repeat' split
  all_goals simp

@[simp] theorem appendCharge_frame (c : ChargeRecord) (s : State) :
    (appendCharge c s).pending = s.pending ∧
    (appendCharge c s).resetLow = s.resetLow ∧
    (appendCharge c s).highway = s.highway ∧
    (appendCharge c s).clock = s.clock ∧
    (appendCharge c s).service = s.service ∧
    (appendCharge c s).rooms = s.rooms ∧
    (appendCharge c s).checkouts = s.checkouts ∧
    (appendCharge c s).directory = s.directory ∧
    (appendCharge c s).classes = s.classes ∧
    (appendCharge c s).channels = s.channels ∧
    (appendCharge c s).coder = s.coder ∧
    (appendCharge c s).rings = s.rings ∧
    (appendCharge c s).port = s.port ∧
    (appendCharge c s).store = s.store ∧
    (appendCharge c s).lamps = s.lamps ∧
    (appendCharge c s).trunks = s.trunks ∧
    (appendCharge c s).meters = s.meters ∧
    (appendCharge c s).tariff = s.tariff := by
  unfold appendCharge
  try dsimp only
  repeat' split
  all_goals simp

@[simp] theorem checkoutTest_frame (r : RoomIx) (s : State) :
    (checkoutTest r s).pending = s.pending ∧
    (checkoutTest r s).resetLow = s.resetLow ∧
    (checkoutTest r s).highway = s.highway ∧
    (checkoutTest r s).clock = s.clock ∧
    (checkoutTest r s).service = s.service ∧
    (checkoutTest r s).directory = s.directory ∧
    (checkoutTest r s).classes = s.classes ∧
    (checkoutTest r s).channels = s.channels ∧
    (checkoutTest r s).coder = s.coder ∧
    (checkoutTest r s).rings = s.rings ∧
    (checkoutTest r s).port = s.port ∧
    (checkoutTest r s).store = s.store ∧
    (checkoutTest r s).trunks = s.trunks ∧
    (checkoutTest r s).meters = s.meters ∧
    (checkoutTest r s).tariff = s.tariff := by
  unfold checkoutTest
  try dsimp only
  repeat' split
  all_goals simp

end Sys2Proof.Machine
end

