-- ==== Sys2Proof/Laws/Meters.lean ====
section
/-! SUPPORT. What the operations of Machine/Meters.lean leave as it was. Each lemma is a conjunction of equations that `simp`
reads one by one; the fields it does not name are those the operation may write. -/

namespace Sys2Proof.Machine

@[simp] theorem deny_frame (t : TrunkIx) (r : RoomIx) (w : Denial) (s : State) :
    (deny t r w s).pending = s.pending ∧
    (deny t r w s).resetLow = s.resetLow ∧
    (deny t r w s).highway = s.highway ∧
    (deny t r w s).clock = s.clock ∧
    (deny t r w s).service = s.service ∧
    (deny t r w s).checkouts = s.checkouts ∧
    (deny t r w s).directory = s.directory ∧
    (deny t r w s).classes = s.classes ∧
    (deny t r w s).channels = s.channels ∧
    (deny t r w s).coder = s.coder ∧
    (deny t r w s).rings = s.rings ∧
    (deny t r w s).port = s.port ∧
    (deny t r w s).store = s.store ∧
    (deny t r w s).lamps = s.lamps ∧
    (deny t r w s).meters = s.meters ∧
    (deny t r w s).tariff = s.tariff ∧
    (deny t r w s).charges = s.charges := by
  unfold deny
  try dsimp only
  repeat' split
  all_goals simp

@[simp] theorem digitCut_frame (m : MeterIx) (x : Meter) (s : State) :
    (digitCut m x s).pending = s.pending ∧
    (digitCut m x s).resetLow = s.resetLow ∧
    (digitCut m x s).highway = s.highway ∧
    (digitCut m x s).clock = s.clock ∧
    (digitCut m x s).service = s.service ∧
    (digitCut m x s).checkouts = s.checkouts ∧
    (digitCut m x s).directory = s.directory ∧
    (digitCut m x s).classes = s.classes ∧
    (digitCut m x s).channels = s.channels ∧
    (digitCut m x s).coder = s.coder ∧
    (digitCut m x s).rings = s.rings ∧
    (digitCut m x s).port = s.port ∧
    (digitCut m x s).store = s.store ∧
    (digitCut m x s).lamps = s.lamps ∧
    (digitCut m x s).tariff = s.tariff ∧
    (digitCut m x s).charges = s.charges := by
  unfold digitCut
  try dsimp only
  repeat' split
  all_goals simp

@[simp] theorem creditCut_frame (m : MeterIx) (x : Meter) (s : State) :
    (creditCut m x s).pending = s.pending ∧
    (creditCut m x s).resetLow = s.resetLow ∧
    (creditCut m x s).highway = s.highway ∧
    (creditCut m x s).clock = s.clock ∧
    (creditCut m x s).service = s.service ∧
    (creditCut m x s).checkouts = s.checkouts ∧
    (creditCut m x s).directory = s.directory ∧
    (creditCut m x s).classes = s.classes ∧
    (creditCut m x s).channels = s.channels ∧
    (creditCut m x s).coder = s.coder ∧
    (creditCut m x s).rings = s.rings ∧
    (creditCut m x s).port = s.port ∧
    (creditCut m x s).store = s.store ∧
    (creditCut m x s).lamps = s.lamps ∧
    (creditCut m x s).tariff = s.tariff ∧
    (creditCut m x s).charges = s.charges := by
  unfold creditCut
  try dsimp only
  repeat' split
  all_goals simp

@[simp] theorem boundary_frame (m : MeterIx) (s : State) :
    (boundary m s).pending = s.pending ∧
    (boundary m s).resetLow = s.resetLow ∧
    (boundary m s).highway = s.highway ∧
    (boundary m s).clock = s.clock ∧
    (boundary m s).service = s.service ∧
    (boundary m s).checkouts = s.checkouts ∧
    (boundary m s).directory = s.directory ∧
    (boundary m s).classes = s.classes ∧
    (boundary m s).channels = s.channels ∧
    (boundary m s).coder = s.coder ∧
    (boundary m s).rings = s.rings ∧
    (boundary m s).port = s.port ∧
    (boundary m s).store = s.store ∧
    (boundary m s).tariff = s.tariff ∧
    (boundary m s).charges = s.charges := by
  unfold boundary
  try dsimp only
  repeat' split
  all_goals simp

@[simp] theorem answer_frame (m : MeterIx) (b : Bool) (a : Action) (x : Meter) (s : State) :
    (answer m b a x s).pending = s.pending ∧
    (answer m b a x s).resetLow = s.resetLow ∧
    (answer m b a x s).highway = s.highway ∧
    (answer m b a x s).clock = s.clock ∧
    (answer m b a x s).service = s.service ∧
    (answer m b a x s).checkouts = s.checkouts ∧
    (answer m b a x s).directory = s.directory ∧
    (answer m b a x s).classes = s.classes ∧
    (answer m b a x s).channels = s.channels ∧
    (answer m b a x s).coder = s.coder ∧
    (answer m b a x s).rings = s.rings ∧
    (answer m b a x s).port = s.port ∧
    (answer m b a x s).store = s.store ∧
    (answer m b a x s).tariff = s.tariff ∧
    (answer m b a x s).charges = s.charges := by
  unfold answer
  try dsimp only
  repeat' split
  all_goals simp

@[simp] theorem connect_frame (m : MeterIx) (b : Bool) (s : State) :
    (connect m b s).pending = s.pending ∧
    (connect m b s).resetLow = s.resetLow ∧
    (connect m b s).highway = s.highway ∧
    (connect m b s).clock = s.clock ∧
    (connect m b s).service = s.service ∧
    (connect m b s).checkouts = s.checkouts ∧
    (connect m b s).directory = s.directory ∧
    (connect m b s).classes = s.classes ∧
    (connect m b s).channels = s.channels ∧
    (connect m b s).coder = s.coder ∧
    (connect m b s).rings = s.rings ∧
    (connect m b s).port = s.port ∧
    (connect m b s).store = s.store ∧
    (connect m b s).tariff = s.tariff ∧
    (connect m b s).charges = s.charges := by
  unfold connect
  try dsimp only
  repeat' split
  all_goals simp

@[simp] theorem pricedClose_frame (x : Meter) (s : State) :
    (pricedClose x s).pending = s.pending ∧
    (pricedClose x s).resetLow = s.resetLow ∧
    (pricedClose x s).highway = s.highway ∧
    (pricedClose x s).clock = s.clock ∧
    (pricedClose x s).service = s.service ∧
    (pricedClose x s).checkouts = s.checkouts ∧
    (pricedClose x s).directory = s.directory ∧
    (pricedClose x s).classes = s.classes ∧
    (pricedClose x s).channels = s.channels ∧
    (pricedClose x s).coder = s.coder ∧
    (pricedClose x s).rings = s.rings ∧
    (pricedClose x s).port = s.port ∧
    (pricedClose x s).store = s.store ∧
    (pricedClose x s).lamps = s.lamps ∧
    (pricedClose x s).trunks = s.trunks ∧
    (pricedClose x s).meters = s.meters ∧
    (pricedClose x s).tariff = s.tariff := by
  unfold pricedClose
  try dsimp only
  repeat' split
  all_goals simp

@[simp] theorem freeMeter_frame (m : MeterIx) (x : Meter) (s : State) :
    (freeMeter m x s).pending = s.pending ∧
    (freeMeter m x s).resetLow = s.resetLow ∧
    (freeMeter m x s).highway = s.highway ∧
    (freeMeter m x s).clock = s.clock ∧
    (freeMeter m x s).link = s.link ∧
    (freeMeter m x s).service = s.service ∧
    (freeMeter m x s).attention = s.attention ∧
    (freeMeter m x s).checkouts = s.checkouts ∧
    (freeMeter m x s).directory = s.directory ∧
    (freeMeter m x s).classes = s.classes ∧
    (freeMeter m x s).channels = s.channels ∧
    (freeMeter m x s).coder = s.coder ∧
    (freeMeter m x s).rings = s.rings ∧
    (freeMeter m x s).port = s.port ∧
    (freeMeter m x s).store = s.store ∧
    (freeMeter m x s).lamps = s.lamps ∧
    (freeMeter m x s).tariff = s.tariff ∧
    (freeMeter m x s).charges = s.charges := by
  unfold freeMeter
  try dsimp only
  repeat' split
  all_goals simp

@[simp] theorem closeMeter_frame (m : MeterIx) (s : State) :
    (closeMeter m s).pending = s.pending ∧
    (closeMeter m s).resetLow = s.resetLow ∧
    (closeMeter m s).highway = s.highway ∧
    (closeMeter m s).clock = s.clock ∧
    (closeMeter m s).service = s.service ∧
    (closeMeter m s).directory = s.directory ∧
    (closeMeter m s).classes = s.classes ∧
    (closeMeter m s).channels = s.channels ∧
    (closeMeter m s).coder = s.coder ∧
    (closeMeter m s).rings = s.rings ∧
    (closeMeter m s).port = s.port ∧
    (closeMeter m s).store = s.store ∧
    (closeMeter m s).tariff = s.tariff := by
  unfold closeMeter
  try dsimp only
  repeat' split
  all_goals simp

@[simp] theorem clearTrunk_frame (t : TrunkIx) (s : State) :
    (clearTrunk t s).pending = s.pending ∧
    (clearTrunk t s).resetLow = s.resetLow ∧
    (clearTrunk t s).highway = s.highway ∧
    (clearTrunk t s).clock = s.clock ∧
    (clearTrunk t s).service = s.service ∧
    (clearTrunk t s).directory = s.directory ∧
    (clearTrunk t s).classes = s.classes ∧
    (clearTrunk t s).channels = s.channels ∧
    (clearTrunk t s).coder = s.coder ∧
    (clearTrunk t s).rings = s.rings ∧
    (clearTrunk t s).port = s.port ∧
    (clearTrunk t s).store = s.store ∧
    (clearTrunk t s).tariff = s.tariff := by
  unfold clearTrunk
  try dsimp only
  repeat' split
  all_goals simp

@[simp] theorem takeCleared_frame (t : TrunkIx) (s : State) :
    (takeCleared t s).pending = s.pending ∧
    (takeCleared t s).resetLow = s.resetLow ∧
    (takeCleared t s).highway = s.highway ∧
    (takeCleared t s).clock = s.clock ∧
    (takeCleared t s).service = s.service ∧
    (takeCleared t s).directory = s.directory ∧
    (takeCleared t s).classes = s.classes ∧
    (takeCleared t s).channels = s.channels ∧
    (takeCleared t s).coder = s.coder ∧
    (takeCleared t s).rings = s.rings ∧
    (takeCleared t s).port = s.port ∧
    (takeCleared t s).store = s.store ∧
    (takeCleared t s).tariff = s.tariff := by
  unfold takeCleared
  try dsimp only
  repeat' split
  all_goals simp

@[simp] theorem allocateMeter_frame (m : MeterIx) (t : TrunkIx) (r : RoomIx) (x : Nat) (s : State) :
    (allocateMeter m t r x s).pending = s.pending ∧
    (allocateMeter m t r x s).resetLow = s.resetLow ∧
    (allocateMeter m t r x s).highway = s.highway ∧
    (allocateMeter m t r x s).clock = s.clock ∧
    (allocateMeter m t r x s).link = s.link ∧
    (allocateMeter m t r x s).service = s.service ∧
    (allocateMeter m t r x s).attention = s.attention ∧
    (allocateMeter m t r x s).checkouts = s.checkouts ∧
    (allocateMeter m t r x s).directory = s.directory ∧
    (allocateMeter m t r x s).classes = s.classes ∧
    (allocateMeter m t r x s).channels = s.channels ∧
    (allocateMeter m t r x s).coder = s.coder ∧
    (allocateMeter m t r x s).rings = s.rings ∧
    (allocateMeter m t r x s).port = s.port ∧
    (allocateMeter m t r x s).store = s.store ∧
    (allocateMeter m t r x s).lamps = s.lamps ∧
    (allocateMeter m t r x s).tariff = s.tariff ∧
    (allocateMeter m t r x s).charges = s.charges := by
  unfold allocateMeter
  try dsimp only
  repeat' split
  all_goals simp

@[simp] theorem seizeRoom_frame (t : TrunkIx) (r : RoomIx) (x : Nat) (s : State) :
    (seizeRoom t r x s).pending = s.pending ∧
    (seizeRoom t r x s).resetLow = s.resetLow ∧
    (seizeRoom t r x s).highway = s.highway ∧
    (seizeRoom t r x s).clock = s.clock ∧
    (seizeRoom t r x s).service = s.service ∧
    (seizeRoom t r x s).checkouts = s.checkouts ∧
    (seizeRoom t r x s).directory = s.directory ∧
    (seizeRoom t r x s).classes = s.classes ∧
    (seizeRoom t r x s).channels = s.channels ∧
    (seizeRoom t r x s).coder = s.coder ∧
    (seizeRoom t r x s).rings = s.rings ∧
    (seizeRoom t r x s).port = s.port ∧
    (seizeRoom t r x s).store = s.store ∧
    (seizeRoom t r x s).lamps = s.lamps ∧
    (seizeRoom t r x s).tariff = s.tariff ∧
    (seizeRoom t r x s).charges = s.charges := by
  unfold seizeRoom
  try dsimp only
  repeat' split
  all_goals simp

@[simp] theorem closeOld_frame (t : TrunkIx) (s : State) :
    (closeOld t s).pending = s.pending ∧
    (closeOld t s).resetLow = s.resetLow ∧
    (closeOld t s).highway = s.highway ∧
    (closeOld t s).clock = s.clock ∧
    (closeOld t s).service = s.service ∧
    (closeOld t s).directory = s.directory ∧
    (closeOld t s).classes = s.classes ∧
    (closeOld t s).channels = s.channels ∧
    (closeOld t s).coder = s.coder ∧
    (closeOld t s).rings = s.rings ∧
    (closeOld t s).port = s.port ∧
    (closeOld t s).store = s.store ∧
    (closeOld t s).tariff = s.tariff := by
  unfold closeOld
  try dsimp only
  repeat' split
  all_goals simp

@[simp] theorem seize_frame (t : TrunkIx) (x : Nat) (s : State) :
    (seize t x s).pending = s.pending ∧
    (seize t x s).resetLow = s.resetLow ∧
    (seize t x s).highway = s.highway ∧
    (seize t x s).clock = s.clock ∧
    (seize t x s).service = s.service ∧
    (seize t x s).directory = s.directory ∧
    (seize t x s).classes = s.classes ∧
    (seize t x s).channels = s.channels ∧
    (seize t x s).coder = s.coder ∧
    (seize t x s).rings = s.rings ∧
    (seize t x s).port = s.port ∧
    (seize t x s).store = s.store ∧
    (seize t x s).tariff = s.tariff := by
  unfold seize
  try dsimp only
  repeat' split
  all_goals simp

@[simp] theorem takeSeize_frame (t : TrunkIx) (x : Nat) (s : State) :
    (takeSeize t x s).pending = s.pending ∧
    (takeSeize t x s).resetLow = s.resetLow ∧
    (takeSeize t x s).highway = s.highway ∧
    (takeSeize t x s).clock = s.clock ∧
    (takeSeize t x s).service = s.service ∧
    (takeSeize t x s).directory = s.directory ∧
    (takeSeize t x s).classes = s.classes ∧
    (takeSeize t x s).channels = s.channels ∧
    (takeSeize t x s).coder = s.coder ∧
    (takeSeize t x s).rings = s.rings ∧
    (takeSeize t x s).port = s.port ∧
    (takeSeize t x s).store = s.store ∧
    (takeSeize t x s).tariff = s.tariff := by
  unfold takeSeize
  try dsimp only
  repeat' split
  all_goals simp

@[simp] theorem dial_frame (m : MeterIx) (x : Meter) (ds : List Nat) (s : State) :
    (dial m x ds s).pending = s.pending ∧
    (dial m x ds s).resetLow = s.resetLow ∧
    (dial m x ds s).highway = s.highway ∧
    (dial m x ds s).clock = s.clock ∧
    (dial m x ds s).service = s.service ∧
    (dial m x ds s).checkouts = s.checkouts ∧
    (dial m x ds s).directory = s.directory ∧
    (dial m x ds s).classes = s.classes ∧
    (dial m x ds s).channels = s.channels ∧
    (dial m x ds s).coder = s.coder ∧
    (dial m x ds s).rings = s.rings ∧
    (dial m x ds s).port = s.port ∧
    (dial m x ds s).store = s.store ∧
    (dial m x ds s).lamps = s.lamps ∧
    (dial m x ds s).tariff = s.tariff ∧
    (dial m x ds s).charges = s.charges := by
  unfold dial
  try dsimp only
  repeat' split
  all_goals simp

@[simp] theorem takeDigit_frame (t : TrunkIx) (ds : List Nat) (s : State) :
    (takeDigit t ds s).pending = s.pending ∧
    (takeDigit t ds s).resetLow = s.resetLow ∧
    (takeDigit t ds s).highway = s.highway ∧
    (takeDigit t ds s).clock = s.clock ∧
    (takeDigit t ds s).service = s.service ∧
    (takeDigit t ds s).checkouts = s.checkouts ∧
    (takeDigit t ds s).directory = s.directory ∧
    (takeDigit t ds s).classes = s.classes ∧
    (takeDigit t ds s).channels = s.channels ∧
    (takeDigit t ds s).coder = s.coder ∧
    (takeDigit t ds s).rings = s.rings ∧
    (takeDigit t ds s).port = s.port ∧
    (takeDigit t ds s).store = s.store ∧
    (takeDigit t ds s).lamps = s.lamps ∧
    (takeDigit t ds s).tariff = s.tariff ∧
    (takeDigit t ds s).charges = s.charges := by
  unfold takeDigit
  try dsimp only
  repeat' split
  all_goals simp

@[simp] theorem takeAnswered_frame (t : TrunkIx) (s : State) :
    (takeAnswered t s).pending = s.pending ∧
    (takeAnswered t s).resetLow = s.resetLow ∧
    (takeAnswered t s).highway = s.highway ∧
    (takeAnswered t s).clock = s.clock ∧
    (takeAnswered t s).service = s.service ∧
    (takeAnswered t s).checkouts = s.checkouts ∧
    (takeAnswered t s).directory = s.directory ∧
    (takeAnswered t s).classes = s.classes ∧
    (takeAnswered t s).channels = s.channels ∧
    (takeAnswered t s).coder = s.coder ∧
    (takeAnswered t s).rings = s.rings ∧
    (takeAnswered t s).port = s.port ∧
    (takeAnswered t s).store = s.store ∧
    (takeAnswered t s).tariff = s.tariff ∧
    (takeAnswered t s).charges = s.charges := by
  unfold takeAnswered
  try dsimp only
  repeat' split
  all_goals simp

@[simp] theorem timedExpiry_frame (m : MeterIx) (s : State) :
    (timedExpiry m s).pending = s.pending ∧
    (timedExpiry m s).resetLow = s.resetLow ∧
    (timedExpiry m s).highway = s.highway ∧
    (timedExpiry m s).clock = s.clock ∧
    (timedExpiry m s).service = s.service ∧
    (timedExpiry m s).checkouts = s.checkouts ∧
    (timedExpiry m s).directory = s.directory ∧
    (timedExpiry m s).classes = s.classes ∧
    (timedExpiry m s).channels = s.channels ∧
    (timedExpiry m s).coder = s.coder ∧
    (timedExpiry m s).rings = s.rings ∧
    (timedExpiry m s).port = s.port ∧
    (timedExpiry m s).store = s.store ∧
    (timedExpiry m s).tariff = s.tariff ∧
    (timedExpiry m s).charges = s.charges := by
  unfold timedExpiry
  try dsimp only
  repeat' split
  all_goals simp

@[simp] theorem boundaryDue_frame (m : MeterIx) (s : State) :
    (boundaryDue m s).pending = s.pending ∧
    (boundaryDue m s).resetLow = s.resetLow ∧
    (boundaryDue m s).highway = s.highway ∧
    (boundaryDue m s).clock = s.clock ∧
    (boundaryDue m s).service = s.service ∧
    (boundaryDue m s).checkouts = s.checkouts ∧
    (boundaryDue m s).directory = s.directory ∧
    (boundaryDue m s).classes = s.classes ∧
    (boundaryDue m s).channels = s.channels ∧
    (boundaryDue m s).coder = s.coder ∧
    (boundaryDue m s).rings = s.rings ∧
    (boundaryDue m s).port = s.port ∧
    (boundaryDue m s).store = s.store ∧
    (boundaryDue m s).tariff = s.tariff ∧
    (boundaryDue m s).charges = s.charges := by
  unfold boundaryDue
  try dsimp only
  repeat' split
  all_goals simp

end Sys2Proof.Machine
end

