-- ==== Sys2Proof/Laws/Lamps.lean ====
section
/-! SUPPORT. What the operations of Machine/Lamps.lean leave as it was. Each lemma is a conjunction of equations that `simp`
reads one by one; the fields it does not name are those the operation may write. -/

namespace Sys2Proof.Machine

@[simp] theorem takeHook_frame (x : Nat) (b : Bool) (s : State) :
    (takeHook x b s).pending = s.pending ∧
    (takeHook x b s).resetLow = s.resetLow ∧
    (takeHook x b s).highway = s.highway ∧
    (takeHook x b s).clock = s.clock ∧
    (takeHook x b s).link = s.link ∧
    (takeHook x b s).service = s.service ∧
    (takeHook x b s).attention = s.attention ∧
    (takeHook x b s).checkouts = s.checkouts ∧
    (takeHook x b s).directory = s.directory ∧
    (takeHook x b s).classes = s.classes ∧
    (takeHook x b s).channels = s.channels ∧
    (takeHook x b s).coder = s.coder ∧
    (takeHook x b s).rings = s.rings ∧
    (takeHook x b s).port = s.port ∧
    (takeHook x b s).store = s.store ∧
    (takeHook x b s).lamps = s.lamps ∧
    (takeHook x b s).trunks = s.trunks ∧
    (takeHook x b s).meters = s.meters ∧
    (takeHook x b s).tariff = s.tariff ∧
    (takeHook x b s).charges = s.charges := by
  unfold takeHook
  try dsimp only
  repeat' split
  all_goals simp

@[simp] theorem senseFailed_frame (r : RoomIx) (s : State) :
    (senseFailed r s).pending = s.pending ∧
    (senseFailed r s).resetLow = s.resetLow ∧
    (senseFailed r s).highway = s.highway ∧
    (senseFailed r s).clock = s.clock ∧
    (senseFailed r s).service = s.service ∧
    (senseFailed r s).checkouts = s.checkouts ∧
    (senseFailed r s).directory = s.directory ∧
    (senseFailed r s).classes = s.classes ∧
    (senseFailed r s).channels = s.channels ∧
    (senseFailed r s).coder = s.coder ∧
    (senseFailed r s).rings = s.rings ∧
    (senseFailed r s).port = s.port ∧
    (senseFailed r s).store = s.store ∧
    (senseFailed r s).lamps = s.lamps ∧
    (senseFailed r s).trunks = s.trunks ∧
    (senseFailed r s).meters = s.meters ∧
    (senseFailed r s).tariff = s.tariff ∧
    (senseFailed r s).charges = s.charges := by
  unfold senseFailed
  try dsimp only
  repeat' split
  all_goals simp

@[simp] theorem lampAbsent_frame (r : RoomIx) (s : State) :
    (lampAbsent r s).pending = s.pending ∧
    (lampAbsent r s).resetLow = s.resetLow ∧
    (lampAbsent r s).highway = s.highway ∧
    (lampAbsent r s).clock = s.clock ∧
    (lampAbsent r s).link = s.link ∧
    (lampAbsent r s).service = s.service ∧
    (lampAbsent r s).attention = s.attention ∧
    (lampAbsent r s).checkouts = s.checkouts ∧
    (lampAbsent r s).directory = s.directory ∧
    (lampAbsent r s).classes = s.classes ∧
    (lampAbsent r s).channels = s.channels ∧
    (lampAbsent r s).coder = s.coder ∧
    (lampAbsent r s).rings = s.rings ∧
    (lampAbsent r s).port = s.port ∧
    (lampAbsent r s).store = s.store ∧
    (lampAbsent r s).trunks = s.trunks ∧
    (lampAbsent r s).meters = s.meters ∧
    (lampAbsent r s).tariff = s.tariff ∧
    (lampAbsent r s).charges = s.charges := by
  unfold lampAbsent
  try dsimp only
  repeat' split
  all_goals simp

@[simp] theorem takeSense_frame (x : Nat) (q : Sense) (s : State) :
    (takeSense x q s).pending = s.pending ∧
    (takeSense x q s).resetLow = s.resetLow ∧
    (takeSense x q s).highway = s.highway ∧
    (takeSense x q s).clock = s.clock ∧
    (takeSense x q s).service = s.service ∧
    (takeSense x q s).checkouts = s.checkouts ∧
    (takeSense x q s).directory = s.directory ∧
    (takeSense x q s).classes = s.classes ∧
    (takeSense x q s).channels = s.channels ∧
    (takeSense x q s).coder = s.coder ∧
    (takeSense x q s).rings = s.rings ∧
    (takeSense x q s).port = s.port ∧
    (takeSense x q s).store = s.store ∧
    (takeSense x q s).trunks = s.trunks ∧
    (takeSense x q s).meters = s.meters ∧
    (takeSense x q s).tariff = s.tariff ∧
    (takeSense x q s).charges = s.charges := by
  unfold takeSense
  try dsimp only
  repeat' split
  all_goals simp

@[simp] theorem shutFlips_frame (l : List RoomIx) (s : State) :
    (l.foldl (fun s r => evaluateLamp r (s.updLamp r fun y => { y with shut := !y.shut })) s).pending = s.pending ∧
    (l.foldl (fun s r => evaluateLamp r (s.updLamp r fun y => { y with shut := !y.shut })) s).resetLow = s.resetLow ∧
    (l.foldl (fun s r => evaluateLamp r (s.updLamp r fun y => { y with shut := !y.shut })) s).highway = s.highway ∧
    (l.foldl (fun s r => evaluateLamp r (s.updLamp r fun y => { y with shut := !y.shut })) s).clock = s.clock ∧
    (l.foldl (fun s r => evaluateLamp r (s.updLamp r fun y => { y with shut := !y.shut })) s).link = s.link ∧
    (l.foldl (fun s r => evaluateLamp r (s.updLamp r fun y => { y with shut := !y.shut })) s).service = s.service ∧
    (l.foldl (fun s r => evaluateLamp r (s.updLamp r fun y => { y with shut := !y.shut })) s).attention = s.attention ∧
    (l.foldl (fun s r => evaluateLamp r (s.updLamp r fun y => { y with shut := !y.shut })) s).checkouts = s.checkouts ∧
    (l.foldl (fun s r => evaluateLamp r (s.updLamp r fun y => { y with shut := !y.shut })) s).directory = s.directory ∧
    (l.foldl (fun s r => evaluateLamp r (s.updLamp r fun y => { y with shut := !y.shut })) s).classes = s.classes ∧
    (l.foldl (fun s r => evaluateLamp r (s.updLamp r fun y => { y with shut := !y.shut })) s).channels = s.channels ∧
    (l.foldl (fun s r => evaluateLamp r (s.updLamp r fun y => { y with shut := !y.shut })) s).coder = s.coder ∧
    (l.foldl (fun s r => evaluateLamp r (s.updLamp r fun y => { y with shut := !y.shut })) s).rings = s.rings ∧
    (l.foldl (fun s r => evaluateLamp r (s.updLamp r fun y => { y with shut := !y.shut })) s).port = s.port ∧
    (l.foldl (fun s r => evaluateLamp r (s.updLamp r fun y => { y with shut := !y.shut })) s).store = s.store ∧
    (l.foldl (fun s r => evaluateLamp r (s.updLamp r fun y => { y with shut := !y.shut })) s).trunks = s.trunks ∧
    (l.foldl (fun s r => evaluateLamp r (s.updLamp r fun y => { y with shut := !y.shut })) s).meters = s.meters ∧
    (l.foldl (fun s r => evaluateLamp r (s.updLamp r fun y => { y with shut := !y.shut })) s).tariff = s.tariff ∧
    (l.foldl (fun s r => evaluateLamp r (s.updLamp r fun y => { y with shut := !y.shut })) s).charges = s.charges := by
  induction l generalizing s with
  | nil => simp
  | cons a l ih => simp [ih]

@[simp] theorem shutTest_frame (s : State) :
    (shutTest s).pending = s.pending ∧
    (shutTest s).resetLow = s.resetLow ∧
    (shutTest s).highway = s.highway ∧
    (shutTest s).clock = s.clock ∧
    (shutTest s).link = s.link ∧
    (shutTest s).service = s.service ∧
    (shutTest s).attention = s.attention ∧
    (shutTest s).checkouts = s.checkouts ∧
    (shutTest s).directory = s.directory ∧
    (shutTest s).classes = s.classes ∧
    (shutTest s).channels = s.channels ∧
    (shutTest s).coder = s.coder ∧
    (shutTest s).rings = s.rings ∧
    (shutTest s).port = s.port ∧
    (shutTest s).store = s.store ∧
    (shutTest s).trunks = s.trunks ∧
    (shutTest s).meters = s.meters ∧
    (shutTest s).tariff = s.tariff ∧
    (shutTest s).charges = s.charges := by
  unfold shutTest
  try dsimp only
  repeat' split
  all_goals simp

@[simp] theorem orderedFlags_frame (n : Nat) (l : List RoomIx) (s : State) :
    (l.foldl (fun s r => s.updLamp r fun y => { y with queued := false, ordered := y.target, orderSweep := some n }) s).pending = s.pending ∧
    (l.foldl (fun s r => s.updLamp r fun y => { y with queued := false, ordered := y.target, orderSweep := some n }) s).resetLow = s.resetLow ∧
    (l.foldl (fun s r => s.updLamp r fun y => { y with queued := false, ordered := y.target, orderSweep := some n }) s).highway = s.highway ∧
    (l.foldl (fun s r => s.updLamp r fun y => { y with queued := false, ordered := y.target, orderSweep := some n }) s).clock = s.clock ∧
    (l.foldl (fun s r => s.updLamp r fun y => { y with queued := false, ordered := y.target, orderSweep := some n }) s).link = s.link ∧
    (l.foldl (fun s r => s.updLamp r fun y => { y with queued := false, ordered := y.target, orderSweep := some n }) s).service = s.service ∧
    (l.foldl (fun s r => s.updLamp r fun y => { y with queued := false, ordered := y.target, orderSweep := some n }) s).attention = s.attention ∧
    (l.foldl (fun s r => s.updLamp r fun y => { y with queued := false, ordered := y.target, orderSweep := some n }) s).checkouts = s.checkouts ∧
    (l.foldl (fun s r => s.updLamp r fun y => { y with queued := false, ordered := y.target, orderSweep := some n }) s).directory = s.directory ∧
    (l.foldl (fun s r => s.updLamp r fun y => { y with queued := false, ordered := y.target, orderSweep := some n }) s).classes = s.classes ∧
    (l.foldl (fun s r => s.updLamp r fun y => { y with queued := false, ordered := y.target, orderSweep := some n }) s).channels = s.channels ∧
    (l.foldl (fun s r => s.updLamp r fun y => { y with queued := false, ordered := y.target, orderSweep := some n }) s).coder = s.coder ∧
    (l.foldl (fun s r => s.updLamp r fun y => { y with queued := false, ordered := y.target, orderSweep := some n }) s).rings = s.rings ∧
    (l.foldl (fun s r => s.updLamp r fun y => { y with queued := false, ordered := y.target, orderSweep := some n }) s).port = s.port ∧
    (l.foldl (fun s r => s.updLamp r fun y => { y with queued := false, ordered := y.target, orderSweep := some n }) s).store = s.store ∧
    (l.foldl (fun s r => s.updLamp r fun y => { y with queued := false, ordered := y.target, orderSweep := some n }) s).lamps = s.lamps ∧
    (l.foldl (fun s r => s.updLamp r fun y => { y with queued := false, ordered := y.target, orderSweep := some n }) s).trunks = s.trunks ∧
    (l.foldl (fun s r => s.updLamp r fun y => { y with queued := false, ordered := y.target, orderSweep := some n }) s).meters = s.meters ∧
    (l.foldl (fun s r => s.updLamp r fun y => { y with queued := false, ordered := y.target, orderSweep := some n }) s).tariff = s.tariff ∧
    (l.foldl (fun s r => s.updLamp r fun y => { y with queued := false, ordered := y.target, orderSweep := some n }) s).charges = s.charges := by
  induction l generalizing s with
  | nil => simp
  | cons a l ih => simp [ih]

@[simp] theorem ordersAdmitted_frame (n : Nat) (l : List RoomIx) (s : State) :
    (ordersAdmitted n l s).pending = s.pending ∧
    (ordersAdmitted n l s).resetLow = s.resetLow ∧
    (ordersAdmitted n l s).highway = s.highway ∧
    (ordersAdmitted n l s).clock = s.clock ∧
    (ordersAdmitted n l s).service = s.service ∧
    (ordersAdmitted n l s).attention = s.attention ∧
    (ordersAdmitted n l s).checkouts = s.checkouts ∧
    (ordersAdmitted n l s).directory = s.directory ∧
    (ordersAdmitted n l s).classes = s.classes ∧
    (ordersAdmitted n l s).channels = s.channels ∧
    (ordersAdmitted n l s).coder = s.coder ∧
    (ordersAdmitted n l s).rings = s.rings ∧
    (ordersAdmitted n l s).port = s.port ∧
    (ordersAdmitted n l s).store = s.store ∧
    (ordersAdmitted n l s).lamps = s.lamps ∧
    (ordersAdmitted n l s).trunks = s.trunks ∧
    (ordersAdmitted n l s).meters = s.meters ∧
    (ordersAdmitted n l s).tariff = s.tariff ∧
    (ordersAdmitted n l s).charges = s.charges := by
  unfold ordersAdmitted
  try dsimp only
  repeat' split
  all_goals simp

@[simp] theorem buildOrders_frame (n : Nat) (l off frame : List RoomIx) (left : Nat) (s : State) :
    (buildOrders n l off frame left s).1.pending = s.pending ∧
    (buildOrders n l off frame left s).1.resetLow = s.resetLow ∧
    (buildOrders n l off frame left s).1.highway = s.highway ∧
    (buildOrders n l off frame left s).1.clock = s.clock ∧
    (buildOrders n l off frame left s).1.service = s.service ∧
    (buildOrders n l off frame left s).1.attention = s.attention ∧
    (buildOrders n l off frame left s).1.checkouts = s.checkouts ∧
    (buildOrders n l off frame left s).1.directory = s.directory ∧
    (buildOrders n l off frame left s).1.classes = s.classes ∧
    (buildOrders n l off frame left s).1.channels = s.channels ∧
    (buildOrders n l off frame left s).1.coder = s.coder ∧
    (buildOrders n l off frame left s).1.rings = s.rings ∧
    (buildOrders n l off frame left s).1.port = s.port ∧
    (buildOrders n l off frame left s).1.store = s.store ∧
    (buildOrders n l off frame left s).1.trunks = s.trunks ∧
    (buildOrders n l off frame left s).1.meters = s.meters ∧
    (buildOrders n l off frame left s).1.tariff = s.tariff ∧
    (buildOrders n l off frame left s).1.charges = s.charges := by
  induction l generalizing off frame left s with
  | nil => simp only [buildOrders]; (repeat' split) <;> simp
  | cons r l ih => simp only [buildOrders]; (repeat' split) <;> simp [ih]

@[simp] theorem senseQuery_frame (s : State) :
    (senseQuery s).pending = s.pending ∧
    (senseQuery s).resetLow = s.resetLow ∧
    (senseQuery s).highway = s.highway ∧
    (senseQuery s).clock = s.clock ∧
    (senseQuery s).service = s.service ∧
    (senseQuery s).attention = s.attention ∧
    (senseQuery s).rooms = s.rooms ∧
    (senseQuery s).checkouts = s.checkouts ∧
    (senseQuery s).directory = s.directory ∧
    (senseQuery s).classes = s.classes ∧
    (senseQuery s).channels = s.channels ∧
    (senseQuery s).coder = s.coder ∧
    (senseQuery s).rings = s.rings ∧
    (senseQuery s).port = s.port ∧
    (senseQuery s).store = s.store ∧
    (senseQuery s).trunks = s.trunks ∧
    (senseQuery s).meters = s.meters ∧
    (senseQuery s).tariff = s.tariff ∧
    (senseQuery s).charges = s.charges := by
  unfold senseQuery
  try dsimp only
  repeat' split
  all_goals simp

@[simp] theorem sweepWork_frame (n : Nat) (s : State) :
    (sweepWork n s).pending = s.pending ∧
    (sweepWork n s).resetLow = s.resetLow ∧
    (sweepWork n s).highway = s.highway ∧
    (sweepWork n s).clock = s.clock ∧
    (sweepWork n s).service = s.service ∧
    (sweepWork n s).attention = s.attention ∧
    (sweepWork n s).checkouts = s.checkouts ∧
    (sweepWork n s).directory = s.directory ∧
    (sweepWork n s).classes = s.classes ∧
    (sweepWork n s).channels = s.channels ∧
    (sweepWork n s).coder = s.coder ∧
    (sweepWork n s).rings = s.rings ∧
    (sweepWork n s).port = s.port ∧
    (sweepWork n s).store = s.store ∧
    (sweepWork n s).trunks = s.trunks ∧
    (sweepWork n s).meters = s.meters ∧
    (sweepWork n s).tariff = s.tariff ∧
    (sweepWork n s).charges = s.charges := by
  unfold sweepWork
  try dsimp only
  repeat' split
  all_goals simp

@[simp] theorem takeSweep_frame (s : State) :
    (takeSweep s).pending = s.pending ∧
    (takeSweep s).resetLow = s.resetLow ∧
    (takeSweep s).highway = s.highway ∧
    (takeSweep s).clock = s.clock ∧
    (takeSweep s).service = s.service ∧
    (takeSweep s).attention = s.attention ∧
    (takeSweep s).checkouts = s.checkouts ∧
    (takeSweep s).directory = s.directory ∧
    (takeSweep s).classes = s.classes ∧
    (takeSweep s).channels = s.channels ∧
    (takeSweep s).coder = s.coder ∧
    (takeSweep s).rings = s.rings ∧
    (takeSweep s).port = s.port ∧
    (takeSweep s).store = s.store ∧
    (takeSweep s).trunks = s.trunks ∧
    (takeSweep s).meters = s.meters ∧
    (takeSweep s).tariff = s.tariff ∧
    (takeSweep s).charges = s.charges := by
  unfold takeSweep
  try dsimp only
  repeat' split
  all_goals simp

@[simp] theorem lampTick_frame (s : State) :
    (lampTick s).pending = s.pending ∧
    (lampTick s).resetLow = s.resetLow ∧
    (lampTick s).highway = s.highway ∧
    (lampTick s).clock = s.clock ∧
    (lampTick s).link = s.link ∧
    (lampTick s).service = s.service ∧
    (lampTick s).attention = s.attention ∧
    (lampTick s).rooms = s.rooms ∧
    (lampTick s).checkouts = s.checkouts ∧
    (lampTick s).directory = s.directory ∧
    (lampTick s).classes = s.classes ∧
    (lampTick s).channels = s.channels ∧
    (lampTick s).coder = s.coder ∧
    (lampTick s).rings = s.rings ∧
    (lampTick s).port = s.port ∧
    (lampTick s).store = s.store ∧
    (lampTick s).trunks = s.trunks ∧
    (lampTick s).meters = s.meters ∧
    (lampTick s).tariff = s.tariff ∧
    (lampTick s).charges = s.charges := by
  unfold lampTick
  try dsimp only
  repeat' split
  all_goals simp

@[simp] theorem evaluations_frame (l : List RoomIx) (s : State) :
    (l.foldl (fun s r => evaluateLamp r s) s).pending = s.pending ∧
    (l.foldl (fun s r => evaluateLamp r s) s).resetLow = s.resetLow ∧
    (l.foldl (fun s r => evaluateLamp r s) s).highway = s.highway ∧
    (l.foldl (fun s r => evaluateLamp r s) s).clock = s.clock ∧
    (l.foldl (fun s r => evaluateLamp r s) s).link = s.link ∧
    (l.foldl (fun s r => evaluateLamp r s) s).service = s.service ∧
    (l.foldl (fun s r => evaluateLamp r s) s).attention = s.attention ∧
    (l.foldl (fun s r => evaluateLamp r s) s).checkouts = s.checkouts ∧
    (l.foldl (fun s r => evaluateLamp r s) s).directory = s.directory ∧
    (l.foldl (fun s r => evaluateLamp r s) s).classes = s.classes ∧
    (l.foldl (fun s r => evaluateLamp r s) s).channels = s.channels ∧
    (l.foldl (fun s r => evaluateLamp r s) s).coder = s.coder ∧
    (l.foldl (fun s r => evaluateLamp r s) s).rings = s.rings ∧
    (l.foldl (fun s r => evaluateLamp r s) s).port = s.port ∧
    (l.foldl (fun s r => evaluateLamp r s) s).store = s.store ∧
    (l.foldl (fun s r => evaluateLamp r s) s).trunks = s.trunks ∧
    (l.foldl (fun s r => evaluateLamp r s) s).meters = s.meters ∧
    (l.foldl (fun s r => evaluateLamp r s) s).tariff = s.tariff ∧
    (l.foldl (fun s r => evaluateLamp r s) s).charges = s.charges := by
  induction l generalizing s with
  | nil => simp
  | cons a l ih => simp [ih]

@[simp] theorem lampResync_frame (s : State) :
    (lampResync s).pending = s.pending ∧
    (lampResync s).resetLow = s.resetLow ∧
    (lampResync s).highway = s.highway ∧
    (lampResync s).clock = s.clock ∧
    (lampResync s).link = s.link ∧
    (lampResync s).service = s.service ∧
    (lampResync s).attention = s.attention ∧
    (lampResync s).checkouts = s.checkouts ∧
    (lampResync s).directory = s.directory ∧
    (lampResync s).classes = s.classes ∧
    (lampResync s).channels = s.channels ∧
    (lampResync s).coder = s.coder ∧
    (lampResync s).rings = s.rings ∧
    (lampResync s).port = s.port ∧
    (lampResync s).store = s.store ∧
    (lampResync s).trunks = s.trunks ∧
    (lampResync s).meters = s.meters ∧
    (lampResync s).tariff = s.tariff ∧
    (lampResync s).charges = s.charges := by
  unfold lampResync
  try dsimp only
  repeat' split
  all_goals simp

end Sys2Proof.Machine
end

