-- ==== Sys2Proof/Laws/Store.lean ====
section
/-! SUPPORT. What the operations of Machine/Store.lean leave as it was. Each lemma is a conjunction of equations that `simp`
reads one by one; the fields it does not name are those the operation may write. -/

namespace Sys2Proof.Machine

@[simp] theorem releaseBlocks_frame (l : List BlockEntry) (s : State) :
    (releaseBlocks l s).pending = s.pending ∧
    (releaseBlocks l s).resetLow = s.resetLow ∧
    (releaseBlocks l s).highway = s.highway ∧
    (releaseBlocks l s).clock = s.clock ∧
    (releaseBlocks l s).link = s.link ∧
    (releaseBlocks l s).service = s.service ∧
    (releaseBlocks l s).attention = s.attention ∧
    (releaseBlocks l s).rooms = s.rooms ∧
    (releaseBlocks l s).checkouts = s.checkouts ∧
    (releaseBlocks l s).directory = s.directory ∧
    (releaseBlocks l s).classes = s.classes ∧
    (releaseBlocks l s).channels = s.channels ∧
    (releaseBlocks l s).coder = s.coder ∧
    (releaseBlocks l s).rings = s.rings ∧
    (releaseBlocks l s).port = s.port ∧
    (releaseBlocks l s).lamps = s.lamps ∧
    (releaseBlocks l s).trunks = s.trunks ∧
    (releaseBlocks l s).meters = s.meters ∧
    (releaseBlocks l s).tariff = s.tariff ∧
    (releaseBlocks l s).charges = s.charges := by
  unfold releaseBlocks
  try dsimp only
  repeat' split
  all_goals simp

@[simp] theorem storeLowTest_frame (s : State) :
    (storeLowTest s).pending = s.pending ∧
    (storeLowTest s).resetLow = s.resetLow ∧
    (storeLowTest s).highway = s.highway ∧
    (storeLowTest s).clock = s.clock ∧
    (storeLowTest s).service = s.service ∧
    (storeLowTest s).rooms = s.rooms ∧
    (storeLowTest s).checkouts = s.checkouts ∧
    (storeLowTest s).directory = s.directory ∧
    (storeLowTest s).classes = s.classes ∧
    (storeLowTest s).channels = s.channels ∧
    (storeLowTest s).coder = s.coder ∧
    (storeLowTest s).rings = s.rings ∧
    (storeLowTest s).port = s.port ∧
    (storeLowTest s).store = s.store ∧
    (storeLowTest s).lamps = s.lamps ∧
    (storeLowTest s).trunks = s.trunks ∧
    (storeLowTest s).meters = s.meters ∧
    (storeLowTest s).tariff = s.tariff ∧
    (storeLowTest s).charges = s.charges := by
  unfold storeLowTest
  try dsimp only
  repeat' split
  all_goals simp

@[simp] theorem reclaim_frame (n : Nat) (s : State) :
    (reclaim n s).pending = s.pending ∧
    (reclaim n s).resetLow = s.resetLow ∧
    (reclaim n s).highway = s.highway ∧
    (reclaim n s).clock = s.clock ∧
    (reclaim n s).service = s.service ∧
    (reclaim n s).rooms = s.rooms ∧
    (reclaim n s).checkouts = s.checkouts ∧
    (reclaim n s).directory = s.directory ∧
    (reclaim n s).classes = s.classes ∧
    (reclaim n s).channels = s.channels ∧
    (reclaim n s).coder = s.coder ∧
    (reclaim n s).rings = s.rings ∧
    (reclaim n s).port = s.port ∧
    (reclaim n s).lamps = s.lamps ∧
    (reclaim n s).trunks = s.trunks ∧
    (reclaim n s).meters = s.meters ∧
    (reclaim n s).tariff = s.tariff ∧
    (reclaim n s).charges = s.charges := by
  unfold reclaim
  try dsimp only
  repeat' split
  all_goals simp

@[simp] theorem markFailed_frame (k : MarkKind) (n : Nat) (s : State) :
    (markFailed k n s).pending = s.pending ∧
    (markFailed k n s).resetLow = s.resetLow ∧
    (markFailed k n s).highway = s.highway ∧
    (markFailed k n s).clock = s.clock ∧
    (markFailed k n s).service = s.service ∧
    (markFailed k n s).rooms = s.rooms ∧
    (markFailed k n s).checkouts = s.checkouts ∧
    (markFailed k n s).directory = s.directory ∧
    (markFailed k n s).classes = s.classes ∧
    (markFailed k n s).channels = s.channels ∧
    (markFailed k n s).coder = s.coder ∧
    (markFailed k n s).rings = s.rings ∧
    (markFailed k n s).port = s.port ∧
    (markFailed k n s).lamps = s.lamps ∧
    (markFailed k n s).trunks = s.trunks ∧
    (markFailed k n s).meters = s.meters ∧
    (markFailed k n s).tariff = s.tariff ∧
    (markFailed k n s).charges = s.charges := by
  unfold markFailed
  try dsimp only
  repeat' split
  all_goals simp

@[simp] theorem queueMark_frame (k : MarkKind) (n : Nat) (s : State) :
    (queueMark k n s).pending = s.pending ∧
    (queueMark k n s).resetLow = s.resetLow ∧
    (queueMark k n s).highway = s.highway ∧
    (queueMark k n s).clock = s.clock ∧
    (queueMark k n s).service = s.service ∧
    (queueMark k n s).rooms = s.rooms ∧
    (queueMark k n s).checkouts = s.checkouts ∧
    (queueMark k n s).directory = s.directory ∧
    (queueMark k n s).classes = s.classes ∧
    (queueMark k n s).channels = s.channels ∧
    (queueMark k n s).coder = s.coder ∧
    (queueMark k n s).rings = s.rings ∧
    (queueMark k n s).port = s.port ∧
    (queueMark k n s).lamps = s.lamps ∧
    (queueMark k n s).trunks = s.trunks ∧
    (queueMark k n s).meters = s.meters ∧
    (queueMark k n s).tariff = s.tariff ∧
    (queueMark k n s).charges = s.charges := by
  unfold queueMark
  try dsimp only
  repeat' split
  all_goals simp

@[simp] theorem settle_frame (n : Nat) (s : State) :
    (settle n s).pending = s.pending ∧
    (settle n s).resetLow = s.resetLow ∧
    (settle n s).highway = s.highway ∧
    (settle n s).clock = s.clock ∧
    (settle n s).service = s.service ∧
    (settle n s).rooms = s.rooms ∧
    (settle n s).checkouts = s.checkouts ∧
    (settle n s).directory = s.directory ∧
    (settle n s).classes = s.classes ∧
    (settle n s).channels = s.channels ∧
    (settle n s).coder = s.coder ∧
    (settle n s).rings = s.rings ∧
    (settle n s).port = s.port ∧
    (settle n s).lamps = s.lamps ∧
    (settle n s).trunks = s.trunks ∧
    (settle n s).meters = s.meters ∧
    (settle n s).tariff = s.tariff ∧
    (settle n s).charges = s.charges := by
  unfold settle
  try dsimp only
  repeat' split
  all_goals simp

@[simp] theorem deletePath_frame (n : Nat) (s : State) :
    (deletePath n s).pending = s.pending ∧
    (deletePath n s).resetLow = s.resetLow ∧
    (deletePath n s).highway = s.highway ∧
    (deletePath n s).clock = s.clock ∧
    (deletePath n s).service = s.service ∧
    (deletePath n s).checkouts = s.checkouts ∧
    (deletePath n s).directory = s.directory ∧
    (deletePath n s).classes = s.classes ∧
    (deletePath n s).channels = s.channels ∧
    (deletePath n s).coder = s.coder ∧
    (deletePath n s).rings = s.rings ∧
    (deletePath n s).port = s.port ∧
    (deletePath n s).lamps = s.lamps ∧
    (deletePath n s).trunks = s.trunks ∧
    (deletePath n s).meters = s.meters ∧
    (deletePath n s).tariff = s.tariff ∧
    (deletePath n s).charges = s.charges := by
  unfold deletePath
  try dsimp only
  repeat' split
  all_goals simp

@[simp] theorem makeHeard_frame (n : Nat) (s : State) :
    (makeHeard n s).pending = s.pending ∧
    (makeHeard n s).resetLow = s.resetLow ∧
    (makeHeard n s).highway = s.highway ∧
    (makeHeard n s).clock = s.clock ∧
    (makeHeard n s).service = s.service ∧
    (makeHeard n s).checkouts = s.checkouts ∧
    (makeHeard n s).directory = s.directory ∧
    (makeHeard n s).classes = s.classes ∧
    (makeHeard n s).channels = s.channels ∧
    (makeHeard n s).coder = s.coder ∧
    (makeHeard n s).rings = s.rings ∧
    (makeHeard n s).port = s.port ∧
    (makeHeard n s).trunks = s.trunks ∧
    (makeHeard n s).meters = s.meters ∧
    (makeHeard n s).tariff = s.tariff ∧
    (makeHeard n s).charges = s.charges := by
  unfold makeHeard
  try dsimp only
  repeat' split
  all_goals simp

@[simp] theorem createMessage_frame (r : RoomIx) (s : State) :
    (createMessage r s).pending = s.pending ∧
    (createMessage r s).resetLow = s.resetLow ∧
    (createMessage r s).highway = s.highway ∧
    (createMessage r s).clock = s.clock ∧
    (createMessage r s).link = s.link ∧
    (createMessage r s).service = s.service ∧
    (createMessage r s).attention = s.attention ∧
    (createMessage r s).checkouts = s.checkouts ∧
    (createMessage r s).directory = s.directory ∧
    (createMessage r s).classes = s.classes ∧
    (createMessage r s).channels = s.channels ∧
    (createMessage r s).coder = s.coder ∧
    (createMessage r s).rings = s.rings ∧
    (createMessage r s).port = s.port ∧
    (createMessage r s).lamps = s.lamps ∧
    (createMessage r s).trunks = s.trunks ∧
    (createMessage r s).meters = s.meters ∧
    (createMessage r s).tariff = s.tariff ∧
    (createMessage r s).charges = s.charges := by
  unfold createMessage
  try dsimp only
  repeat' split
  all_goals simp

@[simp] theorem commit_frame (n v : Nat) (s : State) :
    (commit n v s).pending = s.pending ∧
    (commit n v s).resetLow = s.resetLow ∧
    (commit n v s).highway = s.highway ∧
    (commit n v s).clock = s.clock ∧
    (commit n v s).service = s.service ∧
    (commit n v s).checkouts = s.checkouts ∧
    (commit n v s).directory = s.directory ∧
    (commit n v s).classes = s.classes ∧
    (commit n v s).channels = s.channels ∧
    (commit n v s).coder = s.coder ∧
    (commit n v s).rings = s.rings ∧
    (commit n v s).port = s.port ∧
    (commit n v s).trunks = s.trunks ∧
    (commit n v s).meters = s.meters ∧
    (commit n v s).tariff = s.tariff ∧
    (commit n v s).charges = s.charges := by
  unfold commit
  try dsimp only
  repeat' split
  all_goals simp

@[simp] theorem allocate_frame (n g : Nat) (s : State) :
    (allocate n g s).pending = s.pending ∧
    (allocate n g s).resetLow = s.resetLow ∧
    (allocate n g s).highway = s.highway ∧
    (allocate n g s).clock = s.clock ∧
    (allocate n g s).service = s.service ∧
    (allocate n g s).rooms = s.rooms ∧
    (allocate n g s).checkouts = s.checkouts ∧
    (allocate n g s).directory = s.directory ∧
    (allocate n g s).classes = s.classes ∧
    (allocate n g s).channels = s.channels ∧
    (allocate n g s).coder = s.coder ∧
    (allocate n g s).rings = s.rings ∧
    (allocate n g s).port = s.port ∧
    (allocate n g s).lamps = s.lamps ∧
    (allocate n g s).trunks = s.trunks ∧
    (allocate n g s).meters = s.meters ∧
    (allocate n g s).tariff = s.tariff ∧
    (allocate n g s).charges = s.charges := by
  unfold allocate
  try dsimp only
  repeat' split
  all_goals simp

@[simp] theorem givePage_frame (n : Nat) (s : State) :
    (givePage n s).2.pending = s.pending ∧
    (givePage n s).2.resetLow = s.resetLow ∧
    (givePage n s).2.highway = s.highway ∧
    (givePage n s).2.clock = s.clock ∧
    (givePage n s).2.service = s.service ∧
    (givePage n s).2.rooms = s.rooms ∧
    (givePage n s).2.checkouts = s.checkouts ∧
    (givePage n s).2.directory = s.directory ∧
    (givePage n s).2.classes = s.classes ∧
    (givePage n s).2.channels = s.channels ∧
    (givePage n s).2.coder = s.coder ∧
    (givePage n s).2.rings = s.rings ∧
    (givePage n s).2.port = s.port ∧
    (givePage n s).2.lamps = s.lamps ∧
    (givePage n s).2.trunks = s.trunks ∧
    (givePage n s).2.meters = s.meters ∧
    (givePage n s).2.tariff = s.tariff ∧
    (givePage n s).2.charges = s.charges := by
  unfold givePage
  try dsimp only
  repeat' split
  all_goals simp

@[simp] theorem pagePassed_frame (n b p : Nat) (h : Bool) (s : State) :
    (pagePassed n b p h s).pending = s.pending ∧
    (pagePassed n b p h s).resetLow = s.resetLow ∧
    (pagePassed n b p h s).highway = s.highway ∧
    (pagePassed n b p h s).clock = s.clock ∧
    (pagePassed n b p h s).link = s.link ∧
    (pagePassed n b p h s).service = s.service ∧
    (pagePassed n b p h s).attention = s.attention ∧
    (pagePassed n b p h s).rooms = s.rooms ∧
    (pagePassed n b p h s).checkouts = s.checkouts ∧
    (pagePassed n b p h s).directory = s.directory ∧
    (pagePassed n b p h s).classes = s.classes ∧
    (pagePassed n b p h s).channels = s.channels ∧
    (pagePassed n b p h s).coder = s.coder ∧
    (pagePassed n b p h s).rings = s.rings ∧
    (pagePassed n b p h s).port = s.port ∧
    (pagePassed n b p h s).lamps = s.lamps ∧
    (pagePassed n b p h s).trunks = s.trunks ∧
    (pagePassed n b p h s).meters = s.meters ∧
    (pagePassed n b p h s).tariff = s.tariff ∧
    (pagePassed n b p h s).charges = s.charges := by
  unfold pagePassed
  try dsimp only
  repeat' split
  all_goals simp

@[simp] theorem blockRetired_frame (n b : Nat) (s : State) :
    (blockRetired n b s).pending = s.pending ∧
    (blockRetired n b s).resetLow = s.resetLow ∧
    (blockRetired n b s).highway = s.highway ∧
    (blockRetired n b s).clock = s.clock ∧
    (blockRetired n b s).service = s.service ∧
    (blockRetired n b s).rooms = s.rooms ∧
    (blockRetired n b s).checkouts = s.checkouts ∧
    (blockRetired n b s).directory = s.directory ∧
    (blockRetired n b s).classes = s.classes ∧
    (blockRetired n b s).channels = s.channels ∧
    (blockRetired n b s).coder = s.coder ∧
    (blockRetired n b s).rings = s.rings ∧
    (blockRetired n b s).port = s.port ∧
    (blockRetired n b s).lamps = s.lamps ∧
    (blockRetired n b s).trunks = s.trunks ∧
    (blockRetired n b s).meters = s.meters ∧
    (blockRetired n b s).tariff = s.tariff ∧
    (blockRetired n b s).charges = s.charges := by
  unfold blockRetired
  try dsimp only
  repeat' split
  all_goals simp

end Sys2Proof.Machine
end

