-- ==== Sys2Proof/Laws/Voice.lean ====
section
/-! SUPPORT. What the operations of Machine/Voice.lean leave as it was. Each lemma is a conjunction of equations that `simp`
reads one by one; the fields it does not name are those the operation may write. -/

namespace Sys2Proof.Machine

@[simp] theorem leaveItem_frame (c : ChannelIx) (s : State) :
    (leaveItem c s).pending = s.pending ∧
    (leaveItem c s).resetLow = s.resetLow ∧
    (leaveItem c s).highway = s.highway ∧
    (leaveItem c s).clock = s.clock ∧
    (leaveItem c s).link = s.link ∧
    (leaveItem c s).service = s.service ∧
    (leaveItem c s).attention = s.attention ∧
    (leaveItem c s).rooms = s.rooms ∧
    (leaveItem c s).checkouts = s.checkouts ∧
    (leaveItem c s).directory = s.directory ∧
    (leaveItem c s).classes = s.classes ∧
    (leaveItem c s).channels = s.channels ∧
    (leaveItem c s).coder = s.coder ∧
    (leaveItem c s).port = s.port ∧
    (leaveItem c s).store = s.store ∧
    (leaveItem c s).lamps = s.lamps ∧
    (leaveItem c s).trunks = s.trunks ∧
    (leaveItem c s).meters = s.meters ∧
    (leaveItem c s).tariff = s.tariff ∧
    (leaveItem c s).charges = s.charges := by
  unfold leaveItem
  try dsimp only
  repeat' split
  all_goals simp

@[simp] theorem takeItem_frame (c : ChannelIx) (i : PlayItem) (l : List Nat) (s : State) :
    (takeItem c i l s).pending = s.pending ∧
    (takeItem c i l s).resetLow = s.resetLow ∧
    (takeItem c i l s).highway = s.highway ∧
    (takeItem c i l s).clock = s.clock ∧
    (takeItem c i l s).link = s.link ∧
    (takeItem c i l s).service = s.service ∧
    (takeItem c i l s).attention = s.attention ∧
    (takeItem c i l s).rooms = s.rooms ∧
    (takeItem c i l s).checkouts = s.checkouts ∧
    (takeItem c i l s).directory = s.directory ∧
    (takeItem c i l s).classes = s.classes ∧
    (takeItem c i l s).channels = s.channels ∧
    (takeItem c i l s).port = s.port ∧
    (takeItem c i l s).store = s.store ∧
    (takeItem c i l s).lamps = s.lamps ∧
    (takeItem c i l s).trunks = s.trunks ∧
    (takeItem c i l s).meters = s.meters ∧
    (takeItem c i l s).tariff = s.tariff ∧
    (takeItem c i l s).charges = s.charges := by
  unfold takeItem
  try dsimp only
  repeat' split
  all_goals simp

@[simp] theorem startList_frame (c : ChannelIx) (l : List PlayItem) (s : State) :
    (startList c l s).pending = s.pending ∧
    (startList c l s).resetLow = s.resetLow ∧
    (startList c l s).highway = s.highway ∧
    (startList c l s).clock = s.clock ∧
    (startList c l s).service = s.service ∧
    (startList c l s).rooms = s.rooms ∧
    (startList c l s).checkouts = s.checkouts ∧
    (startList c l s).directory = s.directory ∧
    (startList c l s).classes = s.classes ∧
    (startList c l s).port = s.port ∧
    (startList c l s).store = s.store ∧
    (startList c l s).lamps = s.lamps ∧
    (startList c l s).trunks = s.trunks ∧
    (startList c l s).meters = s.meters ∧
    (startList c l s).tariff = s.tariff ∧
    (startList c l s).charges = s.charges := by
  induction l generalizing s with
  | nil => simp [startList]
  | cons i l ih => cases i <;> simp only [startList] <;> (try split) <;> simp_all

@[simp] theorem setList_frame (c : ChannelIx) (l : List PlayItem) (s : State) :
    (setList c l s).pending = s.pending ∧
    (setList c l s).resetLow = s.resetLow ∧
    (setList c l s).highway = s.highway ∧
    (setList c l s).clock = s.clock ∧
    (setList c l s).service = s.service ∧
    (setList c l s).rooms = s.rooms ∧
    (setList c l s).checkouts = s.checkouts ∧
    (setList c l s).directory = s.directory ∧
    (setList c l s).classes = s.classes ∧
    (setList c l s).port = s.port ∧
    (setList c l s).store = s.store ∧
    (setList c l s).lamps = s.lamps ∧
    (setList c l s).trunks = s.trunks ∧
    (setList c l s).meters = s.meters ∧
    (setList c l s).tariff = s.tariff ∧
    (setList c l s).charges = s.charges := by
  unfold setList
  try dsimp only
  repeat' split
  all_goals simp

@[simp] theorem leaveMessage_frame (c : ChannelIx) (s : State) :
    (leaveMessage c s).pending = s.pending ∧
    (leaveMessage c s).resetLow = s.resetLow ∧
    (leaveMessage c s).highway = s.highway ∧
    (leaveMessage c s).clock = s.clock ∧
    (leaveMessage c s).service = s.service ∧
    (leaveMessage c s).rooms = s.rooms ∧
    (leaveMessage c s).checkouts = s.checkouts ∧
    (leaveMessage c s).directory = s.directory ∧
    (leaveMessage c s).classes = s.classes ∧
    (leaveMessage c s).coder = s.coder ∧
    (leaveMessage c s).rings = s.rings ∧
    (leaveMessage c s).port = s.port ∧
    (leaveMessage c s).lamps = s.lamps ∧
    (leaveMessage c s).trunks = s.trunks ∧
    (leaveMessage c s).meters = s.meters ∧
    (leaveMessage c s).tariff = s.tariff ∧
    (leaveMessage c s).charges = s.charges := by
  unfold leaveMessage
  try dsimp only
  repeat' split
  all_goals simp

@[simp] theorem enterFree_frame (c : ChannelIx) (s : State) :
    (enterFree c s).pending = s.pending ∧
    (enterFree c s).resetLow = s.resetLow ∧
    (enterFree c s).clock = s.clock ∧
    (enterFree c s).service = s.service ∧
    (enterFree c s).rooms = s.rooms ∧
    (enterFree c s).checkouts = s.checkouts ∧
    (enterFree c s).directory = s.directory ∧
    (enterFree c s).classes = s.classes ∧
    (enterFree c s).coder = s.coder ∧
    (enterFree c s).port = s.port ∧
    (enterFree c s).lamps = s.lamps ∧
    (enterFree c s).trunks = s.trunks ∧
    (enterFree c s).meters = s.meters ∧
    (enterFree c s).tariff = s.tariff ∧
    (enterFree c s).charges = s.charges := by
  unfold enterFree
  try dsimp only
  repeat' split
  all_goals simp

@[simp] theorem closingEnd_frame (c : ChannelIx) (s : State) :
    (closingEnd c s).pending = s.pending ∧
    (closingEnd c s).resetLow = s.resetLow ∧
    (closingEnd c s).clock = s.clock ∧
    (closingEnd c s).service = s.service ∧
    (closingEnd c s).rooms = s.rooms ∧
    (closingEnd c s).checkouts = s.checkouts ∧
    (closingEnd c s).directory = s.directory ∧
    (closingEnd c s).classes = s.classes ∧
    (closingEnd c s).coder = s.coder ∧
    (closingEnd c s).port = s.port ∧
    (closingEnd c s).lamps = s.lamps ∧
    (closingEnd c s).trunks = s.trunks ∧
    (closingEnd c s).meters = s.meters ∧
    (closingEnd c s).tariff = s.tariff ∧
    (closingEnd c s).charges = s.charges := by
  unfold closingEnd
  try dsimp only
  repeat' split
  all_goals simp

@[simp] theorem enterClosing_frame (c : ChannelIx) (l : List PlayItem) (s : State) :
    (enterClosing c l s).pending = s.pending ∧
    (enterClosing c l s).resetLow = s.resetLow ∧
    (enterClosing c l s).clock = s.clock ∧
    (enterClosing c l s).service = s.service ∧
    (enterClosing c l s).rooms = s.rooms ∧
    (enterClosing c l s).checkouts = s.checkouts ∧
    (enterClosing c l s).directory = s.directory ∧
    (enterClosing c l s).classes = s.classes ∧
    (enterClosing c l s).port = s.port ∧
    (enterClosing c l s).lamps = s.lamps ∧
    (enterClosing c l s).trunks = s.trunks ∧
    (enterClosing c l s).meters = s.meters ∧
    (enterClosing c l s).tariff = s.tariff ∧
    (enterClosing c l s).charges = s.charges := by
  unfold enterClosing
  try dsimp only
  repeat' split
  all_goals simp

@[simp] theorem flushEnd_frame (c : ChannelIx) (s : State) :
    (flushEnd c s).pending = s.pending ∧
    (flushEnd c s).resetLow = s.resetLow ∧
    (flushEnd c s).clock = s.clock ∧
    (flushEnd c s).service = s.service ∧
    (flushEnd c s).checkouts = s.checkouts ∧
    (flushEnd c s).directory = s.directory ∧
    (flushEnd c s).classes = s.classes ∧
    (flushEnd c s).port = s.port ∧
    (flushEnd c s).trunks = s.trunks ∧
    (flushEnd c s).meters = s.meters ∧
    (flushEnd c s).tariff = s.tariff ∧
    (flushEnd c s).charges = s.charges := by
  unfold flushEnd
  try dsimp only
  repeat' split
  all_goals simp

@[simp] theorem flushTest_frame (c : ChannelIx) (s : State) :
    (flushTest c s).pending = s.pending ∧
    (flushTest c s).resetLow = s.resetLow ∧
    (flushTest c s).clock = s.clock ∧
    (flushTest c s).service = s.service ∧
    (flushTest c s).checkouts = s.checkouts ∧
    (flushTest c s).directory = s.directory ∧
    (flushTest c s).classes = s.classes ∧
    (flushTest c s).port = s.port ∧
    (flushTest c s).trunks = s.trunks ∧
    (flushTest c s).meters = s.meters ∧
    (flushTest c s).tariff = s.tariff ∧
    (flushTest c s).charges = s.charges := by
  unfold flushTest
  try dsimp only
  repeat' split
  all_goals simp

@[simp] theorem exhaust_frame (c : ChannelIx) (s : State) :
    (exhaust c s).pending = s.pending ∧
    (exhaust c s).resetLow = s.resetLow ∧
    (exhaust c s).clock = s.clock ∧
    (exhaust c s).service = s.service ∧
    (exhaust c s).checkouts = s.checkouts ∧
    (exhaust c s).directory = s.directory ∧
    (exhaust c s).classes = s.classes ∧
    (exhaust c s).port = s.port ∧
    (exhaust c s).trunks = s.trunks ∧
    (exhaust c s).meters = s.meters ∧
    (exhaust c s).tariff = s.tariff ∧
    (exhaust c s).charges = s.charges := by
  unfold exhaust
  try dsimp only
  repeat' split
  all_goals simp

@[simp] theorem raiseProgram_frame (c : ChannelIx) (s : State) :
    (raiseProgram c s).pending = s.pending ∧
    (raiseProgram c s).resetLow = s.resetLow ∧
    (raiseProgram c s).clock = s.clock ∧
    (raiseProgram c s).service = s.service ∧
    (raiseProgram c s).checkouts = s.checkouts ∧
    (raiseProgram c s).directory = s.directory ∧
    (raiseProgram c s).classes = s.classes ∧
    (raiseProgram c s).trunks = s.trunks ∧
    (raiseProgram c s).meters = s.meters ∧
    (raiseProgram c s).tariff = s.tariff ∧
    (raiseProgram c s).charges = s.charges := by
  unfold raiseProgram
  split
  · have h := givePage_frame ((s.chan c).current.getD 0) s
    split <;> rename_i e <;> rw [e] at h <;> simp_all
  · simp

@[simp] theorem raisePrograms_frame (c : ChannelIx) (s : State) :
    (raisePrograms c s).pending = s.pending ∧
    (raisePrograms c s).resetLow = s.resetLow ∧
    (raisePrograms c s).clock = s.clock ∧
    (raisePrograms c s).service = s.service ∧
    (raisePrograms c s).checkouts = s.checkouts ∧
    (raisePrograms c s).directory = s.directory ∧
    (raisePrograms c s).classes = s.classes ∧
    (raisePrograms c s).trunks = s.trunks ∧
    (raisePrograms c s).meters = s.meters ∧
    (raisePrograms c s).tariff = s.tariff ∧
    (raisePrograms c s).charges = s.charges := by
  unfold raisePrograms
  try dsimp only
  repeat' split
  all_goals simp

@[simp] theorem recordingEnd_frame (c : ChannelIx) (l : List PlayItem) (g : Bool) (s : State) :
    (recordingEnd c l g s).pending = s.pending ∧
    (recordingEnd c l g s).resetLow = s.resetLow ∧
    (recordingEnd c l g s).clock = s.clock ∧
    (recordingEnd c l g s).service = s.service ∧
    (recordingEnd c l g s).checkouts = s.checkouts ∧
    (recordingEnd c l g s).directory = s.directory ∧
    (recordingEnd c l g s).classes = s.classes ∧
    (recordingEnd c l g s).trunks = s.trunks ∧
    (recordingEnd c l g s).meters = s.meters ∧
    (recordingEnd c l g s).tariff = s.tariff ∧
    (recordingEnd c l g s).charges = s.charges := by
  unfold recordingEnd
  try dsimp only
  repeat' split
  all_goals simp

@[simp] theorem offerStream_frame (c : ChannelIx) (v : Bool) (f : List Octet) (s : State) :
    (offerStream c v f s).pending = s.pending ∧
    (offerStream c v f s).resetLow = s.resetLow ∧
    (offerStream c v f s).clock = s.clock ∧
    (offerStream c v f s).service = s.service ∧
    (offerStream c v f s).checkouts = s.checkouts ∧
    (offerStream c v f s).directory = s.directory ∧
    (offerStream c v f s).classes = s.classes ∧
    (offerStream c v f s).trunks = s.trunks ∧
    (offerStream c v f s).meters = s.meters ∧
    (offerStream c v f s).tariff = s.tariff ∧
    (offerStream c v f s).charges = s.charges := by
  unfold offerStream
  try dsimp only
  repeat' split
  all_goals simp

@[simp] theorem offerStreams_frame (c : ChannelIx) (l : List (List Octet)) (s : State) :
    (l.foldl (fun s run => offerStream c false run s) s).pending = s.pending ∧
    (l.foldl (fun s run => offerStream c false run s) s).resetLow = s.resetLow ∧
    (l.foldl (fun s run => offerStream c false run s) s).clock = s.clock ∧
    (l.foldl (fun s run => offerStream c false run s) s).service = s.service ∧
    (l.foldl (fun s run => offerStream c false run s) s).checkouts = s.checkouts ∧
    (l.foldl (fun s run => offerStream c false run s) s).directory = s.directory ∧
    (l.foldl (fun s run => offerStream c false run s) s).classes = s.classes ∧
    (l.foldl (fun s run => offerStream c false run s) s).trunks = s.trunks ∧
    (l.foldl (fun s run => offerStream c false run s) s).meters = s.meters ∧
    (l.foldl (fun s run => offerStream c false run s) s).tariff = s.tariff ∧
    (l.foldl (fun s run => offerStream c false run s) s).charges = s.charges := by
  induction l generalizing s with
  | nil => simp
  | cons a l ih => simp [ih]

@[simp] theorem startMenuTimer_frame (c : ChannelIx) (s : State) :
    (startMenuTimer c s).pending = s.pending ∧
    (startMenuTimer c s).resetLow = s.resetLow ∧
    (startMenuTimer c s).highway = s.highway ∧
    (startMenuTimer c s).clock = s.clock ∧
    (startMenuTimer c s).link = s.link ∧
    (startMenuTimer c s).service = s.service ∧
    (startMenuTimer c s).attention = s.attention ∧
    (startMenuTimer c s).rooms = s.rooms ∧
    (startMenuTimer c s).checkouts = s.checkouts ∧
    (startMenuTimer c s).directory = s.directory ∧
    (startMenuTimer c s).classes = s.classes ∧
    (startMenuTimer c s).coder = s.coder ∧
    (startMenuTimer c s).rings = s.rings ∧
    (startMenuTimer c s).port = s.port ∧
    (startMenuTimer c s).store = s.store ∧
    (startMenuTimer c s).lamps = s.lamps ∧
    (startMenuTimer c s).trunks = s.trunks ∧
    (startMenuTimer c s).meters = s.meters ∧
    (startMenuTimer c s).tariff = s.tariff ∧
    (startMenuTimer c s).charges = s.charges := by
  unfold startMenuTimer
  try dsimp only
  repeat' split
  all_goals simp

@[simp] theorem playMenu_frame (c : ChannelIx) (s : State) :
    (playMenu c s).pending = s.pending ∧
    (playMenu c s).resetLow = s.resetLow ∧
    (playMenu c s).highway = s.highway ∧
    (playMenu c s).clock = s.clock ∧
    (playMenu c s).service = s.service ∧
    (playMenu c s).rooms = s.rooms ∧
    (playMenu c s).checkouts = s.checkouts ∧
    (playMenu c s).directory = s.directory ∧
    (playMenu c s).classes = s.classes ∧
    (playMenu c s).port = s.port ∧
    (playMenu c s).store = s.store ∧
    (playMenu c s).lamps = s.lamps ∧
    (playMenu c s).trunks = s.trunks ∧
    (playMenu c s).meters = s.meters ∧
    (playMenu c s).tariff = s.tariff ∧
    (playMenu c s).charges = s.charges := by
  unfold playMenu
  try dsimp only
  repeat' split
  all_goals simp

@[simp] theorem replayEnd_frame (c : ChannelIx) (s : State) :
    (replayEnd c s).pending = s.pending ∧
    (replayEnd c s).resetLow = s.resetLow ∧
    (replayEnd c s).highway = s.highway ∧
    (replayEnd c s).clock = s.clock ∧
    (replayEnd c s).service = s.service ∧
    (replayEnd c s).checkouts = s.checkouts ∧
    (replayEnd c s).directory = s.directory ∧
    (replayEnd c s).classes = s.classes ∧
    (replayEnd c s).port = s.port ∧
    (replayEnd c s).trunks = s.trunks ∧
    (replayEnd c s).meters = s.meters ∧
    (replayEnd c s).tariff = s.tariff ∧
    (replayEnd c s).charges = s.charges := by
  unfold replayEnd
  try dsimp only
  repeat' split
  all_goals simp

@[simp] theorem chooseNext_frame (c : ChannelIx) (s : State) :
    (chooseNext c s).pending = s.pending ∧
    (chooseNext c s).resetLow = s.resetLow ∧
    (chooseNext c s).clock = s.clock ∧
    (chooseNext c s).service = s.service ∧
    (chooseNext c s).checkouts = s.checkouts ∧
    (chooseNext c s).directory = s.directory ∧
    (chooseNext c s).classes = s.classes ∧
    (chooseNext c s).port = s.port ∧
    (chooseNext c s).trunks = s.trunks ∧
    (chooseNext c s).meters = s.meters ∧
    (chooseNext c s).tariff = s.tariff ∧
    (chooseNext c s).charges = s.charges := by
  unfold chooseNext
  try dsimp only
  repeat' split
  all_goals simp

@[simp] theorem enterAnnounce_frame (c : ChannelIx) (l : List PlayItem) (s : State) :
    (enterAnnounce c l s).pending = s.pending ∧
    (enterAnnounce c l s).resetLow = s.resetLow ∧
    (enterAnnounce c l s).clock = s.clock ∧
    (enterAnnounce c l s).service = s.service ∧
    (enterAnnounce c l s).checkouts = s.checkouts ∧
    (enterAnnounce c l s).directory = s.directory ∧
    (enterAnnounce c l s).classes = s.classes ∧
    (enterAnnounce c l s).port = s.port ∧
    (enterAnnounce c l s).trunks = s.trunks ∧
    (enterAnnounce c l s).meters = s.meters ∧
    (enterAnnounce c l s).tariff = s.tariff ∧
    (enterAnnounce c l s).charges = s.charges := by
  unfold enterAnnounce
  try dsimp only
  repeat' split
  all_goals simp

@[simp] theorem enterRecord_frame (c : ChannelIx) (r : RoomIx) (s : State) :
    (enterRecord c r s).pending = s.pending ∧
    (enterRecord c r s).resetLow = s.resetLow ∧
    (enterRecord c r s).highway = s.highway ∧
    (enterRecord c r s).clock = s.clock ∧
    (enterRecord c r s).link = s.link ∧
    (enterRecord c r s).service = s.service ∧
    (enterRecord c r s).attention = s.attention ∧
    (enterRecord c r s).checkouts = s.checkouts ∧
    (enterRecord c r s).directory = s.directory ∧
    (enterRecord c r s).classes = s.classes ∧
    (enterRecord c r s).port = s.port ∧
    (enterRecord c r s).lamps = s.lamps ∧
    (enterRecord c r s).trunks = s.trunks ∧
    (enterRecord c r s).meters = s.meters ∧
    (enterRecord c r s).tariff = s.tariff ∧
    (enterRecord c r s).charges = s.charges := by
  unfold enterRecord
  try dsimp only
  repeat' split
  all_goals simp

@[simp] theorem toneEnd_frame (c : ChannelIx) (s : State) :
    (toneEnd c s).pending = s.pending ∧
    (toneEnd c s).resetLow = s.resetLow ∧
    (toneEnd c s).clock = s.clock ∧
    (toneEnd c s).service = s.service ∧
    (toneEnd c s).checkouts = s.checkouts ∧
    (toneEnd c s).directory = s.directory ∧
    (toneEnd c s).classes = s.classes ∧
    (toneEnd c s).port = s.port ∧
    (toneEnd c s).trunks = s.trunks ∧
    (toneEnd c s).meters = s.meters ∧
    (toneEnd c s).tariff = s.tariff ∧
    (toneEnd c s).charges = s.charges := by
  unfold toneEnd
  try dsimp only
  repeat' split
  all_goals simp

@[simp] theorem enterGreet_frame (c : ChannelIx) (l : List PlayItem) (s : State) :
    (enterGreet c l s).pending = s.pending ∧
    (enterGreet c l s).resetLow = s.resetLow ∧
    (enterGreet c l s).clock = s.clock ∧
    (enterGreet c l s).service = s.service ∧
    (enterGreet c l s).checkouts = s.checkouts ∧
    (enterGreet c l s).directory = s.directory ∧
    (enterGreet c l s).classes = s.classes ∧
    (enterGreet c l s).port = s.port ∧
    (enterGreet c l s).trunks = s.trunks ∧
    (enterGreet c l s).meters = s.meters ∧
    (enterGreet c l s).tariff = s.tariff ∧
    (enterGreet c l s).charges = s.charges := by
  unfold enterGreet
  try dsimp only
  repeat' split
  all_goals simp

@[simp] theorem listEmptied_frame (c : ChannelIx) (s : State) :
    (listEmptied c s).pending = s.pending ∧
    (listEmptied c s).resetLow = s.resetLow ∧
    (listEmptied c s).clock = s.clock ∧
    (listEmptied c s).service = s.service ∧
    (listEmptied c s).checkouts = s.checkouts ∧
    (listEmptied c s).directory = s.directory ∧
    (listEmptied c s).classes = s.classes ∧
    (listEmptied c s).port = s.port ∧
    (listEmptied c s).trunks = s.trunks ∧
    (listEmptied c s).meters = s.meters ∧
    (listEmptied c s).tariff = s.tariff ∧
    (listEmptied c s).charges = s.charges := by
  unfold listEmptied
  try dsimp only
  repeat' split
  all_goals simp

@[simp] theorem itemEnd_frame (c : ChannelIx) (s : State) :
    (itemEnd c s).pending = s.pending ∧
    (itemEnd c s).resetLow = s.resetLow ∧
    (itemEnd c s).clock = s.clock ∧
    (itemEnd c s).service = s.service ∧
    (itemEnd c s).checkouts = s.checkouts ∧
    (itemEnd c s).directory = s.directory ∧
    (itemEnd c s).classes = s.classes ∧
    (itemEnd c s).port = s.port ∧
    (itemEnd c s).trunks = s.trunks ∧
    (itemEnd c s).meters = s.meters ∧
    (itemEnd c s).tariff = s.tariff ∧
    (itemEnd c s).charges = s.charges := by
  unfold itemEnd
  try dsimp only
  repeat' split
  all_goals simp

@[simp] theorem startDialogue_frame (c : ChannelIx) (p : Purpose) (s : State) :
    (startDialogue c p s).pending = s.pending ∧
    (startDialogue c p s).resetLow = s.resetLow ∧
    (startDialogue c p s).clock = s.clock ∧
    (startDialogue c p s).service = s.service ∧
    (startDialogue c p s).checkouts = s.checkouts ∧
    (startDialogue c p s).directory = s.directory ∧
    (startDialogue c p s).classes = s.classes ∧
    (startDialogue c p s).port = s.port ∧
    (startDialogue c p s).trunks = s.trunks ∧
    (startDialogue c p s).meters = s.meters ∧
    (startDialogue c p s).tariff = s.tariff ∧
    (startDialogue c p s).charges = s.charges := by
  cases p <;> simp only [startDialogue, startDeposit, startRetrieve, startNotice] <;> (repeat' split) <;> simp

@[simp] theorem grant_frame (c : ChannelIx) (k : Fin 126) (x : Nat) (p : Purpose) (s : State) :
    (grant c k x p s).pending = s.pending ∧
    (grant c k x p s).resetLow = s.resetLow ∧
    (grant c k x p s).clock = s.clock ∧
    (grant c k x p s).service = s.service ∧
    (grant c k x p s).checkouts = s.checkouts ∧
    (grant c k x p s).directory = s.directory ∧
    (grant c k x p s).classes = s.classes ∧
    (grant c k x p s).port = s.port ∧
    (grant c k x p s).trunks = s.trunks ∧
    (grant c k x p s).meters = s.meters ∧
    (grant c k x p s).tariff = s.tariff ∧
    (grant c k x p s).charges = s.charges := by
  unfold grant
  try dsimp only
  repeat' split
  all_goals simp

@[simp] theorem takeDivert_frame (o : Octet) (x : Nat) (p : Purpose) (s : State) :
    (takeDivert o x p s).pending = s.pending ∧
    (takeDivert o x p s).resetLow = s.resetLow ∧
    (takeDivert o x p s).clock = s.clock ∧
    (takeDivert o x p s).service = s.service ∧
    (takeDivert o x p s).checkouts = s.checkouts ∧
    (takeDivert o x p s).directory = s.directory ∧
    (takeDivert o x p s).classes = s.classes ∧
    (takeDivert o x p s).port = s.port ∧
    (takeDivert o x p s).trunks = s.trunks ∧
    (takeDivert o x p s).meters = s.meters ∧
    (takeDivert o x p s).tariff = s.tariff ∧
    (takeDivert o x p s).charges = s.charges := by
  unfold takeDivert
  try dsimp only
  repeat' split
  all_goals simp

@[simp] theorem messageKey_frame (c : ChannelIx) (k : Key) (s : State) :
    (messageKey c k s).pending = s.pending ∧
    (messageKey c k s).resetLow = s.resetLow ∧
    (messageKey c k s).clock = s.clock ∧
    (messageKey c k s).service = s.service ∧
    (messageKey c k s).checkouts = s.checkouts ∧
    (messageKey c k s).directory = s.directory ∧
    (messageKey c k s).classes = s.classes ∧
    (messageKey c k s).port = s.port ∧
    (messageKey c k s).trunks = s.trunks ∧
    (messageKey c k s).meters = s.meters ∧
    (messageKey c k s).tariff = s.tariff ∧
    (messageKey c k s).charges = s.charges := by
  unfold messageKey
  try dsimp only
  repeat' split
  all_goals simp

@[simp] theorem channelKey_frame (c : ChannelIx) (k : Key) (s : State) :
    (channelKey c k s).pending = s.pending ∧
    (channelKey c k s).resetLow = s.resetLow ∧
    (channelKey c k s).clock = s.clock ∧
    (channelKey c k s).service = s.service ∧
    (channelKey c k s).checkouts = s.checkouts ∧
    (channelKey c k s).directory = s.directory ∧
    (channelKey c k s).classes = s.classes ∧
    (channelKey c k s).trunks = s.trunks ∧
    (channelKey c k s).meters = s.meters ∧
    (channelKey c k s).tariff = s.tariff ∧
    (channelKey c k s).charges = s.charges := by
  unfold channelKey
  try dsimp only
  repeat' split
  all_goals simp

@[simp] theorem takeKey_frame (o : Octet) (k : Key) (s : State) :
    (takeKey o k s).pending = s.pending ∧
    (takeKey o k s).resetLow = s.resetLow ∧
    (takeKey o k s).clock = s.clock ∧
    (takeKey o k s).checkouts = s.checkouts ∧
    (takeKey o k s).directory = s.directory ∧
    (takeKey o k s).classes = s.classes ∧
    (takeKey o k s).trunks = s.trunks ∧
    (takeKey o k s).meters = s.meters ∧
    (takeKey o k s).tariff = s.tariff ∧
    (takeKey o k s).charges = s.charges := by
  unfold takeKey
  try dsimp only
  repeat' split
  all_goals simp

@[simp] theorem slotCleared_frame (c : ChannelIx) (s : State) :
    (slotCleared c s).pending = s.pending ∧
    (slotCleared c s).resetLow = s.resetLow ∧
    (slotCleared c s).clock = s.clock ∧
    (slotCleared c s).service = s.service ∧
    (slotCleared c s).checkouts = s.checkouts ∧
    (slotCleared c s).directory = s.directory ∧
    (slotCleared c s).classes = s.classes ∧
    (slotCleared c s).trunks = s.trunks ∧
    (slotCleared c s).meters = s.meters ∧
    (slotCleared c s).tariff = s.tariff ∧
    (slotCleared c s).charges = s.charges := by
  unfold slotCleared
  try dsimp only
  repeat' split
  all_goals simp

@[simp] theorem takeSlotClear_frame (o : Octet) (s : State) :
    (takeSlotClear o s).pending = s.pending ∧
    (takeSlotClear o s).resetLow = s.resetLow ∧
    (takeSlotClear o s).clock = s.clock ∧
    (takeSlotClear o s).checkouts = s.checkouts ∧
    (takeSlotClear o s).directory = s.directory ∧
    (takeSlotClear o s).classes = s.classes ∧
    (takeSlotClear o s).trunks = s.trunks ∧
    (takeSlotClear o s).meters = s.meters ∧
    (takeSlotClear o s).tariff = s.tariff ∧
    (takeSlotClear o s).charges = s.charges := by
  unfold takeSlotClear
  try dsimp only
  repeat' split
  all_goals simp

@[simp] theorem closeRequest_frame (c : ChannelIx) (s : State) :
    (closeRequest c s).pending = s.pending ∧
    (closeRequest c s).resetLow = s.resetLow ∧
    (closeRequest c s).clock = s.clock ∧
    (closeRequest c s).service = s.service ∧
    (closeRequest c s).checkouts = s.checkouts ∧
    (closeRequest c s).directory = s.directory ∧
    (closeRequest c s).classes = s.classes ∧
    (closeRequest c s).trunks = s.trunks ∧
    (closeRequest c s).meters = s.meters ∧
    (closeRequest c s).tariff = s.tariff ∧
    (closeRequest c s).charges = s.charges := by
  unfold closeRequest
  try dsimp only
  repeat' split
  all_goals simp

@[simp] theorem channelReset_frame (c : ChannelIx) (s : State) :
    (channelReset c s).pending = s.pending ∧
    (channelReset c s).resetLow = s.resetLow ∧
    (channelReset c s).clock = s.clock ∧
    (channelReset c s).service = s.service ∧
    (channelReset c s).checkouts = s.checkouts ∧
    (channelReset c s).directory = s.directory ∧
    (channelReset c s).classes = s.classes ∧
    (channelReset c s).trunks = s.trunks ∧
    (channelReset c s).meters = s.meters ∧
    (channelReset c s).tariff = s.tariff ∧
    (channelReset c s).charges = s.charges := by
  unfold channelReset
  try dsimp only
  repeat' split
  all_goals simp

@[simp] theorem menuExpiry_frame (c : ChannelIx) (s : State) :
    (menuExpiry c s).pending = s.pending ∧
    (menuExpiry c s).resetLow = s.resetLow ∧
    (menuExpiry c s).clock = s.clock ∧
    (menuExpiry c s).service = s.service ∧
    (menuExpiry c s).rooms = s.rooms ∧
    (menuExpiry c s).checkouts = s.checkouts ∧
    (menuExpiry c s).directory = s.directory ∧
    (menuExpiry c s).classes = s.classes ∧
    (menuExpiry c s).port = s.port ∧
    (menuExpiry c s).lamps = s.lamps ∧
    (menuExpiry c s).trunks = s.trunks ∧
    (menuExpiry c s).meters = s.meters ∧
    (menuExpiry c s).tariff = s.tariff ∧
    (menuExpiry c s).charges = s.charges := by
  unfold menuExpiry
  try dsimp only
  repeat' split
  all_goals simp

@[simp] theorem speechFrameEnd_frame (c : ChannelIx) (s : State) :
    (speechFrameEnd c s).pending = s.pending ∧
    (speechFrameEnd c s).resetLow = s.resetLow ∧
    (speechFrameEnd c s).clock = s.clock ∧
    (speechFrameEnd c s).service = s.service ∧
    (speechFrameEnd c s).checkouts = s.checkouts ∧
    (speechFrameEnd c s).directory = s.directory ∧
    (speechFrameEnd c s).classes = s.classes ∧
    (speechFrameEnd c s).trunks = s.trunks ∧
    (speechFrameEnd c s).meters = s.meters ∧
    (speechFrameEnd c s).tariff = s.tariff ∧
    (speechFrameEnd c s).charges = s.charges := by
  unfold speechFrameEnd
  try dsimp only
  repeat' split
  all_goals simp

@[simp] theorem maxLength_frame (c : ChannelIx) (s : State) :
    (maxLength c s).pending = s.pending ∧
    (maxLength c s).resetLow = s.resetLow ∧
    (maxLength c s).clock = s.clock ∧
    (maxLength c s).service = s.service ∧
    (maxLength c s).checkouts = s.checkouts ∧
    (maxLength c s).directory = s.directory ∧
    (maxLength c s).classes = s.classes ∧
    (maxLength c s).trunks = s.trunks ∧
    (maxLength c s).meters = s.meters ∧
    (maxLength c s).tariff = s.tariff ∧
    (maxLength c s).charges = s.charges := by
  unfold maxLength
  try dsimp only
  repeat' split
  all_goals simp

@[simp] theorem noVoice_frame (c : ChannelIx) (s : State) :
    (noVoice c s).pending = s.pending ∧
    (noVoice c s).resetLow = s.resetLow ∧
    (noVoice c s).clock = s.clock ∧
    (noVoice c s).service = s.service ∧
    (noVoice c s).checkouts = s.checkouts ∧
    (noVoice c s).directory = s.directory ∧
    (noVoice c s).classes = s.classes ∧
    (noVoice c s).trunks = s.trunks ∧
    (noVoice c s).meters = s.meters ∧
    (noVoice c s).tariff = s.tariff ∧
    (noVoice c s).charges = s.charges := by
  unfold noVoice
  try dsimp only
  repeat' split
  all_goals simp

end Sys2Proof.Machine
end

