-- ==== Sys2Proof/Laws/Port.lean ====
section
/-! SUPPORT. What the operations of Machine/Maintenance.lean and Machine/Port.lean leave as it was. Each lemma is a conjunction of equations that `simp`
reads one by one; the fields it does not name are those the operation may write. -/

namespace Sys2Proof.Machine

@[simp] theorem jobReply_frame (st : Status) (d : List Octet) (s : State) :
    (jobReply st d s).pending = s.pending ∧
    (jobReply st d s).resetLow = s.resetLow ∧
    (jobReply st d s).highway = s.highway ∧
    (jobReply st d s).clock = s.clock ∧
    (jobReply st d s).service = s.service ∧
    (jobReply st d s).attention = s.attention ∧
    (jobReply st d s).rooms = s.rooms ∧
    (jobReply st d s).checkouts = s.checkouts ∧
    (jobReply st d s).directory = s.directory ∧
    (jobReply st d s).classes = s.classes ∧
    (jobReply st d s).channels = s.channels ∧
    (jobReply st d s).coder = s.coder ∧
    (jobReply st d s).rings = s.rings ∧
    (jobReply st d s).port = s.port ∧
    (jobReply st d s).lamps = s.lamps ∧
    (jobReply st d s).trunks = s.trunks ∧
    (jobReply st d s).meters = s.meters ∧
    (jobReply st d s).tariff = s.tariff ∧
    (jobReply st d s).charges = s.charges := by
  unfold jobReply
  try dsimp only
  repeat' split
  all_goals simp

@[simp] theorem faultIf_frame (b : Bool) (s : State) :
    (faultIf b s).pending = s.pending ∧
    (faultIf b s).resetLow = s.resetLow ∧
    (faultIf b s).highway = s.highway ∧
    (faultIf b s).clock = s.clock ∧
    (faultIf b s).service = s.service ∧
    (faultIf b s).rooms = s.rooms ∧
    (faultIf b s).checkouts = s.checkouts ∧
    (faultIf b s).directory = s.directory ∧
    (faultIf b s).classes = s.classes ∧
    (faultIf b s).channels = s.channels ∧
    (faultIf b s).coder = s.coder ∧
    (faultIf b s).rings = s.rings ∧
    (faultIf b s).port = s.port ∧
    (faultIf b s).store = s.store ∧
    (faultIf b s).lamps = s.lamps ∧
    (faultIf b s).trunks = s.trunks ∧
    (faultIf b s).meters = s.meters ∧
    (faultIf b s).tariff = s.tariff ∧
    (faultIf b s).charges = s.charges := by
  unfold faultIf
  try dsimp only
  repeat' split
  all_goals simp

@[simp] theorem promptEraseDone_frame (b : Bool) (s : State) :
    (promptEraseDone b s).pending = s.pending ∧
    (promptEraseDone b s).resetLow = s.resetLow ∧
    (promptEraseDone b s).highway = s.highway ∧
    (promptEraseDone b s).clock = s.clock ∧
    (promptEraseDone b s).service = s.service ∧
    (promptEraseDone b s).rooms = s.rooms ∧
    (promptEraseDone b s).checkouts = s.checkouts ∧
    (promptEraseDone b s).directory = s.directory ∧
    (promptEraseDone b s).classes = s.classes ∧
    (promptEraseDone b s).channels = s.channels ∧
    (promptEraseDone b s).coder = s.coder ∧
    (promptEraseDone b s).rings = s.rings ∧
    (promptEraseDone b s).port = s.port ∧
    (promptEraseDone b s).lamps = s.lamps ∧
    (promptEraseDone b s).trunks = s.trunks ∧
    (promptEraseDone b s).meters = s.meters ∧
    (promptEraseDone b s).tariff = s.tariff ∧
    (promptEraseDone b s).charges = s.charges := by
  unfold promptEraseDone
  try dsimp only
  repeat' split
  all_goals simp

@[simp] theorem promptProgramDone_frame (b : Bool) (s : State) :
    (promptProgramDone b s).pending = s.pending ∧
    (promptProgramDone b s).resetLow = s.resetLow ∧
    (promptProgramDone b s).highway = s.highway ∧
    (promptProgramDone b s).clock = s.clock ∧
    (promptProgramDone b s).service = s.service ∧
    (promptProgramDone b s).rooms = s.rooms ∧
    (promptProgramDone b s).checkouts = s.checkouts ∧
    (promptProgramDone b s).directory = s.directory ∧
    (promptProgramDone b s).classes = s.classes ∧
    (promptProgramDone b s).channels = s.channels ∧
    (promptProgramDone b s).coder = s.coder ∧
    (promptProgramDone b s).rings = s.rings ∧
    (promptProgramDone b s).port = s.port ∧
    (promptProgramDone b s).lamps = s.lamps ∧
    (promptProgramDone b s).trunks = s.trunks ∧
    (promptProgramDone b s).meters = s.meters ∧
    (promptProgramDone b s).tariff = s.tariff ∧
    (promptProgramDone b s).charges = s.charges := by
  unfold promptProgramDone
  try dsimp only
  repeat' split
  all_goals simp

@[simp] theorem promptPageRead_frame (d : Option (Vector Octet 512)) (s : State) :
    (promptPageRead d s).pending = s.pending ∧
    (promptPageRead d s).resetLow = s.resetLow ∧
    (promptPageRead d s).highway = s.highway ∧
    (promptPageRead d s).clock = s.clock ∧
    (promptPageRead d s).service = s.service ∧
    (promptPageRead d s).rooms = s.rooms ∧
    (promptPageRead d s).checkouts = s.checkouts ∧
    (promptPageRead d s).directory = s.directory ∧
    (promptPageRead d s).classes = s.classes ∧
    (promptPageRead d s).channels = s.channels ∧
    (promptPageRead d s).coder = s.coder ∧
    (promptPageRead d s).rings = s.rings ∧
    (promptPageRead d s).port = s.port ∧
    (promptPageRead d s).lamps = s.lamps ∧
    (promptPageRead d s).trunks = s.trunks ∧
    (promptPageRead d s).meters = s.meters ∧
    (promptPageRead d s).tariff = s.tariff ∧
    (promptPageRead d s).charges = s.charges := by
  unfold promptPageRead
  try dsimp only
  repeat' split
  all_goals simp

@[simp] theorem promptSpareRead_frame (d : Option (Vector Octet 16)) (s : State) :
    (promptSpareRead d s).pending = s.pending ∧
    (promptSpareRead d s).resetLow = s.resetLow ∧
    (promptSpareRead d s).highway = s.highway ∧
    (promptSpareRead d s).clock = s.clock ∧
    (promptSpareRead d s).service = s.service ∧
    (promptSpareRead d s).rooms = s.rooms ∧
    (promptSpareRead d s).checkouts = s.checkouts ∧
    (promptSpareRead d s).directory = s.directory ∧
    (promptSpareRead d s).classes = s.classes ∧
    (promptSpareRead d s).channels = s.channels ∧
    (promptSpareRead d s).coder = s.coder ∧
    (promptSpareRead d s).rings = s.rings ∧
    (promptSpareRead d s).port = s.port ∧
    (promptSpareRead d s).lamps = s.lamps ∧
    (promptSpareRead d s).trunks = s.trunks ∧
    (promptSpareRead d s).meters = s.meters ∧
    (promptSpareRead d s).tariff = s.tariff ∧
    (promptSpareRead d s).charges = s.charges := by
  unfold promptSpareRead
  try dsimp only
  repeat' split
  all_goals simp

@[simp] theorem enterMailboxes_frame (l : List Message) (s : State) :
    (enterMailboxes l s).pending = s.pending ∧
    (enterMailboxes l s).resetLow = s.resetLow ∧
    (enterMailboxes l s).highway = s.highway ∧
    (enterMailboxes l s).clock = s.clock ∧
    (enterMailboxes l s).link = s.link ∧
    (enterMailboxes l s).service = s.service ∧
    (enterMailboxes l s).attention = s.attention ∧
    (enterMailboxes l s).checkouts = s.checkouts ∧
    (enterMailboxes l s).directory = s.directory ∧
    (enterMailboxes l s).classes = s.classes ∧
    (enterMailboxes l s).channels = s.channels ∧
    (enterMailboxes l s).coder = s.coder ∧
    (enterMailboxes l s).rings = s.rings ∧
    (enterMailboxes l s).port = s.port ∧
    (enterMailboxes l s).store = s.store ∧
    (enterMailboxes l s).lamps = s.lamps ∧
    (enterMailboxes l s).trunks = s.trunks ∧
    (enterMailboxes l s).meters = s.meters ∧
    (enterMailboxes l s).tariff = s.tariff ∧
    (enterMailboxes l s).charges = s.charges := by
  unfold enterMailboxes
  induction l generalizing s with
  | nil => simp
  | cons a l ih => simp [ih]

@[simp] theorem mountEnd_frame (m : MountJob) (s : State) :
    (mountEnd m s).pending = s.pending ∧
    (mountEnd m s).resetLow = s.resetLow ∧
    (mountEnd m s).highway = s.highway ∧
    (mountEnd m s).clock = s.clock ∧
    (mountEnd m s).checkouts = s.checkouts ∧
    (mountEnd m s).directory = s.directory ∧
    (mountEnd m s).classes = s.classes ∧
    (mountEnd m s).channels = s.channels ∧
    (mountEnd m s).coder = s.coder ∧
    (mountEnd m s).rings = s.rings ∧
    (mountEnd m s).port = s.port ∧
    (mountEnd m s).trunks = s.trunks ∧
    (mountEnd m s).meters = s.meters ∧
    (mountEnd m s).tariff = s.tariff ∧
    (mountEnd m s).charges = s.charges := by
  unfold mountEnd
  try dsimp only
  repeat' split
  all_goals simp

@[simp] theorem mountNext_frame (m : MountJob) (s : State) :
    (mountNext m s).pending = s.pending ∧
    (mountNext m s).resetLow = s.resetLow ∧
    (mountNext m s).highway = s.highway ∧
    (mountNext m s).clock = s.clock ∧
    (mountNext m s).checkouts = s.checkouts ∧
    (mountNext m s).directory = s.directory ∧
    (mountNext m s).classes = s.classes ∧
    (mountNext m s).channels = s.channels ∧
    (mountNext m s).coder = s.coder ∧
    (mountNext m s).rings = s.rings ∧
    (mountNext m s).port = s.port ∧
    (mountNext m s).trunks = s.trunks ∧
    (mountNext m s).meters = s.meters ∧
    (mountNext m s).tariff = s.tariff ∧
    (mountNext m s).charges = s.charges := by
  unfold mountNext
  try dsimp only
  repeat' split
  all_goals simp

@[simp] theorem mountReadDone_frame (d : Option (Vector Octet 16)) (s : State) :
    (mountReadDone d s).pending = s.pending ∧
    (mountReadDone d s).resetLow = s.resetLow ∧
    (mountReadDone d s).highway = s.highway ∧
    (mountReadDone d s).clock = s.clock ∧
    (mountReadDone d s).checkouts = s.checkouts ∧
    (mountReadDone d s).directory = s.directory ∧
    (mountReadDone d s).classes = s.classes ∧
    (mountReadDone d s).channels = s.channels ∧
    (mountReadDone d s).coder = s.coder ∧
    (mountReadDone d s).rings = s.rings ∧
    (mountReadDone d s).port = s.port ∧
    (mountReadDone d s).trunks = s.trunks ∧
    (mountReadDone d s).meters = s.meters ∧
    (mountReadDone d s).tariff = s.tariff ∧
    (mountReadDone d s).charges = s.charges := by
  unfold mountReadDone
  try dsimp only
  repeat' split
  all_goals simp

@[simp] theorem issue_frame (op : FlashOp) (s : State) :
    (issue op s).pending = s.pending ∧
    (issue op s).resetLow = s.resetLow ∧
    (issue op s).highway = s.highway ∧
    (issue op s).clock = s.clock ∧
    (issue op s).link = s.link ∧
    (issue op s).service = s.service ∧
    (issue op s).attention = s.attention ∧
    (issue op s).rooms = s.rooms ∧
    (issue op s).checkouts = s.checkouts ∧
    (issue op s).directory = s.directory ∧
    (issue op s).classes = s.classes ∧
    (issue op s).channels = s.channels ∧
    (issue op s).coder = s.coder ∧
    (issue op s).rings = s.rings ∧
    (issue op s).store = s.store ∧
    (issue op s).lamps = s.lamps ∧
    (issue op s).trunks = s.trunks ∧
    (issue op s).meters = s.meters ∧
    (issue op s).tariff = s.tariff ∧
    (issue op s).charges = s.charges := by
  unfold issue
  try dsimp only
  repeat' split
  all_goals simp

@[simp] theorem issueErase_frame (s : State) :
    (issueErase s).pending = s.pending ∧
    (issueErase s).resetLow = s.resetLow ∧
    (issueErase s).highway = s.highway ∧
    (issueErase s).clock = s.clock ∧
    (issueErase s).link = s.link ∧
    (issueErase s).service = s.service ∧
    (issueErase s).attention = s.attention ∧
    (issueErase s).rooms = s.rooms ∧
    (issueErase s).checkouts = s.checkouts ∧
    (issueErase s).directory = s.directory ∧
    (issueErase s).classes = s.classes ∧
    (issueErase s).channels = s.channels ∧
    (issueErase s).coder = s.coder ∧
    (issueErase s).rings = s.rings ∧
    (issueErase s).lamps = s.lamps ∧
    (issueErase s).trunks = s.trunks ∧
    (issueErase s).meters = s.meters ∧
    (issueErase s).tariff = s.tariff ∧
    (issueErase s).charges = s.charges := by
  unfold issueErase
  try dsimp only
  repeat' split
  all_goals simp

@[simp] theorem issueRead_frame (c : ChannelIx) (k : Nat) (s : State) :
    (issueRead c k s).pending = s.pending ∧
    (issueRead c k s).resetLow = s.resetLow ∧
    (issueRead c k s).highway = s.highway ∧
    (issueRead c k s).clock = s.clock ∧
    (issueRead c k s).link = s.link ∧
    (issueRead c k s).service = s.service ∧
    (issueRead c k s).attention = s.attention ∧
    (issueRead c k s).rooms = s.rooms ∧
    (issueRead c k s).checkouts = s.checkouts ∧
    (issueRead c k s).directory = s.directory ∧
    (issueRead c k s).classes = s.classes ∧
    (issueRead c k s).channels = s.channels ∧
    (issueRead c k s).coder = s.coder ∧
    (issueRead c k s).store = s.store ∧
    (issueRead c k s).lamps = s.lamps ∧
    (issueRead c k s).trunks = s.trunks ∧
    (issueRead c k s).meters = s.meters ∧
    (issueRead c k s).tariff = s.tariff ∧
    (issueRead c k s).charges = s.charges := by
  unfold issueRead
  try dsimp only
  repeat' split
  all_goals simp

@[simp] theorem issueProgram_frame (q : ProgramRequest) (s : State) :
    (issueProgram q s).pending = s.pending ∧
    (issueProgram q s).resetLow = s.resetLow ∧
    (issueProgram q s).highway = s.highway ∧
    (issueProgram q s).clock = s.clock ∧
    (issueProgram q s).link = s.link ∧
    (issueProgram q s).service = s.service ∧
    (issueProgram q s).attention = s.attention ∧
    (issueProgram q s).rooms = s.rooms ∧
    (issueProgram q s).checkouts = s.checkouts ∧
    (issueProgram q s).directory = s.directory ∧
    (issueProgram q s).classes = s.classes ∧
    (issueProgram q s).channels = s.channels ∧
    (issueProgram q s).coder = s.coder ∧
    (issueProgram q s).store = s.store ∧
    (issueProgram q s).lamps = s.lamps ∧
    (issueProgram q s).trunks = s.trunks ∧
    (issueProgram q s).meters = s.meters ∧
    (issueProgram q s).tariff = s.tariff ∧
    (issueProgram q s).charges = s.charges := by
  unfold issueProgram
  try dsimp only
  repeat' split
  all_goals simp

@[simp] theorem issueMark_frame (s : State) :
    (issueMark s).pending = s.pending ∧
    (issueMark s).resetLow = s.resetLow ∧
    (issueMark s).highway = s.highway ∧
    (issueMark s).clock = s.clock ∧
    (issueMark s).link = s.link ∧
    (issueMark s).service = s.service ∧
    (issueMark s).attention = s.attention ∧
    (issueMark s).rooms = s.rooms ∧
    (issueMark s).checkouts = s.checkouts ∧
    (issueMark s).directory = s.directory ∧
    (issueMark s).classes = s.classes ∧
    (issueMark s).channels = s.channels ∧
    (issueMark s).coder = s.coder ∧
    (issueMark s).rings = s.rings ∧
    (issueMark s).lamps = s.lamps ∧
    (issueMark s).trunks = s.trunks ∧
    (issueMark s).meters = s.meters ∧
    (issueMark s).tariff = s.tariff ∧
    (issueMark s).charges = s.charges := by
  unfold issueMark
  try dsimp only
  repeat' split
  all_goals simp

@[simp] theorem chooseUpkeep_frame (s : State) :
    (chooseUpkeep s).pending = s.pending ∧
    (chooseUpkeep s).resetLow = s.resetLow ∧
    (chooseUpkeep s).highway = s.highway ∧
    (chooseUpkeep s).clock = s.clock ∧
    (chooseUpkeep s).link = s.link ∧
    (chooseUpkeep s).service = s.service ∧
    (chooseUpkeep s).attention = s.attention ∧
    (chooseUpkeep s).rooms = s.rooms ∧
    (chooseUpkeep s).checkouts = s.checkouts ∧
    (chooseUpkeep s).directory = s.directory ∧
    (chooseUpkeep s).classes = s.classes ∧
    (chooseUpkeep s).channels = s.channels ∧
    (chooseUpkeep s).coder = s.coder ∧
    (chooseUpkeep s).rings = s.rings ∧
    (chooseUpkeep s).lamps = s.lamps ∧
    (chooseUpkeep s).trunks = s.trunks ∧
    (chooseUpkeep s).meters = s.meters ∧
    (chooseUpkeep s).tariff = s.tariff ∧
    (chooseUpkeep s).charges = s.charges := by
  unfold chooseUpkeep
  try dsimp only
  repeat' split
  all_goals simp

@[simp] theorem arbiterChoice_frame (s : State) :
    (arbiterChoice s).pending = s.pending ∧
    (arbiterChoice s).resetLow = s.resetLow ∧
    (arbiterChoice s).highway = s.highway ∧
    (arbiterChoice s).clock = s.clock ∧
    (arbiterChoice s).link = s.link ∧
    (arbiterChoice s).service = s.service ∧
    (arbiterChoice s).attention = s.attention ∧
    (arbiterChoice s).rooms = s.rooms ∧
    (arbiterChoice s).checkouts = s.checkouts ∧
    (arbiterChoice s).directory = s.directory ∧
    (arbiterChoice s).classes = s.classes ∧
    (arbiterChoice s).channels = s.channels ∧
    (arbiterChoice s).coder = s.coder ∧
    (arbiterChoice s).lamps = s.lamps ∧
    (arbiterChoice s).trunks = s.trunks ∧
    (arbiterChoice s).meters = s.meters ∧
    (arbiterChoice s).tariff = s.tariff ∧
    (arbiterChoice s).charges = s.charges := by
  unfold arbiterChoice
  try dsimp only
  repeat' split
  all_goals simp

@[simp] theorem endOp_frame (p : PortState) (l : List FlashCycle) (s : State) :
    (endOp p l s).pending = s.pending ∧
    (endOp p l s).resetLow = s.resetLow ∧
    (endOp p l s).highway = s.highway ∧
    (endOp p l s).clock = s.clock ∧
    (endOp p l s).link = s.link ∧
    (endOp p l s).service = s.service ∧
    (endOp p l s).attention = s.attention ∧
    (endOp p l s).rooms = s.rooms ∧
    (endOp p l s).checkouts = s.checkouts ∧
    (endOp p l s).directory = s.directory ∧
    (endOp p l s).classes = s.classes ∧
    (endOp p l s).channels = s.channels ∧
    (endOp p l s).coder = s.coder ∧
    (endOp p l s).rings = s.rings ∧
    (endOp p l s).store = s.store ∧
    (endOp p l s).lamps = s.lamps ∧
    (endOp p l s).trunks = s.trunks ∧
    (endOp p l s).meters = s.meters ∧
    (endOp p l s).tariff = s.tariff ∧
    (endOp p l s).charges = s.charges := by
  unfold endOp
  try dsimp only
  repeat' split
  all_goals simp

@[simp] theorem pageProgrammed_frame (c : ChannelIx) (s : State) :
    (pageProgrammed c s).pending = s.pending ∧
    (pageProgrammed c s).resetLow = s.resetLow ∧
    (pageProgrammed c s).highway = s.highway ∧
    (pageProgrammed c s).clock = s.clock ∧
    (pageProgrammed c s).link = s.link ∧
    (pageProgrammed c s).service = s.service ∧
    (pageProgrammed c s).attention = s.attention ∧
    (pageProgrammed c s).rooms = s.rooms ∧
    (pageProgrammed c s).checkouts = s.checkouts ∧
    (pageProgrammed c s).directory = s.directory ∧
    (pageProgrammed c s).classes = s.classes ∧
    (pageProgrammed c s).channels = s.channels ∧
    (pageProgrammed c s).coder = s.coder ∧
    (pageProgrammed c s).port = s.port ∧
    (pageProgrammed c s).store = s.store ∧
    (pageProgrammed c s).lamps = s.lamps ∧
    (pageProgrammed c s).trunks = s.trunks ∧
    (pageProgrammed c s).meters = s.meters ∧
    (pageProgrammed c s).tariff = s.tariff ∧
    (pageProgrammed c s).charges = s.charges := by
  unfold pageProgrammed
  try dsimp only
  repeat' split
  all_goals simp

@[simp] theorem programPassed_frame (c : ChannelIx) (n b p : Nat) (h : Bool) (s : State) :
    (programPassed c n b p h s).pending = s.pending ∧
    (programPassed c n b p h s).resetLow = s.resetLow ∧
    (programPassed c n b p h s).clock = s.clock ∧
    (programPassed c n b p h s).service = s.service ∧
    (programPassed c n b p h s).checkouts = s.checkouts ∧
    (programPassed c n b p h s).directory = s.directory ∧
    (programPassed c n b p h s).classes = s.classes ∧
    (programPassed c n b p h s).trunks = s.trunks ∧
    (programPassed c n b p h s).meters = s.meters ∧
    (programPassed c n b p h s).tariff = s.tariff ∧
    (programPassed c n b p h s).charges = s.charges := by
  unfold programPassed
  try dsimp only
  repeat' split
  all_goals simp

@[simp] theorem continueIn_frame (c : ChannelIx) (n b : Nat) (s : State) :
    (continueIn c n b s).pending = s.pending ∧
    (continueIn c n b s).resetLow = s.resetLow ∧
    (continueIn c n b s).highway = s.highway ∧
    (continueIn c n b s).clock = s.clock ∧
    (continueIn c n b s).link = s.link ∧
    (continueIn c n b s).service = s.service ∧
    (continueIn c n b s).attention = s.attention ∧
    (continueIn c n b s).rooms = s.rooms ∧
    (continueIn c n b s).checkouts = s.checkouts ∧
    (continueIn c n b s).directory = s.directory ∧
    (continueIn c n b s).classes = s.classes ∧
    (continueIn c n b s).channels = s.channels ∧
    (continueIn c n b s).coder = s.coder ∧
    (continueIn c n b s).port = s.port ∧
    (continueIn c n b s).lamps = s.lamps ∧
    (continueIn c n b s).trunks = s.trunks ∧
    (continueIn c n b s).meters = s.meters ∧
    (continueIn c n b s).tariff = s.tariff ∧
    (continueIn c n b s).charges = s.charges := by
  unfold continueIn
  try dsimp only
  repeat' split
  all_goals simp

@[simp] theorem failedDropped_frame (c : ChannelIx) (s : State) :
    (failedDropped c s).pending = s.pending ∧
    (failedDropped c s).resetLow = s.resetLow ∧
    (failedDropped c s).highway = s.highway ∧
    (failedDropped c s).clock = s.clock ∧
    (failedDropped c s).link = s.link ∧
    (failedDropped c s).service = s.service ∧
    (failedDropped c s).attention = s.attention ∧
    (failedDropped c s).rooms = s.rooms ∧
    (failedDropped c s).checkouts = s.checkouts ∧
    (failedDropped c s).directory = s.directory ∧
    (failedDropped c s).classes = s.classes ∧
    (failedDropped c s).channels = s.channels ∧
    (failedDropped c s).coder = s.coder ∧
    (failedDropped c s).port = s.port ∧
    (failedDropped c s).store = s.store ∧
    (failedDropped c s).lamps = s.lamps ∧
    (failedDropped c s).trunks = s.trunks ∧
    (failedDropped c s).meters = s.meters ∧
    (failedDropped c s).tariff = s.tariff ∧
    (failedDropped c s).charges = s.charges := by
  unfold failedDropped
  try dsimp only
  repeat' split
  all_goals simp

@[simp] theorem retryProgram_frame (c : ChannelIx) (n b : Nat) (s : State) :
    (retryProgram c n b s).pending = s.pending ∧
    (retryProgram c n b s).resetLow = s.resetLow ∧
    (retryProgram c n b s).clock = s.clock ∧
    (retryProgram c n b s).service = s.service ∧
    (retryProgram c n b s).checkouts = s.checkouts ∧
    (retryProgram c n b s).directory = s.directory ∧
    (retryProgram c n b s).classes = s.classes ∧
    (retryProgram c n b s).port = s.port ∧
    (retryProgram c n b s).trunks = s.trunks ∧
    (retryProgram c n b s).meters = s.meters ∧
    (retryProgram c n b s).tariff = s.tariff ∧
    (retryProgram c n b s).charges = s.charges := by
  unfold retryProgram
  try dsimp only
  repeat' split
  all_goals simp

@[simp] theorem programDone_frame (q : Bool) (c : ChannelIx) (n b p : Nat) (h : Bool) (s : State) :
    (programDone q c n b p h s).pending = s.pending ∧
    (programDone q c n b p h s).resetLow = s.resetLow ∧
    (programDone q c n b p h s).clock = s.clock ∧
    (programDone q c n b p h s).service = s.service ∧
    (programDone q c n b p h s).checkouts = s.checkouts ∧
    (programDone q c n b p h s).directory = s.directory ∧
    (programDone q c n b p h s).classes = s.classes ∧
    (programDone q c n b p h s).trunks = s.trunks ∧
    (programDone q c n b p h s).meters = s.meters ∧
    (programDone q c n b p h s).tariff = s.tariff ∧
    (programDone q c n b p h s).charges = s.charges := by
  unfold programDone
  try dsimp only
  repeat' split
  all_goals simp

@[simp] theorem programAccepted_frame (q : Bool) (n b p : Nat) (h : Bool) (s : State) :
    (programAccepted q n b p h s).pending = s.pending ∧
    (programAccepted q n b p h s).resetLow = s.resetLow ∧
    (programAccepted q n b p h s).highway = s.highway ∧
    (programAccepted q n b p h s).clock = s.clock ∧
    (programAccepted q n b p h s).service = s.service ∧
    (programAccepted q n b p h s).rooms = s.rooms ∧
    (programAccepted q n b p h s).checkouts = s.checkouts ∧
    (programAccepted q n b p h s).directory = s.directory ∧
    (programAccepted q n b p h s).classes = s.classes ∧
    (programAccepted q n b p h s).channels = s.channels ∧
    (programAccepted q n b p h s).coder = s.coder ∧
    (programAccepted q n b p h s).rings = s.rings ∧
    (programAccepted q n b p h s).port = s.port ∧
    (programAccepted q n b p h s).lamps = s.lamps ∧
    (programAccepted q n b p h s).trunks = s.trunks ∧
    (programAccepted q n b p h s).meters = s.meters ∧
    (programAccepted q n b p h s).tariff = s.tariff ∧
    (programAccepted q n b p h s).charges = s.charges := by
  unfold programAccepted
  try dsimp only
  repeat' split
  all_goals simp

@[simp] theorem heldProgramDone_frame (q : Bool) (c : ChannelIx) (n b p : Nat) (h : Bool) (s : State) :
    (heldProgramDone q c n b p h s).pending = s.pending ∧
    (heldProgramDone q c n b p h s).resetLow = s.resetLow ∧
    (heldProgramDone q c n b p h s).clock = s.clock ∧
    (heldProgramDone q c n b p h s).service = s.service ∧
    (heldProgramDone q c n b p h s).checkouts = s.checkouts ∧
    (heldProgramDone q c n b p h s).directory = s.directory ∧
    (heldProgramDone q c n b p h s).classes = s.classes ∧
    (heldProgramDone q c n b p h s).trunks = s.trunks ∧
    (heldProgramDone q c n b p h s).meters = s.meters ∧
    (heldProgramDone q c n b p h s).tariff = s.tariff ∧
    (heldProgramDone q c n b p h s).charges = s.charges := by
  unfold heldProgramDone
  try dsimp only
  repeat' split
  all_goals simp

@[simp] theorem promptCut_frame (i : Option PlayItem) (k : Nat) (s : State) :
    (promptCut i k s).pending = s.pending ∧
    (promptCut i k s).resetLow = s.resetLow ∧
    (promptCut i k s).highway = s.highway ∧
    (promptCut i k s).clock = s.clock ∧
    (promptCut i k s).link = s.link ∧
    (promptCut i k s).service = s.service ∧
    (promptCut i k s).attention = s.attention ∧
    (promptCut i k s).rooms = s.rooms ∧
    (promptCut i k s).checkouts = s.checkouts ∧
    (promptCut i k s).directory = s.directory ∧
    (promptCut i k s).classes = s.classes ∧
    (promptCut i k s).channels = s.channels ∧
    (promptCut i k s).coder = s.coder ∧
    (promptCut i k s).rings = s.rings ∧
    (promptCut i k s).port = s.port ∧
    (promptCut i k s).lamps = s.lamps ∧
    (promptCut i k s).trunks = s.trunks ∧
    (promptCut i k s).meters = s.meters ∧
    (promptCut i k s).tariff = s.tariff ∧
    (promptCut i k s).charges = s.charges ∧
    (promptCut i k s).store.messages = s.store.messages ∧
    (promptCut i k s).store.marks = s.store.marks ∧
    (promptCut i k s).store.marking = s.store.marking ∧
    (promptCut i k s).store.free = s.store.free ∧
    (promptCut i k s).store.dirty = s.store.dirty ∧
    (promptCut i k s).store.bad = s.store.bad ∧
    (promptCut i k s).store.job = s.store.job := by
  unfold promptCut
  split <;> simp [State.setPrompt]

@[simp] theorem readDone_frame (d : Option (List Octet)) (c : ChannelIx) (k : Nat) (s : State) :
    (readDone d c k s).pending = s.pending ∧
    (readDone d c k s).resetLow = s.resetLow ∧
    (readDone d c k s).highway = s.highway ∧
    (readDone d c k s).clock = s.clock ∧
    (readDone d c k s).service = s.service ∧
    (readDone d c k s).rooms = s.rooms ∧
    (readDone d c k s).checkouts = s.checkouts ∧
    (readDone d c k s).directory = s.directory ∧
    (readDone d c k s).classes = s.classes ∧
    (readDone d c k s).channels = s.channels ∧
    (readDone d c k s).port = s.port ∧
    (readDone d c k s).store.messages = s.store.messages ∧
    (readDone d c k s).store.marks = s.store.marks ∧
    (readDone d c k s).store.marking = s.store.marking ∧
    (readDone d c k s).store.free = s.store.free ∧
    (readDone d c k s).store.dirty = s.store.dirty ∧
    (readDone d c k s).store.bad = s.store.bad ∧
    (readDone d c k s).store.job = s.store.job ∧
    (readDone d c k s).lamps = s.lamps ∧
    (readDone d c k s).trunks = s.trunks ∧
    (readDone d c k s).meters = s.meters ∧
    (readDone d c k s).tariff = s.tariff ∧
    (readDone d c k s).charges = s.charges := by
  unfold readDone
  try dsimp only
  repeat' split
  all_goals simp

@[simp] theorem heldReadDone_frame (c : ChannelIx) (s : State) :
    (heldReadDone c s).pending = s.pending ∧
    (heldReadDone c s).resetLow = s.resetLow ∧
    (heldReadDone c s).highway = s.highway ∧
    (heldReadDone c s).clock = s.clock ∧
    (heldReadDone c s).link = s.link ∧
    (heldReadDone c s).service = s.service ∧
    (heldReadDone c s).attention = s.attention ∧
    (heldReadDone c s).rooms = s.rooms ∧
    (heldReadDone c s).checkouts = s.checkouts ∧
    (heldReadDone c s).directory = s.directory ∧
    (heldReadDone c s).classes = s.classes ∧
    (heldReadDone c s).channels = s.channels ∧
    (heldReadDone c s).coder = s.coder ∧
    (heldReadDone c s).port = s.port ∧
    (heldReadDone c s).store = s.store ∧
    (heldReadDone c s).lamps = s.lamps ∧
    (heldReadDone c s).trunks = s.trunks ∧
    (heldReadDone c s).meters = s.meters ∧
    (heldReadDone c s).tariff = s.tariff ∧
    (heldReadDone c s).charges = s.charges := by
  unfold heldReadDone
  try dsimp only
  repeat' split
  all_goals simp

@[simp] theorem eraseDone_frame (q : Bool) (b : Nat) (s : State) :
    (eraseDone q b s).pending = s.pending ∧
    (eraseDone q b s).resetLow = s.resetLow ∧
    (eraseDone q b s).highway = s.highway ∧
    (eraseDone q b s).clock = s.clock ∧
    (eraseDone q b s).service = s.service ∧
    (eraseDone q b s).rooms = s.rooms ∧
    (eraseDone q b s).checkouts = s.checkouts ∧
    (eraseDone q b s).directory = s.directory ∧
    (eraseDone q b s).classes = s.classes ∧
    (eraseDone q b s).channels = s.channels ∧
    (eraseDone q b s).coder = s.coder ∧
    (eraseDone q b s).rings = s.rings ∧
    (eraseDone q b s).port = s.port ∧
    (eraseDone q b s).lamps = s.lamps ∧
    (eraseDone q b s).trunks = s.trunks ∧
    (eraseDone q b s).meters = s.meters ∧
    (eraseDone q b s).tariff = s.tariff ∧
    (eraseDone q b s).charges = s.charges := by
  unfold eraseDone
  try dsimp only
  repeat' split
  all_goals simp

@[simp] theorem markDone_frame (q : Bool) (s : State) :
    (markDone q s).pending = s.pending ∧
    (markDone q s).resetLow = s.resetLow ∧
    (markDone q s).highway = s.highway ∧
    (markDone q s).clock = s.clock ∧
    (markDone q s).service = s.service ∧
    (markDone q s).rooms = s.rooms ∧
    (markDone q s).checkouts = s.checkouts ∧
    (markDone q s).directory = s.directory ∧
    (markDone q s).classes = s.classes ∧
    (markDone q s).channels = s.channels ∧
    (markDone q s).coder = s.coder ∧
    (markDone q s).rings = s.rings ∧
    (markDone q s).port = s.port ∧
    (markDone q s).lamps = s.lamps ∧
    (markDone q s).trunks = s.trunks ∧
    (markDone q s).meters = s.meters ∧
    (markDone q s).tariff = s.tariff ∧
    (markDone q s).charges = s.charges := by
  unfold markDone
  try dsimp only
  repeat' split
  all_goals simp

@[simp] theorem opFailed_frame (op : FlashOp) (s : State) :
    (opFailed op s).pending = s.pending ∧
    (opFailed op s).resetLow = s.resetLow ∧
    (opFailed op s).clock = s.clock ∧
    (opFailed op s).checkouts = s.checkouts ∧
    (opFailed op s).directory = s.directory ∧
    (opFailed op s).classes = s.classes ∧
    (opFailed op s).trunks = s.trunks ∧
    (opFailed op s).meters = s.meters ∧
    (opFailed op s).tariff = s.tariff ∧
    (opFailed op s).charges = s.charges := by
  cases op <;> simp only [opFailed] <;> (repeat' split) <;> simp

@[simp] theorem takeTimeout_frame (s : State) :
    (takeTimeout s).pending = s.pending ∧
    (takeTimeout s).resetLow = s.resetLow ∧
    (takeTimeout s).clock = s.clock ∧
    (takeTimeout s).checkouts = s.checkouts ∧
    (takeTimeout s).directory = s.directory ∧
    (takeTimeout s).classes = s.classes ∧
    (takeTimeout s).trunks = s.trunks ∧
    (takeTimeout s).meters = s.meters ∧
    (takeTimeout s).tariff = s.tariff ∧
    (takeTimeout s).charges = s.charges := by
  unfold takeTimeout
  try dsimp only
  repeat' split
  all_goals simp

@[simp] theorem takeProgram_frame (b : Bool) (s : State) :
    (takeProgram b s).pending = s.pending ∧
    (takeProgram b s).resetLow = s.resetLow ∧
    (takeProgram b s).clock = s.clock ∧
    (takeProgram b s).checkouts = s.checkouts ∧
    (takeProgram b s).directory = s.directory ∧
    (takeProgram b s).classes = s.classes ∧
    (takeProgram b s).trunks = s.trunks ∧
    (takeProgram b s).meters = s.meters ∧
    (takeProgram b s).tariff = s.tariff ∧
    (takeProgram b s).charges = s.charges := by
  unfold takeProgram
  try dsimp only
  repeat' split
  all_goals simp

@[simp] theorem takeHeldProgram_frame (b : Bool) (s : State) :
    (takeHeldProgram b s).pending = s.pending ∧
    (takeHeldProgram b s).resetLow = s.resetLow ∧
    (takeHeldProgram b s).clock = s.clock ∧
    (takeHeldProgram b s).checkouts = s.checkouts ∧
    (takeHeldProgram b s).directory = s.directory ∧
    (takeHeldProgram b s).classes = s.classes ∧
    (takeHeldProgram b s).trunks = s.trunks ∧
    (takeHeldProgram b s).meters = s.meters ∧
    (takeHeldProgram b s).tariff = s.tariff ∧
    (takeHeldProgram b s).charges = s.charges := by
  unfold takeHeldProgram
  try dsimp only
  repeat' split
  all_goals simp

@[simp] theorem takeRead_frame (q : FlashRead) (s : State) :
    (takeRead q s).pending = s.pending ∧
    (takeRead q s).resetLow = s.resetLow ∧
    (takeRead q s).highway = s.highway ∧
    (takeRead q s).clock = s.clock ∧
    (takeRead q s).service = s.service ∧
    (takeRead q s).rooms = s.rooms ∧
    (takeRead q s).checkouts = s.checkouts ∧
    (takeRead q s).directory = s.directory ∧
    (takeRead q s).classes = s.classes ∧
    (takeRead q s).channels = s.channels ∧
    (takeRead q s).store.messages = s.store.messages ∧
    (takeRead q s).store.marks = s.store.marks ∧
    (takeRead q s).store.marking = s.store.marking ∧
    (takeRead q s).store.free = s.store.free ∧
    (takeRead q s).store.dirty = s.store.dirty ∧
    (takeRead q s).store.bad = s.store.bad ∧
    (takeRead q s).store.job = s.store.job ∧
    (takeRead q s).lamps = s.lamps ∧
    (takeRead q s).trunks = s.trunks ∧
    (takeRead q s).meters = s.meters ∧
    (takeRead q s).tariff = s.tariff ∧
    (takeRead q s).charges = s.charges := by
  unfold takeRead
  try dsimp only
  repeat' split
  all_goals simp

@[simp] theorem takeHeldRead_frame (q : FlashRead) (s : State) :
    (takeHeldRead q s).pending = s.pending ∧
    (takeHeldRead q s).resetLow = s.resetLow ∧
    (takeHeldRead q s).highway = s.highway ∧
    (takeHeldRead q s).clock = s.clock ∧
    (takeHeldRead q s).link = s.link ∧
    (takeHeldRead q s).service = s.service ∧
    (takeHeldRead q s).attention = s.attention ∧
    (takeHeldRead q s).rooms = s.rooms ∧
    (takeHeldRead q s).checkouts = s.checkouts ∧
    (takeHeldRead q s).directory = s.directory ∧
    (takeHeldRead q s).classes = s.classes ∧
    (takeHeldRead q s).channels = s.channels ∧
    (takeHeldRead q s).coder = s.coder ∧
    (takeHeldRead q s).store = s.store ∧
    (takeHeldRead q s).lamps = s.lamps ∧
    (takeHeldRead q s).trunks = s.trunks ∧
    (takeHeldRead q s).meters = s.meters ∧
    (takeHeldRead q s).tariff = s.tariff ∧
    (takeHeldRead q s).charges = s.charges := by
  unfold takeHeldRead
  try dsimp only
  repeat' split
  all_goals simp

@[simp] theorem takeErase_frame (b : Bool) (s : State) :
    (takeErase b s).pending = s.pending ∧
    (takeErase b s).resetLow = s.resetLow ∧
    (takeErase b s).highway = s.highway ∧
    (takeErase b s).clock = s.clock ∧
    (takeErase b s).service = s.service ∧
    (takeErase b s).rooms = s.rooms ∧
    (takeErase b s).checkouts = s.checkouts ∧
    (takeErase b s).directory = s.directory ∧
    (takeErase b s).classes = s.classes ∧
    (takeErase b s).channels = s.channels ∧
    (takeErase b s).coder = s.coder ∧
    (takeErase b s).rings = s.rings ∧
    (takeErase b s).lamps = s.lamps ∧
    (takeErase b s).trunks = s.trunks ∧
    (takeErase b s).meters = s.meters ∧
    (takeErase b s).tariff = s.tariff ∧
    (takeErase b s).charges = s.charges := by
  unfold takeErase
  try dsimp only
  repeat' split
  all_goals simp

@[simp] theorem takeMark_frame (b : Bool) (s : State) :
    (takeMark b s).pending = s.pending ∧
    (takeMark b s).resetLow = s.resetLow ∧
    (takeMark b s).highway = s.highway ∧
    (takeMark b s).clock = s.clock ∧
    (takeMark b s).rooms = s.rooms ∧
    (takeMark b s).checkouts = s.checkouts ∧
    (takeMark b s).directory = s.directory ∧
    (takeMark b s).classes = s.classes ∧
    (takeMark b s).channels = s.channels ∧
    (takeMark b s).coder = s.coder ∧
    (takeMark b s).rings = s.rings ∧
    (takeMark b s).lamps = s.lamps ∧
    (takeMark b s).trunks = s.trunks ∧
    (takeMark b s).meters = s.meters ∧
    (takeMark b s).tariff = s.tariff ∧
    (takeMark b s).charges = s.charges := by
  unfold takeMark
  try dsimp only
  repeat' split
  all_goals simp

@[simp] theorem takeMountRead_frame (q : FlashRead) (s : State) :
    (takeMountRead q s).pending = s.pending ∧
    (takeMountRead q s).resetLow = s.resetLow ∧
    (takeMountRead q s).highway = s.highway ∧
    (takeMountRead q s).clock = s.clock ∧
    (takeMountRead q s).checkouts = s.checkouts ∧
    (takeMountRead q s).directory = s.directory ∧
    (takeMountRead q s).classes = s.classes ∧
    (takeMountRead q s).channels = s.channels ∧
    (takeMountRead q s).coder = s.coder ∧
    (takeMountRead q s).rings = s.rings ∧
    (takeMountRead q s).trunks = s.trunks ∧
    (takeMountRead q s).meters = s.meters ∧
    (takeMountRead q s).tariff = s.tariff ∧
    (takeMountRead q s).charges = s.charges := by
  unfold takeMountRead
  try dsimp only
  repeat' split
  all_goals simp

@[simp] theorem takePromptErase_frame (b : Bool) (s : State) :
    (takePromptErase b s).pending = s.pending ∧
    (takePromptErase b s).resetLow = s.resetLow ∧
    (takePromptErase b s).highway = s.highway ∧
    (takePromptErase b s).clock = s.clock ∧
    (takePromptErase b s).service = s.service ∧
    (takePromptErase b s).rooms = s.rooms ∧
    (takePromptErase b s).checkouts = s.checkouts ∧
    (takePromptErase b s).directory = s.directory ∧
    (takePromptErase b s).classes = s.classes ∧
    (takePromptErase b s).channels = s.channels ∧
    (takePromptErase b s).coder = s.coder ∧
    (takePromptErase b s).rings = s.rings ∧
    (takePromptErase b s).lamps = s.lamps ∧
    (takePromptErase b s).trunks = s.trunks ∧
    (takePromptErase b s).meters = s.meters ∧
    (takePromptErase b s).tariff = s.tariff ∧
    (takePromptErase b s).charges = s.charges := by
  unfold takePromptErase
  try dsimp only
  repeat' split
  all_goals simp

@[simp] theorem takePromptProgram_frame (b : Bool) (s : State) :
    (takePromptProgram b s).pending = s.pending ∧
    (takePromptProgram b s).resetLow = s.resetLow ∧
    (takePromptProgram b s).highway = s.highway ∧
    (takePromptProgram b s).clock = s.clock ∧
    (takePromptProgram b s).service = s.service ∧
    (takePromptProgram b s).rooms = s.rooms ∧
    (takePromptProgram b s).checkouts = s.checkouts ∧
    (takePromptProgram b s).directory = s.directory ∧
    (takePromptProgram b s).classes = s.classes ∧
    (takePromptProgram b s).channels = s.channels ∧
    (takePromptProgram b s).coder = s.coder ∧
    (takePromptProgram b s).rings = s.rings ∧
    (takePromptProgram b s).lamps = s.lamps ∧
    (takePromptProgram b s).trunks = s.trunks ∧
    (takePromptProgram b s).meters = s.meters ∧
    (takePromptProgram b s).tariff = s.tariff ∧
    (takePromptProgram b s).charges = s.charges := by
  unfold takePromptProgram
  try dsimp only
  repeat' split
  all_goals simp

@[simp] theorem takePromptRead_frame (q : FlashRead) (s : State) :
    (takePromptRead q s).pending = s.pending ∧
    (takePromptRead q s).resetLow = s.resetLow ∧
    (takePromptRead q s).highway = s.highway ∧
    (takePromptRead q s).clock = s.clock ∧
    (takePromptRead q s).service = s.service ∧
    (takePromptRead q s).rooms = s.rooms ∧
    (takePromptRead q s).checkouts = s.checkouts ∧
    (takePromptRead q s).directory = s.directory ∧
    (takePromptRead q s).classes = s.classes ∧
    (takePromptRead q s).channels = s.channels ∧
    (takePromptRead q s).coder = s.coder ∧
    (takePromptRead q s).rings = s.rings ∧
    (takePromptRead q s).lamps = s.lamps ∧
    (takePromptRead q s).trunks = s.trunks ∧
    (takePromptRead q s).meters = s.meters ∧
    (takePromptRead q s).tariff = s.tariff ∧
    (takePromptRead q s).charges = s.charges := by
  unfold takePromptRead
  try dsimp only
  repeat' split
  all_goals simp

@[simp] theorem takeRecoveryEnd_frame (s : State) :
    (takeRecoveryEnd s).pending = s.pending ∧
    (takeRecoveryEnd s).resetLow = s.resetLow ∧
    (takeRecoveryEnd s).highway = s.highway ∧
    (takeRecoveryEnd s).clock = s.clock ∧
    (takeRecoveryEnd s).link = s.link ∧
    (takeRecoveryEnd s).service = s.service ∧
    (takeRecoveryEnd s).attention = s.attention ∧
    (takeRecoveryEnd s).rooms = s.rooms ∧
    (takeRecoveryEnd s).checkouts = s.checkouts ∧
    (takeRecoveryEnd s).directory = s.directory ∧
    (takeRecoveryEnd s).classes = s.classes ∧
    (takeRecoveryEnd s).channels = s.channels ∧
    (takeRecoveryEnd s).coder = s.coder ∧
    (takeRecoveryEnd s).rings = s.rings ∧
    (takeRecoveryEnd s).store = s.store ∧
    (takeRecoveryEnd s).lamps = s.lamps ∧
    (takeRecoveryEnd s).trunks = s.trunks ∧
    (takeRecoveryEnd s).meters = s.meters ∧
    (takeRecoveryEnd s).tariff = s.tariff ∧
    (takeRecoveryEnd s).charges = s.charges := by
  unfold takeRecoveryEnd
  try dsimp only
  repeat' split
  all_goals simp

@[simp] theorem takeStartEnd_frame (s : State) :
    (takeStartEnd s).pending = s.pending ∧
    (takeStartEnd s).resetLow = s.resetLow ∧
    (takeStartEnd s).highway = s.highway ∧
    (takeStartEnd s).clock = s.clock ∧
    (takeStartEnd s).link = s.link ∧
    (takeStartEnd s).service = s.service ∧
    (takeStartEnd s).attention = s.attention ∧
    (takeStartEnd s).rooms = s.rooms ∧
    (takeStartEnd s).checkouts = s.checkouts ∧
    (takeStartEnd s).directory = s.directory ∧
    (takeStartEnd s).classes = s.classes ∧
    (takeStartEnd s).channels = s.channels ∧
    (takeStartEnd s).coder = s.coder ∧
    (takeStartEnd s).rings = s.rings ∧
    (takeStartEnd s).store = s.store ∧
    (takeStartEnd s).lamps = s.lamps ∧
    (takeStartEnd s).trunks = s.trunks ∧
    (takeStartEnd s).meters = s.meters ∧
    (takeStartEnd s).tariff = s.tariff ∧
    (takeStartEnd s).charges = s.charges := by
  unfold takeStartEnd
  try dsimp only
  repeat' split
  all_goals simp

end Sys2Proof.Machine
end

