-- ==== Sys2Proof/Laws/Desk.lean ====
section
/-! SUPPORT. What the operations of Machine/Desk.lean leave as it was. Each lemma is a conjunction of equations that `simp`
reads one by one; the fields it does not name are those the operation may write. -/

namespace Sys2Proof.Machine

@[simp] theorem classChanged_frame (o n : ClassRecord) (r : RoomIx) (s : State) :
    (classChanged o n r s).pending = s.pending ∧
    (classChanged o n r s).resetLow = s.resetLow ∧
    (classChanged o n r s).highway = s.highway ∧
    (classChanged o n r s).clock = s.clock ∧
    (classChanged o n r s).link = s.link ∧
    (classChanged o n r s).service = s.service ∧
    (classChanged o n r s).attention = s.attention ∧
    (classChanged o n r s).checkouts = s.checkouts ∧
    (classChanged o n r s).directory = s.directory ∧
    (classChanged o n r s).classes = s.classes ∧
    (classChanged o n r s).channels = s.channels ∧
    (classChanged o n r s).coder = s.coder ∧
    (classChanged o n r s).rings = s.rings ∧
    (classChanged o n r s).port = s.port ∧
    (classChanged o n r s).store = s.store ∧
    (classChanged o n r s).trunks = s.trunks ∧
    (classChanged o n r s).meters = s.meters ∧
    (classChanged o n r s).tariff = s.tariff ∧
    (classChanged o n r s).charges = s.charges := by
  unfold classChanged
  try dsimp only
  repeat' split
  all_goals simp

@[simp] theorem loadRoom_frame (r : RoomIx) (x : Nat) (k : ClassIx) (s : State) :
    (loadRoom r x k s).pending = s.pending ∧
    (loadRoom r x k s).resetLow = s.resetLow ∧
    (loadRoom r x k s).highway = s.highway ∧
    (loadRoom r x k s).clock = s.clock ∧
    (loadRoom r x k s).link = s.link ∧
    (loadRoom r x k s).service = s.service ∧
    (loadRoom r x k s).attention = s.attention ∧
    (loadRoom r x k s).checkouts = s.checkouts ∧
    (loadRoom r x k s).classes = s.classes ∧
    (loadRoom r x k s).channels = s.channels ∧
    (loadRoom r x k s).coder = s.coder ∧
    (loadRoom r x k s).rings = s.rings ∧
    (loadRoom r x k s).port = s.port ∧
    (loadRoom r x k s).store = s.store ∧
    (loadRoom r x k s).trunks = s.trunks ∧
    (loadRoom r x k s).meters = s.meters ∧
    (loadRoom r x k s).tariff = s.tariff ∧
    (loadRoom r x k s).charges = s.charges := by
  unfold loadRoom
  try dsimp only
  repeat' split
  all_goals simp

@[simp] theorem deletePaths_frame (l : List Nat) (s : State) :
    (l.foldl (fun s n => deletePath n s) s).pending = s.pending ∧
    (l.foldl (fun s n => deletePath n s) s).resetLow = s.resetLow ∧
    (l.foldl (fun s n => deletePath n s) s).highway = s.highway ∧
    (l.foldl (fun s n => deletePath n s) s).clock = s.clock ∧
    (l.foldl (fun s n => deletePath n s) s).service = s.service ∧
    (l.foldl (fun s n => deletePath n s) s).checkouts = s.checkouts ∧
    (l.foldl (fun s n => deletePath n s) s).directory = s.directory ∧
    (l.foldl (fun s n => deletePath n s) s).classes = s.classes ∧
    (l.foldl (fun s n => deletePath n s) s).channels = s.channels ∧
    (l.foldl (fun s n => deletePath n s) s).coder = s.coder ∧
    (l.foldl (fun s n => deletePath n s) s).rings = s.rings ∧
    (l.foldl (fun s n => deletePath n s) s).port = s.port ∧
    (l.foldl (fun s n => deletePath n s) s).lamps = s.lamps ∧
    (l.foldl (fun s n => deletePath n s) s).trunks = s.trunks ∧
    (l.foldl (fun s n => deletePath n s) s).meters = s.meters ∧
    (l.foldl (fun s n => deletePath n s) s).tariff = s.tariff ∧
    (l.foldl (fun s n => deletePath n s) s).charges = s.charges := by
  induction l generalizing s with
  | nil => simp
  | cons a l ih => simp [ih]

@[simp] theorem deleteMailbox_frame (r : RoomIx) (s : State) :
    (deleteMailbox r s).pending = s.pending ∧
    (deleteMailbox r s).resetLow = s.resetLow ∧
    (deleteMailbox r s).highway = s.highway ∧
    (deleteMailbox r s).clock = s.clock ∧
    (deleteMailbox r s).service = s.service ∧
    (deleteMailbox r s).checkouts = s.checkouts ∧
    (deleteMailbox r s).directory = s.directory ∧
    (deleteMailbox r s).classes = s.classes ∧
    (deleteMailbox r s).channels = s.channels ∧
    (deleteMailbox r s).coder = s.coder ∧
    (deleteMailbox r s).rings = s.rings ∧
    (deleteMailbox r s).port = s.port ∧
    (deleteMailbox r s).lamps = s.lamps ∧
    (deleteMailbox r s).trunks = s.trunks ∧
    (deleteMailbox r s).meters = s.meters ∧
    (deleteMailbox r s).tariff = s.tariff ∧
    (deleteMailbox r s).charges = s.charges := by
  unfold deleteMailbox
  try dsimp only
  repeat' split
  all_goals simp

@[simp] theorem closeRequests_frame (l : List ChannelIx) (s : State) :
    (l.foldl (fun s c => closeRequest c s) s).pending = s.pending ∧
    (l.foldl (fun s c => closeRequest c s) s).resetLow = s.resetLow ∧
    (l.foldl (fun s c => closeRequest c s) s).clock = s.clock ∧
    (l.foldl (fun s c => closeRequest c s) s).service = s.service ∧
    (l.foldl (fun s c => closeRequest c s) s).checkouts = s.checkouts ∧
    (l.foldl (fun s c => closeRequest c s) s).directory = s.directory ∧
    (l.foldl (fun s c => closeRequest c s) s).classes = s.classes ∧
    (l.foldl (fun s c => closeRequest c s) s).trunks = s.trunks ∧
    (l.foldl (fun s c => closeRequest c s) s).meters = s.meters ∧
    (l.foldl (fun s c => closeRequest c s) s).tariff = s.tariff ∧
    (l.foldl (fun s c => closeRequest c s) s).charges = s.charges := by
  induction l generalizing s with
  | nil => simp
  | cons a l ih => simp [ih]

@[simp] theorem closeChannels_frame (p : Channel → Bool) (s : State) :
    (closeChannels p s).pending = s.pending ∧
    (closeChannels p s).resetLow = s.resetLow ∧
    (closeChannels p s).clock = s.clock ∧
    (closeChannels p s).service = s.service ∧
    (closeChannels p s).checkouts = s.checkouts ∧
    (closeChannels p s).directory = s.directory ∧
    (closeChannels p s).classes = s.classes ∧
    (closeChannels p s).trunks = s.trunks ∧
    (closeChannels p s).meters = s.meters ∧
    (closeChannels p s).tariff = s.tariff ∧
    (closeChannels p s).charges = s.charges := by
  unfold closeChannels
  try dsimp only
  repeat' split
  all_goals simp

@[simp] theorem beginCheckout_frame (r : RoomIx) (s : State) :
    (beginCheckout r s).pending = s.pending ∧
    (beginCheckout r s).resetLow = s.resetLow ∧
    (beginCheckout r s).highway = s.highway ∧
    (beginCheckout r s).clock = s.clock ∧
    (beginCheckout r s).link = s.link ∧
    (beginCheckout r s).service = s.service ∧
    (beginCheckout r s).attention = s.attention ∧
    (beginCheckout r s).directory = s.directory ∧
    (beginCheckout r s).classes = s.classes ∧
    (beginCheckout r s).channels = s.channels ∧
    (beginCheckout r s).coder = s.coder ∧
    (beginCheckout r s).rings = s.rings ∧
    (beginCheckout r s).port = s.port ∧
    (beginCheckout r s).store = s.store ∧
    (beginCheckout r s).lamps = s.lamps ∧
    (beginCheckout r s).trunks = s.trunks ∧
    (beginCheckout r s).meters = s.meters ∧
    (beginCheckout r s).tariff = s.tariff ∧
    (beginCheckout r s).charges = s.charges := by
  unfold beginCheckout
  try dsimp only
  repeat' split
  all_goals simp

@[simp] theorem checkOut_frame (r : RoomIx) (s : State) :
    (checkOut r s).pending = s.pending ∧
    (checkOut r s).resetLow = s.resetLow ∧
    (checkOut r s).clock = s.clock ∧
    (checkOut r s).directory = s.directory ∧
    (checkOut r s).classes = s.classes ∧
    (checkOut r s).trunks = s.trunks ∧
    (checkOut r s).meters = s.meters ∧
    (checkOut r s).tariff = s.tariff := by
  unfold checkOut
  try dsimp only
  repeat' split
  all_goals simp

@[simp] theorem classChanges_frame (o n : ClassRecord) (l : List RoomIx) (s : State) :
    (l.foldl (fun s r => classChanged o n r s) s).pending = s.pending ∧
    (l.foldl (fun s r => classChanged o n r s) s).resetLow = s.resetLow ∧
    (l.foldl (fun s r => classChanged o n r s) s).highway = s.highway ∧
    (l.foldl (fun s r => classChanged o n r s) s).clock = s.clock ∧
    (l.foldl (fun s r => classChanged o n r s) s).link = s.link ∧
    (l.foldl (fun s r => classChanged o n r s) s).service = s.service ∧
    (l.foldl (fun s r => classChanged o n r s) s).attention = s.attention ∧
    (l.foldl (fun s r => classChanged o n r s) s).checkouts = s.checkouts ∧
    (l.foldl (fun s r => classChanged o n r s) s).directory = s.directory ∧
    (l.foldl (fun s r => classChanged o n r s) s).classes = s.classes ∧
    (l.foldl (fun s r => classChanged o n r s) s).channels = s.channels ∧
    (l.foldl (fun s r => classChanged o n r s) s).coder = s.coder ∧
    (l.foldl (fun s r => classChanged o n r s) s).rings = s.rings ∧
    (l.foldl (fun s r => classChanged o n r s) s).port = s.port ∧
    (l.foldl (fun s r => classChanged o n r s) s).store = s.store ∧
    (l.foldl (fun s r => classChanged o n r s) s).trunks = s.trunks ∧
    (l.foldl (fun s r => classChanged o n r s) s).meters = s.meters ∧
    (l.foldl (fun s r => classChanged o n r s) s).tariff = s.tariff ∧
    (l.foldl (fun s r => classChanged o n r s) s).charges = s.charges := by
  induction l generalizing s with
  | nil => simp
  | cons a l ih => simp [ih]

end Sys2Proof.Machine
end

