-- ==== Sys2Proof/Laws/Tables.lean ====
section
/-! SUPPORT. What the operations of Machine/Tables.lean and Machine/Charges.lean leave as it was. Each lemma is a conjunction of equations that `simp`
reads one by one; the fields it does not name are those the operation may write. -/

namespace Sys2Proof.Machine

@[simp] theorem loadClass_frame (k : ClassIx) (n : ClassRecord) (s : State) :
    (loadClass k n s).pending = s.pending ∧
    (loadClass k n s).resetLow = s.resetLow ∧
    (loadClass k n s).highway = s.highway ∧
    (loadClass k n s).clock = s.clock ∧
    (loadClass k n s).link = s.link ∧
    (loadClass k n s).service = s.service ∧
    (loadClass k n s).attention = s.attention ∧
    (loadClass k n s).checkouts = s.checkouts ∧
    (loadClass k n s).directory = s.directory ∧
    (loadClass k n s).channels = s.channels ∧
    (loadClass k n s).coder = s.coder ∧
    (loadClass k n s).rings = s.rings ∧
    (loadClass k n s).port = s.port ∧
    (loadClass k n s).store = s.store ∧
    (loadClass k n s).trunks = s.trunks ∧
    (loadClass k n s).meters = s.meters ∧
    (loadClass k n s).tariff = s.tariff ∧
    (loadClass k n s).charges = s.charges := by
  unfold loadClass
  try dsimp only
  repeat' split
  all_goals simp

@[simp] theorem setClock_frame (a b c : Nat) (s : State) :
    (setClock a b c s).pending = s.pending ∧
    (setClock a b c s).resetLow = s.resetLow ∧
    (setClock a b c s).highway = s.highway ∧
    (setClock a b c s).link = s.link ∧
    (setClock a b c s).service = s.service ∧
    (setClock a b c s).rooms = s.rooms ∧
    (setClock a b c s).checkouts = s.checkouts ∧
    (setClock a b c s).directory = s.directory ∧
    (setClock a b c s).classes = s.classes ∧
    (setClock a b c s).channels = s.channels ∧
    (setClock a b c s).coder = s.coder ∧
    (setClock a b c s).rings = s.rings ∧
    (setClock a b c s).port = s.port ∧
    (setClock a b c s).store = s.store ∧
    (setClock a b c s).lamps = s.lamps ∧
    (setClock a b c s).trunks = s.trunks ∧
    (setClock a b c s).meters = s.meters ∧
    (setClock a b c s).tariff = s.tariff ∧
    (setClock a b c s).charges = s.charges := by
  unfold setClock
  try dsimp only
  repeat' split
  all_goals simp

@[simp] theorem enterService_frame (s : State) :
    (enterService s).pending = s.pending ∧
    (enterService s).resetLow = s.resetLow ∧
    (enterService s).highway = s.highway ∧
    (enterService s).clock = s.clock ∧
    (enterService s).link = s.link ∧
    (enterService s).attention = s.attention ∧
    (enterService s).rooms = s.rooms ∧
    (enterService s).checkouts = s.checkouts ∧
    (enterService s).directory = s.directory ∧
    (enterService s).classes = s.classes ∧
    (enterService s).channels = s.channels ∧
    (enterService s).rings = s.rings ∧
    (enterService s).port = s.port ∧
    (enterService s).store = s.store ∧
    (enterService s).lamps = s.lamps ∧
    (enterService s).trunks = s.trunks ∧
    (enterService s).meters = s.meters ∧
    (enterService s).tariff = s.tariff ∧
    (enterService s).charges = s.charges := by
  unfold enterService
  try dsimp only
  repeat' split
  all_goals simp

@[simp] theorem suspend_frame (s : State) :
    (suspend s).pending = s.pending ∧
    (suspend s).resetLow = s.resetLow ∧
    (suspend s).clock = s.clock ∧
    (suspend s).checkouts = s.checkouts ∧
    (suspend s).directory = s.directory ∧
    (suspend s).classes = s.classes ∧
    (suspend s).trunks = s.trunks ∧
    (suspend s).meters = s.meters ∧
    (suspend s).tariff = s.tariff ∧
    (suspend s).charges = s.charges := by
  unfold suspend
  try dsimp only
  repeat' split
  all_goals simp

@[simp] theorem clearAttention_frame (m : BitVec 16) (s : State) :
    (clearAttention m s).pending = s.pending ∧
    (clearAttention m s).resetLow = s.resetLow ∧
    (clearAttention m s).highway = s.highway ∧
    (clearAttention m s).clock = s.clock ∧
    (clearAttention m s).service = s.service ∧
    (clearAttention m s).rooms = s.rooms ∧
    (clearAttention m s).checkouts = s.checkouts ∧
    (clearAttention m s).directory = s.directory ∧
    (clearAttention m s).classes = s.classes ∧
    (clearAttention m s).channels = s.channels ∧
    (clearAttention m s).coder = s.coder ∧
    (clearAttention m s).rings = s.rings ∧
    (clearAttention m s).port = s.port ∧
    (clearAttention m s).store = s.store ∧
    (clearAttention m s).lamps = s.lamps ∧
    (clearAttention m s).trunks = s.trunks ∧
    (clearAttention m s).meters = s.meters ∧
    (clearAttention m s).tariff = s.tariff ∧
    (clearAttention m s).charges = s.charges := by
  unfold clearAttention
  try dsimp only
  repeat' split
  all_goals simp

@[simp] theorem replyEntry_frame (s : State) :
    (replyEntry s).pending = s.pending ∧
    (replyEntry s).resetLow = s.resetLow ∧
    (replyEntry s).highway = s.highway ∧
    (replyEntry s).clock = s.clock ∧
    (replyEntry s).service = s.service ∧
    (replyEntry s).attention = s.attention ∧
    (replyEntry s).rooms = s.rooms ∧
    (replyEntry s).checkouts = s.checkouts ∧
    (replyEntry s).directory = s.directory ∧
    (replyEntry s).classes = s.classes ∧
    (replyEntry s).channels = s.channels ∧
    (replyEntry s).coder = s.coder ∧
    (replyEntry s).rings = s.rings ∧
    (replyEntry s).port = s.port ∧
    (replyEntry s).store = s.store ∧
    (replyEntry s).lamps = s.lamps ∧
    (replyEntry s).trunks = s.trunks ∧
    (replyEntry s).meters = s.meters ∧
    (replyEntry s).tariff = s.tariff ∧
    (replyEntry s).charges = s.charges := by
  unfold replyEntry
  try dsimp only
  repeat' split
  all_goals simp

@[simp] theorem offerFetch_frame (g : Octet) (n : Nat) (s : State) :
    (offerFetch g n s).pending = s.pending ∧
    (offerFetch g n s).resetLow = s.resetLow ∧
    (offerFetch g n s).highway = s.highway ∧
    (offerFetch g n s).clock = s.clock ∧
    (offerFetch g n s).service = s.service ∧
    (offerFetch g n s).attention = s.attention ∧
    (offerFetch g n s).rooms = s.rooms ∧
    (offerFetch g n s).checkouts = s.checkouts ∧
    (offerFetch g n s).directory = s.directory ∧
    (offerFetch g n s).classes = s.classes ∧
    (offerFetch g n s).channels = s.channels ∧
    (offerFetch g n s).coder = s.coder ∧
    (offerFetch g n s).rings = s.rings ∧
    (offerFetch g n s).port = s.port ∧
    (offerFetch g n s).store = s.store ∧
    (offerFetch g n s).lamps = s.lamps ∧
    (offerFetch g n s).trunks = s.trunks ∧
    (offerFetch g n s).meters = s.meters ∧
    (offerFetch g n s).tariff = s.tariff ∧
    (offerFetch g n s).charges = s.charges := by
  unfold offerFetch
  try dsimp only
  repeat' split
  all_goals simp

@[simp] theorem fetchEntry_frame (s : State) :
    (fetchEntry s).pending = s.pending ∧
    (fetchEntry s).resetLow = s.resetLow ∧
    (fetchEntry s).highway = s.highway ∧
    (fetchEntry s).clock = s.clock ∧
    (fetchEntry s).service = s.service ∧
    (fetchEntry s).attention = s.attention ∧
    (fetchEntry s).rooms = s.rooms ∧
    (fetchEntry s).checkouts = s.checkouts ∧
    (fetchEntry s).directory = s.directory ∧
    (fetchEntry s).classes = s.classes ∧
    (fetchEntry s).channels = s.channels ∧
    (fetchEntry s).coder = s.coder ∧
    (fetchEntry s).rings = s.rings ∧
    (fetchEntry s).port = s.port ∧
    (fetchEntry s).store = s.store ∧
    (fetchEntry s).lamps = s.lamps ∧
    (fetchEntry s).trunks = s.trunks ∧
    (fetchEntry s).meters = s.meters ∧
    (fetchEntry s).tariff = s.tariff ∧
    (fetchEntry s).charges = s.charges := by
  unfold fetchEntry
  try dsimp only
  repeat' split
  all_goals simp

end Sys2Proof.Machine
end

