-- ==== Sys2Proof/Laws/Highway.lean ====
section
/-! SUPPORT. What the operations of Machine/Highway.lean leave as it was. Each lemma is a conjunction of equations that `simp`
reads one by one; the fields it does not name are those the operation may write. -/

namespace Sys2Proof.Machine

@[simp] theorem transmit_frame (s : State) :
    (transmit s).2.pending = s.pending ∧
    (transmit s).2.resetLow = s.resetLow ∧
    (transmit s).2.highway = s.highway ∧
    (transmit s).2.clock = s.clock ∧
    (transmit s).2.service = s.service ∧
    (transmit s).2.attention = s.attention ∧
    (transmit s).2.rooms = s.rooms ∧
    (transmit s).2.checkouts = s.checkouts ∧
    (transmit s).2.directory = s.directory ∧
    (transmit s).2.classes = s.classes ∧
    (transmit s).2.channels = s.channels ∧
    (transmit s).2.coder = s.coder ∧
    (transmit s).2.rings = s.rings ∧
    (transmit s).2.port = s.port ∧
    (transmit s).2.store = s.store ∧
    (transmit s).2.lamps = s.lamps ∧
    (transmit s).2.trunks = s.trunks ∧
    (transmit s).2.meters = s.meters ∧
    (transmit s).2.tariff = s.tariff ∧
    (transmit s).2.charges = s.charges := by
  unfold transmit
  try dsimp only
  repeat' split
  all_goals simp

@[simp] theorem decoderMoved_frame (c : ChannelIx) (d : Decoder) (s : State) :
    (decoderMoved c d s).pending = s.pending ∧
    (decoderMoved c d s).resetLow = s.resetLow ∧
    (decoderMoved c d s).highway = s.highway ∧
    (decoderMoved c d s).clock = s.clock ∧
    (decoderMoved c d s).link = s.link ∧
    (decoderMoved c d s).service = s.service ∧
    (decoderMoved c d s).attention = s.attention ∧
    (decoderMoved c d s).rooms = s.rooms ∧
    (decoderMoved c d s).checkouts = s.checkouts ∧
    (decoderMoved c d s).directory = s.directory ∧
    (decoderMoved c d s).classes = s.classes ∧
    (decoderMoved c d s).channels = s.channels ∧
    (decoderMoved c d s).port = s.port ∧
    (decoderMoved c d s).store = s.store ∧
    (decoderMoved c d s).lamps = s.lamps ∧
    (decoderMoved c d s).trunks = s.trunks ∧
    (decoderMoved c d s).meters = s.meters ∧
    (decoderMoved c d s).tariff = s.tariff ∧
    (decoderMoved c d s).charges = s.charges := by
  unfold decoderMoved
  try dsimp only
  repeat' split
  all_goals simp

@[simp] theorem playFrame_frame (c : ChannelIx) (s : State) :
    (playFrame c s).2.pending = s.pending ∧
    (playFrame c s).2.resetLow = s.resetLow ∧
    (playFrame c s).2.clock = s.clock ∧
    (playFrame c s).2.service = s.service ∧
    (playFrame c s).2.checkouts = s.checkouts ∧
    (playFrame c s).2.directory = s.directory ∧
    (playFrame c s).2.classes = s.classes ∧
    (playFrame c s).2.port = s.port ∧
    (playFrame c s).2.trunks = s.trunks ∧
    (playFrame c s).2.meters = s.meters ∧
    (playFrame c s).2.tariff = s.tariff ∧
    (playFrame c s).2.charges = s.charges := by
  unfold playFrame
  try dsimp only
  repeat' split
  all_goals simp

@[simp] theorem boundFrame_frame (c : ChannelIx) (o : Octet) (s : State) :
    (boundFrame c o s).2.pending = s.pending ∧
    (boundFrame c o s).2.resetLow = s.resetLow ∧
    (boundFrame c o s).2.clock = s.clock ∧
    (boundFrame c o s).2.service = s.service ∧
    (boundFrame c o s).2.checkouts = s.checkouts ∧
    (boundFrame c o s).2.directory = s.directory ∧
    (boundFrame c o s).2.classes = s.classes ∧
    (boundFrame c o s).2.port = s.port ∧
    (boundFrame c o s).2.trunks = s.trunks ∧
    (boundFrame c o s).2.meters = s.meters ∧
    (boundFrame c o s).2.tariff = s.tariff ∧
    (boundFrame c o s).2.charges = s.charges := by
  unfold boundFrame
  try dsimp only
  repeat' split
  all_goals simp

@[simp] theorem speechSlots_frame (us : List SlotUse) (os : List Octet) (s : State) :
    (speechSlots us os s).2.pending = s.pending ∧
    (speechSlots us os s).2.resetLow = s.resetLow ∧
    (speechSlots us os s).2.clock = s.clock ∧
    (speechSlots us os s).2.service = s.service ∧
    (speechSlots us os s).2.checkouts = s.checkouts ∧
    (speechSlots us os s).2.directory = s.directory ∧
    (speechSlots us os s).2.classes = s.classes ∧
    (speechSlots us os s).2.port = s.port ∧
    (speechSlots us os s).2.trunks = s.trunks ∧
    (speechSlots us os s).2.meters = s.meters ∧
    (speechSlots us os s).2.tariff = s.tariff ∧
    (speechSlots us os s).2.charges = s.charges := by
  induction us generalizing os s with
  | nil => simp [speechSlots]
  | cons u us ih => cases u <;> cases os <;> simp [speechSlots, ih]

@[simp] theorem slotsCleared_frame (l : List ChannelIx) (s : State) :
    (l.foldl (fun s c => drainTest (slotCleared c s)) s).pending = s.pending ∧
    (l.foldl (fun s c => drainTest (slotCleared c s)) s).resetLow = s.resetLow ∧
    (l.foldl (fun s c => drainTest (slotCleared c s)) s).clock = s.clock ∧
    (l.foldl (fun s c => drainTest (slotCleared c s)) s).checkouts = s.checkouts ∧
    (l.foldl (fun s c => drainTest (slotCleared c s)) s).directory = s.directory ∧
    (l.foldl (fun s c => drainTest (slotCleared c s)) s).classes = s.classes ∧
    (l.foldl (fun s c => drainTest (slotCleared c s)) s).trunks = s.trunks ∧
    (l.foldl (fun s c => drainTest (slotCleared c s)) s).meters = s.meters ∧
    (l.foldl (fun s c => drainTest (slotCleared c s)) s).tariff = s.tariff ∧
    (l.foldl (fun s c => drainTest (slotCleared c s)) s).charges = s.charges := by
  induction l generalizing s with
  | nil => simp
  | cons a l ih => simp [ih]

@[simp] theorem clearBound_frame (s : State) :
    (clearBound s).pending = s.pending ∧
    (clearBound s).resetLow = s.resetLow ∧
    (clearBound s).clock = s.clock ∧
    (clearBound s).checkouts = s.checkouts ∧
    (clearBound s).directory = s.directory ∧
    (clearBound s).classes = s.classes ∧
    (clearBound s).trunks = s.trunks ∧
    (clearBound s).meters = s.meters ∧
    (clearBound s).tariff = s.tariff ∧
    (clearBound s).charges = s.charges := by
  unfold clearBound
  try dsimp only
  repeat' split
  all_goals simp

@[simp] theorem highwayReturn_frame (s : State) :
    (highwayReturn s).pending = s.pending ∧
    (highwayReturn s).resetLow = s.resetLow ∧
    (highwayReturn s).clock = s.clock ∧
    (highwayReturn s).checkouts = s.checkouts ∧
    (highwayReturn s).directory = s.directory ∧
    (highwayReturn s).classes = s.classes ∧
    (highwayReturn s).trunks = s.trunks ∧
    (highwayReturn s).meters = s.meters ∧
    (highwayReturn s).tariff = s.tariff ∧
    (highwayReturn s).charges = s.charges := by
  unfold highwayReturn
  try dsimp only
  repeat' split
  all_goals simp

@[simp] theorem pulse_frame (s : State) :
    (pulse s).pending = s.pending ∧
    (pulse s).resetLow = s.resetLow ∧
    (pulse s).clock = s.clock ∧
    (pulse s).checkouts = s.checkouts ∧
    (pulse s).directory = s.directory ∧
    (pulse s).classes = s.classes ∧
    (pulse s).trunks = s.trunks ∧
    (pulse s).meters = s.meters ∧
    (pulse s).tariff = s.tariff ∧
    (pulse s).charges = s.charges := by
  unfold pulse
  try dsimp only
  repeat' split
  all_goals simp

@[simp] theorem highwayLoss_frame (s : State) :
    (highwayLoss s).pending = s.pending ∧
    (highwayLoss s).resetLow = s.resetLow ∧
    (highwayLoss s).clock = s.clock ∧
    (highwayLoss s).service = s.service ∧
    (highwayLoss s).attention = s.attention ∧
    (highwayLoss s).rooms = s.rooms ∧
    (highwayLoss s).checkouts = s.checkouts ∧
    (highwayLoss s).directory = s.directory ∧
    (highwayLoss s).classes = s.classes ∧
    (highwayLoss s).channels = s.channels ∧
    (highwayLoss s).coder = s.coder ∧
    (highwayLoss s).rings = s.rings ∧
    (highwayLoss s).port = s.port ∧
    (highwayLoss s).store = s.store ∧
    (highwayLoss s).lamps = s.lamps ∧
    (highwayLoss s).trunks = s.trunks ∧
    (highwayLoss s).tariff = s.tariff ∧
    (highwayLoss s).charges = s.charges := by
  unfold highwayLoss
  try dsimp only
  repeat' split
  all_goals simp

@[simp] theorem takeWindowEnd_frame (s : State) :
    (takeWindowEnd s).pending = s.pending ∧
    (takeWindowEnd s).resetLow = s.resetLow ∧
    (takeWindowEnd s).clock = s.clock ∧
    (takeWindowEnd s).service = s.service ∧
    (takeWindowEnd s).attention = s.attention ∧
    (takeWindowEnd s).rooms = s.rooms ∧
    (takeWindowEnd s).checkouts = s.checkouts ∧
    (takeWindowEnd s).directory = s.directory ∧
    (takeWindowEnd s).classes = s.classes ∧
    (takeWindowEnd s).channels = s.channels ∧
    (takeWindowEnd s).coder = s.coder ∧
    (takeWindowEnd s).rings = s.rings ∧
    (takeWindowEnd s).port = s.port ∧
    (takeWindowEnd s).store = s.store ∧
    (takeWindowEnd s).lamps = s.lamps ∧
    (takeWindowEnd s).trunks = s.trunks ∧
    (takeWindowEnd s).tariff = s.tariff ∧
    (takeWindowEnd s).charges = s.charges := by
  unfold takeWindowEnd
  try dsimp only
  repeat' split
  all_goals simp

@[simp] theorem takeTick_frame (s : State) :
    (takeTick s).pending = s.pending ∧
    (takeTick s).resetLow = s.resetLow ∧
    (takeTick s).highway = s.highway ∧
    (takeTick s).link = s.link ∧
    (takeTick s).service = s.service ∧
    (takeTick s).attention = s.attention ∧
    (takeTick s).rooms = s.rooms ∧
    (takeTick s).checkouts = s.checkouts ∧
    (takeTick s).directory = s.directory ∧
    (takeTick s).classes = s.classes ∧
    (takeTick s).coder = s.coder ∧
    (takeTick s).rings = s.rings ∧
    (takeTick s).port = s.port ∧
    (takeTick s).store = s.store ∧
    (takeTick s).trunks = s.trunks ∧
    (takeTick s).tariff = s.tariff ∧
    (takeTick s).charges = s.charges := by
  unfold takeTick
  try dsimp only
  repeat' split
  all_goals simp

@[simp] theorem snoop_frame (f : Delivered) (s : State) :
    (snoop f s).pending = s.pending ∧
    (snoop f s).resetLow = s.resetLow ∧
    (snoop f s).highway = s.highway ∧
    (snoop f s).clock = s.clock ∧
    (snoop f s).service = s.service ∧
    (snoop f s).directory = s.directory ∧
    (snoop f s).classes = s.classes ∧
    (snoop f s).channels = s.channels ∧
    (snoop f s).coder = s.coder ∧
    (snoop f s).rings = s.rings ∧
    (snoop f s).port = s.port ∧
    (snoop f s).store = s.store ∧
    (snoop f s).tariff = s.tariff := by
  unfold snoop
  try dsimp only
  repeat' split
  all_goals simp

@[simp] theorem encodersSettled_fold_frame (l : List ChannelIx) (s : State) :
    (l.foldl (fun s c => drainTest (noVoice c (maxLength c (speechFrameEnd c s)))) s).pending = s.pending ∧
    (l.foldl (fun s c => drainTest (noVoice c (maxLength c (speechFrameEnd c s)))) s).resetLow = s.resetLow ∧
    (l.foldl (fun s c => drainTest (noVoice c (maxLength c (speechFrameEnd c s)))) s).clock = s.clock ∧
    (l.foldl (fun s c => drainTest (noVoice c (maxLength c (speechFrameEnd c s)))) s).checkouts = s.checkouts ∧
    (l.foldl (fun s c => drainTest (noVoice c (maxLength c (speechFrameEnd c s)))) s).directory = s.directory ∧
    (l.foldl (fun s c => drainTest (noVoice c (maxLength c (speechFrameEnd c s)))) s).classes = s.classes ∧
    (l.foldl (fun s c => drainTest (noVoice c (maxLength c (speechFrameEnd c s)))) s).trunks = s.trunks ∧
    (l.foldl (fun s c => drainTest (noVoice c (maxLength c (speechFrameEnd c s)))) s).meters = s.meters ∧
    (l.foldl (fun s c => drainTest (noVoice c (maxLength c (speechFrameEnd c s)))) s).tariff = s.tariff ∧
    (l.foldl (fun s c => drainTest (noVoice c (maxLength c (speechFrameEnd c s)))) s).charges = s.charges := by
  induction l generalizing s with
  | nil => simp
  | cons a l ih => simp [ih]

@[simp] theorem encodersSettled_frame (s : State) :
    (encodersSettled s).pending = s.pending ∧
    (encodersSettled s).resetLow = s.resetLow ∧
    (encodersSettled s).clock = s.clock ∧
    (encodersSettled s).checkouts = s.checkouts ∧
    (encodersSettled s).directory = s.directory ∧
    (encodersSettled s).classes = s.classes ∧
    (encodersSettled s).trunks = s.trunks ∧
    (encodersSettled s).meters = s.meters ∧
    (encodersSettled s).tariff = s.tariff ∧
    (encodersSettled s).charges = s.charges := by
  unfold encodersSettled
  simp

/-- With no slot bound no encoder step is due. -/
theorem encodersSettled_unbound {s : State} (h : ∀ k : Fin 126, s.highway.bindings[k] = none) :
    encodersSettled s = s := by
  have : s.highway.bindings.toList.filterMap id = [] := by
    rw [List.filterMap_eq_nil_iff]
    intro b hb
    obtain ⟨i, hi, rfl⟩ := List.mem_iff_getElem.mp hb
    have := h ⟨i, by simpa using hi⟩
    simpa using this
  rw [encodersSettled, this]; rfl

@[simp] theorem takeSlot126_frame (o : Octet) (s : State) :
    (takeSlot126 o s).pending = s.pending ∧
    (takeSlot126 o s).resetLow = s.resetLow ∧
    (takeSlot126 o s).clock = s.clock ∧
    (takeSlot126 o s).directory = s.directory ∧
    (takeSlot126 o s).classes = s.classes ∧
    (takeSlot126 o s).tariff = s.tariff := by
  unfold takeSlot126
  dsimp only
  rcases s.link.framer126.take o with ⟨f, q⟩
  cases q <;> simp

end Sys2Proof.Machine
end

