-- ==== Sys2Proof/Laws/Specs.lean ====
section
/-! SUPPORT. What each shared operation can do, said once: the attention set, the outbound queue, the command holder, the
room evaluations, the drain test, and the layouts' numbers. Proofs cite these in place of unfolding the operations. -/

namespace Sys2Proof.Machine

/-! ## Taking an event -/

theorem event_taken {f : State → State} {s : State} (h : s.resetLow = false) : event f s = .next (f s) := by
  simp [event, h]

theorem event_held {f : State → State} {s : State} (h : s.resetLow = true) : event f s = .next s := by simp [event, h]

/-! ## Attention set -/

theorem attentionHas_iff (set : BitVec 16) (k : Attention) :
    attentionHas set k = true ↔ set ||| attentionBit k = set := by
  have h : ∀ b ∈ [attentionBit k], (∃ i : Fin 16, b = BitVec.twoPow 16 i.val) := by
    cases k <;> simp only [List.mem_singleton, forall_eq, attentionBit] <;> first
      | exact ⟨0, rfl⟩ | exact ⟨1, rfl⟩ | exact ⟨2, rfl⟩ | exact ⟨3, rfl⟩ | exact ⟨4, rfl⟩ | exact ⟨5, rfl⟩ | exact ⟨6, rfl⟩
      | exact ⟨7, rfl⟩ | exact ⟨8, rfl⟩ | exact ⟨9, rfl⟩ | exact ⟨10, rfl⟩ | exact ⟨11, rfl⟩ | exact ⟨12, rfl⟩
  obtain ⟨i, hi⟩ := h _ (List.mem_singleton.mpr rfl)
  simp only [attentionHas, hi, decide_eq_true_eq]
  constructor
  · intro hne
    ext j hj
    by_cases hij : i.val = j
    · subst hij
      have : set.getLsbD i.val = true := by
        by_contra hc
        apply hne
        ext j' hj'
        by_cases hij' : i.val = j'
        · subst hij'
          simp only [Bool.not_eq_true] at hc
          simp [← BitVec.getLsbD_eq_getElem, hc]
        · simp [BitVec.getElem_twoPow, Ne.symm hij']
      simp [← BitVec.getLsbD_eq_getElem, this]
    · simp [BitVec.getElem_twoPow, Ne.symm hij]
  · intro heq h0
    have h1 : (set ||| BitVec.twoPow 16 i.val).getLsbD i.val = set.getLsbD i.val := by rw [heq]
    have h2 : (set &&& BitVec.twoPow 16 i.val).getLsbD i.val = false := by rw [h0]; simp
    simp [i.isLt] at h1 h2
    simp [h1] at h2

/-- With an entry free, placing a kind is `State.placed` (R184). -/
theorem place_of_free {s : State} (h : s.link.queue.length < 64) (k : Attention) :
    place k s = if attentionHas s.attention k then s else s.placed k := by
  have hf : 1 ≤ s.freeEntries := by simp [State.freeEntries, Config.outboundEntries]; omega
  unfold place State.placed
  split
  · rfl
  · split
    · rename_i h0
      rfl
    · rename_i h0
      simp only [ne_eq, not_not] at h0
      rw [if_pos h0, h0]
      simp [State.push]

/-- A kind already in the set makes `State.placed` change nothing, unless the set is empty. -/
theorem placed_of_has {s : State} {k : Attention} (h : attentionHas s.attention k = true) : s.placed k = s := by
  have h0 : s.attention ≠ 0 := by
    intro h0; simp [attentionHas, h0] at h
  simp only [State.placed, (attentionHas_iff _ _).mp h, if_neg h0]

theorem place_eq_placed {s : State} (h : s.link.queue.length < 64) (k : Attention) : place k s = s.placed k := by
  rw [place_of_free h]
  split
  · rename_i hh; rw [placed_of_has hh]
  · rfl

/-- With no entry free, placing OUTBOUND_FULL only joins the set (R184, R15). -/
theorem place_outboundFull_of_full {s : State} (h : 64 ≤ s.link.queue.length) :
    place .outboundFull s = { s with attention := s.attention ||| attentionBit .outboundFull } := by
  have hf : ¬ 1 ≤ s.freeEntries := by simp [State.freeEntries, Config.outboundEntries]; omega
  unfold place
  split
  · rename_i hh; rw [(attentionHas_iff _ _).mp hh]
  · split
    · rfl
    · rename_i h0
      simp only [ne_eq, not_not] at h0
      rw [h0]
      simp [attentionJoin]

/-- After a placement the kind stands in the set. -/
theorem place_has (k : Attention) (s : State) : attentionHas (place k s).attention k = true := by
  unfold place
  split
  · assumption
  · split
    · simp [attentionHas_iff, attentionJoin, BitVec.or_assoc]
    · split <;> simp [attentionHas_iff, attentionJoin, State.push, BitVec.or_comm, ← BitVec.or_assoc]

/-! ## Outbound queue -/

/-- A notice is offered: pushed with an entry free, else OUTBOUND_FULL joins the set (R15). -/
theorem offerNotice_eq (f : OutFrame) (s : State) :
    offerNotice f s =
      if s.link.queue.length < 64 then { s with link := { s.link with queue := s.link.queue ++ [f] } }
      else { s with attention := s.attention ||| attentionBit .outboundFull } := by
  unfold offerNotice
  split
  · rename_i h
    simp only [State.freeEntries, Config.outboundEntries] at h
    rw [if_pos (by omega)]; rfl
  · rename_i h
    simp only [State.freeEntries, Config.outboundEntries] at h
    rw [if_neg (by omega), place_outboundFull_of_full (by omega)]

/-- A built reply enters the queue with an entry free, and waits in the holder otherwise (R179). -/
theorem buildReply_eq {s : State} {h : Held} (hh : s.link.holder = some h) (st : Status) (data : List Octet) :
    buildReply st data s =
      if s.link.queue.length < 64 then s.answered h.tag st data
      else { s with link := { s.link with holder := some { h with stage := .offering st data } } } := by
  by_cases hq : s.link.queue.length < 64
  · have h1 : 1 ≤ s.freeEntries := by simp only [State.freeEntries, Config.outboundEntries]; omega
    simp only [buildReply, hh, if_pos hq, if_pos h1]
    rfl
  · have h1 : ¬ 1 ≤ s.freeEntries := by simp only [State.freeEntries, Config.outboundEntries]; omega
    simp only [buildReply, hh, if_neg hq, if_neg h1]

/-! ## Command holder -/

/-- `s` with a command in its holder, in stage WORKING (R177). -/
def State.held (s : State) (kind tag : Octet) (fields : List Octet) : State :=
  { s with link := { s.link with holder := some ⟨kind, tag, fields, .working⟩ } }

/-- An occupied holder discards a command (R177). -/
theorem holderTake_occupied {s : State} {h : Held} (hh : s.link.holder = some h) (kind tag : Octet)
    (fields : List Octet) (owner : State → Work) : holderTake kind tag fields owner s = place .cmdOverrun s := by
  simp [holderTake, hh]

/-- A command whose owner ends its work at once, an entry being free for its reply. -/
theorem holderTake_done {s z : State} {kind tag : Octet} {fields : List Octet} {owner : State → Work} {st : Status}
    {data : List Octet} (hs : s.link.holder = none) (ho : owner (s.held kind tag fields) = .done st data z)
    (hz : z.link.holder = some ⟨kind, tag, fields, .working⟩) (hq : z.link.queue.length < 64) :
    holderTake kind tag fields owner s = z.answered tag st data := by
  have : owner { s with link := { s.link with holder := some ⟨kind, tag, fields, .working⟩ } } = .done st data z := ho
  simp only [holderTake, hs, this, buildReply_eq hz, if_pos hq]

/-- A command whose owner changes only what lies outside the link. -/
theorem holderTake_effect {s z : State} {kind tag : Octet} {fields : List Octet} {owner : State → Work} {st : Status}
    {data : List Octet} (hr : s.ready) (ho : owner (s.held kind tag fields) = .done st data z)
    (hl : z.link = (s.held kind tag fields).link) :
    holderTake kind tag fields owner s = { z with link := s.link.replied tag st data } := by
  rw [holderTake_done hr.2.1 ho (by rw [hl]; rfl) (by rw [hl]; exact hr.2.2)]
  obtain ⟨_, h2, _⟩ := hr
  simp [State.answered, hl, State.held, Link.replied, ← h2]

/-- A refused command: a reply alone (R178). -/
theorem holderTake_refuse {s : State} {kind tag : Octet} {fields : List Octet} {owner : State → Work} {st : Status}
    (hr : s.ready) (ho : owner (s.held kind tag fields) = .refuse st (s.held kind tag fields)) :
    holderTake kind tag fields owner s = s.refused tag st := by
  rw [holderTake_effect hr (by rw [ho]; rfl) rfl]
  rfl

/-- A command whose reply is deferred. -/
theorem holderTake_deferred {s z : State} {kind tag : Octet} {fields : List Octet} {owner : State → Work}
    (hs : s.link.holder = none) (ho : owner (s.held kind tag fields) = .deferred z) :
    holderTake kind tag fields owner s = z := by
  have : owner { s with link := { s.link with holder := some ⟨kind, tag, fields, .working⟩ } } = .deferred z := ho
  simp only [holderTake, hs, this]

/-! ## Room commands -/

theorem checkedRoom_passed {query loaded : Bool} {a b : Octet} {s : State} {k : RoomIx → Work} {r : RoomIx}
    (hm : s.service ≠ .mounting) (hr : field16 a b = r.val) (hl : loaded = true → (s.room r).loaded = true) :
    checkedRoom query loaded a b true s k = k r := by
  have hlt : field16 a b < 2048 := by rw [hr]; exact r.isLt
  have he : (⟨field16 a b, hlt⟩ : RoomIx) = r := Fin.ext hr
  cases loaded <;> simp_all [checkedRoom]

/-! ## The drain test (R182) -/

theorem drainTest_of_not_suspending {s : State} (h : s.service ≠ .suspending) : drainTest s = s := by
  simp [drainTest, h]

/-! ## Evaluations -/

theorem evaluateLamp_link (r : RoomIx) (s : State) (l : Link) :
    evaluateLamp r { s with link := l } = { evaluateLamp r s with link := l } := rfl

theorem evaluateRoom_link (r : RoomIx) (s : State) (l : Link) :
    evaluateRoom r { s with link := l } = { evaluateRoom r s with link := l } := rfl

/-! ## Numbers of the layouts -/

theorem field16_lt (a b : Octet) : field16 a b < 65536 := by
  have := a.isLt; have := b.isLt; simp only [field16]; omega

theorem field24_lt (a b c : Octet) : field24 a b c < 16777216 := by
  have := a.isLt; have := b.isLt; have := c.isLt; simp only [field24]; omega

theorem field32_lt (a b c d : Octet) : field32 a b c d < 4294967296 := by
  have := a.isLt; have := b.isLt; have := c.isLt; have := d.isLt; simp only [field32]; omega

end Sys2Proof.Machine
end

