-- ==== Sys2Proof/Laws/Dialogues.lean ====
section
/-! SUPPORT. The shared operations of the store, the channels and the speech coder in the terms of Safety.lean, one lemma
each: what the drain test, the delete path, a commit, a play list, a close request and a choice of a message make of a
state. Proofs cite these in place of unfolding the operations. -/

namespace Sys2Proof.Machine

/-! ## The drain test (R182) -/

theorem Ring.programPending_eq_false (r : Ring) :
    r.programPending = false ↔
      (∀ p ∈ r.recorded, p.status = .filling ∨ p.status = .full) ∧ HeldPage.program ∉ r.held := by
  have key : ∀ p : RecPage, p.inProgram = false ↔ p.status = .filling ∨ p.status = .full := by
    intro p; unfold RecPage.inProgram; split <;> simp_all
  simp only [Ring.programPending, Bool.or_eq_false_iff, List.any_eq_false, Bool.not_eq_true, key]
  refine and_congr_right fun _ => ⟨fun h hm => ?_, fun h p hp => ?_⟩
  · simpa using h _ hm
  · exact decide_eq_false fun hc => h (hc ▸ hp)

theorem State.drained_iff (s : State) :
    s.drained = true ↔
      (∀ c, (s.chan c).state = .free) ∧
      (∀ c, (∀ p ∈ (s.ring c).recorded, p.status = .filling ∨ p.status = .full) ∧ .program ∉ (s.ring c).held) ∧
      s.store.marks = [] ∧ s.store.marking = none := by
  simp only [State.drained, Bool.and_eq_true, Bool.not_eq_true', List.all_eq_true, List.any_eq_false,
    decide_eq_true_eq, List.isEmpty_iff, Option.isNone_iff_eq_none, and_assoc]
  have h1 : (∀ x ∈ s.channels.toList, x.state = .free) ↔ ∀ c, (s.chan c).state = .free := by
    constructor
    · intro h c; exact h _ (by simp [State.chan])
    · intro h x hx
      obtain ⟨i, hi, rfl⟩ := List.getElem_of_mem hx
      have := h ⟨i, by simpa using hi⟩
      simpa [State.chan] using this
  have h2 : (∀ x ∈ s.rings.toList, ¬x.programPending = true) ↔
      ∀ c, (∀ p ∈ (s.ring c).recorded, p.status = .filling ∨ p.status = .full) ∧ .program ∉ (s.ring c).held := by
    constructor
    · intro h c
      exact (Ring.programPending_eq_false _).mp (by simpa using h _ (by simp [State.ring]))
    · intro h x hx
      obtain ⟨i, hi, rfl⟩ := List.getElem_of_mem hx
      have := (Ring.programPending_eq_false _).mpr (h ⟨i, by simpa using hi⟩)
      simpa [State.ring] using this
  rw [h1, h2]

/-- The drain test is `State.drains`. -/
theorem drainTest_eq (s : State) : drainTest s = s.drains := by
  simp only [drainTest, State.drains, State.drained_iff]

/-- A state with a channel that is not FREE is not drained. -/
theorem drainTest_of_busy {s : State} {c : ChannelIx} (h : (s.chan c).state ≠ .free) : drainTest s = s := by
  rw [drainTest_eq, State.drains, if_neg]
  exact fun hh => h (hh.2.1 c)

/-! ## Message records -/

/-- Reading message `n` after an update of message `k` that keeps serials. -/
theorem State.message_updMessage (s : State) (n k : Nat) (f : Message → Message) (hf : ∀ m, (f m).serial = m.serial) :
    (s.updMessage k f).message n = if n = k then (s.message n).map f else s.message n := by
  have key : ∀ l : List Message,
      (l.map fun m => if m.serial = k then f m else m).find? (fun m => decide (m.serial = n)) =
        if n = k then (l.find? fun m => decide (m.serial = n)).map f else l.find? fun m => decide (m.serial = n) := by
    intro l
    induction l with
    | nil => split <;> rfl
    | cons a l ih =>
      simp only [List.map_cons, List.find?_cons, ih]
      by_cases hk : a.serial = k
      · simp only [hk, if_true, hf]
        by_cases hn : n = k
        · simp [hn]
        · simp [hn, show ¬k = n from fun h => hn h.symm]
      · simp only [hk, if_false]
        by_cases hn : a.serial = n
        · simp [hn, show ¬n = k from fun h => hk (hn.trans h)]
        · simp [hn]
  exact key _

/-- A message's record carries the serial it was asked by. -/
theorem State.message_serial {s : State} {n : Nat} {m : Message} (h : s.message n = some m) : m.serial = n := by
  simpa using List.find?_some h

theorem State.message_mem {s : State} {n : Nat} {m : Message} (h : s.message n = some m) : m ∈ s.store.messages :=
  List.mem_of_find?_eq_some h

/-! ## The delete path and the commit (R109, R112) -/

theorem badInsert_eq (b : Nat) (l : List Nat) : badInsert b l = if b ∈ l then l else l ++ [b] := by
  simp [badInsert]

/-- The store-low test, with an entry free (R115). -/
theorem storeLowTest_eq {s : State} (hq : s.link.queue.length < 64) : storeLowTest s = s.lowTested := by
  have : (if s.store.erasing.isSome then 1 else 0) = if s.store.erasing = none then 0 else 1 := by
    cases s.store.erasing <;> simp
  simp only [storeLowTest, State.lowTested, Store.low, this, place_eq_placed hq]

/-- Settling a message whose page 15 is blank (R113). -/
theorem settle_eq {s : State} {n : Nat} {m : Message} (h : s.message n = some m) (hb : m.blank15 = true) :
    settle n s =
      if m.state = .deleting ∧ m.readers = 0 ∧ s.programming n = false ∧ m.deletedPending = false then
        { s with store := { s.store with
            messages := s.store.messages.map fun x => if x.serial = n then { x with deletedPending := true } else x
            marks := s.store.marks ++ [(n, .deleted)] } }
      else s := by
  simp only [settle, h]
  split
  · have hm : (s.updMessage n fun x => { x with deletedPending := true }).message n =
        some { m with deletedPending := true } := by
      rw [State.message_updMessage _ _ _ _ (by simp), if_pos rfl, h]; rfl
    simp only [queueMark, hm, hb, if_true]
    rfl
  · rfl

/-- The delete path, with every mark page blank and an entry free (R112). -/
theorem deletePath_eq {s : State} (hb : s.marksBlank) (hq : s.link.queue.length < 64) (n : Nat) :
    deletePath n s = s.deletes n := by
  unfold deletePath State.deletes
  cases h : s.message n with
  | none => rfl
  | some m =>
    simp only
    by_cases hd : m.state = .deleting
    · simp only [if_pos hd]
    simp only [if_neg hd]
    have hs : m.serial = n := State.message_serial h
    have hroom : messageLeft m (s.room m.room) =
        if m.state = .recording then { s.room m.room with recordings := (s.room m.room).recordings - 1 }
        else (s.room m.room).without m := by
      unfold messageLeft Room.without
      cases hst : m.state <;> simp_all
      cases m.urgent <;> simp
    have hfind : s.store.messages.find? (fun x => decide (x.serial = n)) = some m := h
    suffices H : ∀ Z : State,
        Z = { s with rooms := s.rooms.set m.room (messageLeft m (s.room m.room))
                     store := { s.store with marks := s.store.marks.filter (· ≠ (n, .heard)) } } →
        (if m.unprogrammed = true then reclaim n Z
         else settle n (Z.updMessage n fun m => { m with state := .deleting })) =
          (let z : State :=
            { s with rooms := s.rooms.set m.room (messageLeft m (s.room m.room))
                     store := s.store.deleted n (s.programming n) }
           if m.blocks.all (·.valid = 0) = true then z.lowTested else z) by
      have H' := H _ rfl
      rw [hroom] at H'
      rw [← H']
      simp only [State.updRoom, State.setRoom, hroom]
    intro Z hZ
    have hm : Z.message n = some m := by subst hZ; exact h
    have hl : Z.link = s.link := by subst hZ; rfl
    have hu : m.unprogrammed = m.blocks.all (·.valid = 0) := rfl
    by_cases hun : m.blocks.all (·.valid = 0) = true
    · simp only [hu, hun, if_true, reclaim, hm]
      rw [storeLowTest_eq (by show Z.link.queue.length < 64; rw [hl]; exact hq)]
      subst hZ
      simp only [releaseBlocks, State.dropMessage, Store.deleted, hfind, if_neg hd, hun, if_true, badInsert_eq]
    · have hm' : (Z.updMessage n fun m => { m with state := .deleting }).message n = some { m with state := .deleting } := by
        rw [State.message_updMessage _ _ _ _ (by simp), if_pos rfl, hm]; rfl
      have hp : (Z.updMessage n fun m => { m with state := .deleting }).programming n = s.programming n := by
        subst hZ; rfl
      simp only [Bool.not_eq_true] at hun
      simp only [hu, hun, Bool.false_eq_true, if_false, settle_eq hm' (hb m (State.message_mem h)).2, hp]
      subst hZ
      simp only [Store.deleted, hfind, if_neg hd, hun, Bool.false_eq_true, if_false, true_and]
      split
      · rename_i hc
        simp only [hc.1, hc.2.1, hc.2.2, and_self, decide_true, Bool.not_false, Bool.and_true, Bool.or_true, if_true,
          State.updMessage, List.map_map]
        congr 3
        funext x
        by_cases hx : x.serial = n <;> simp [hx]
      · rename_i hc
        have : (decide (m.readers = 0 ∧ m.deletedPending = false) && !s.programming n) = false := by
          by_contra hne
          simp at hne
          exact hc ⟨hne.1, hne.2.2, hne.2.1⟩
        simp only [this, Bool.or_false, State.updMessage]
        simp

/-- A commit, with every mark page blank and an entry free (R109). -/
theorem commit_eq {s : State} (hb : s.marksBlank) (hq : s.link.queue.length < 64) (n voiceFrames : Nat) :
    commit n voiceFrames s = s.commits n voiceFrames := by
  unfold commit State.commits
  cases h : s.message n with
  | none => rfl
  | some m =>
    simp only [Message.unprogrammed, Config.minVoiceFrames, deletePath_eq hb hq]
    split
    · rfl
    · have hu : (if (true && m.urgent) = true then (s.room m.room).urgentCount + 1 else (s.room m.room).urgentCount) =
          (s.room m.room).urgentCount + if m.urgent = true then 1 else 0 := by
        cases m.urgent <;> rfl
      simp only [State.updMessage, State.updRoom, State.setRoom, messageEntered, if_true, ← hu]
      rfl

/-- A message made HEARD, with every mark page blank (R110). -/
theorem makeHeard_eq {s : State} (hb : s.marksBlank) (n : Nat) : makeHeard n s = s.madeHeard n := by
  unfold makeHeard State.madeHeard
  cases h : s.message n with
  | none => rfl
  | some m =>
    simp only
    by_cases hn : m.state = .new
    · simp only [hn, if_true, ne_eq, not_true_eq_false, if_false]
      have hroom : (if m.urgent = true then (s.room m.room).urgentCount - 1 else (s.room m.room).urgentCount) =
          (s.room m.room).urgentCount - if m.urgent = true then 1 else 0 := by
        cases m.urgent <;> rfl
      suffices H : ∀ Z : State, Z.store = (s.updMessage n fun m => { m with state := .heard }).store →
          queueMark .heard n Z =
            { Z with store := { s.store with
                messages := s.store.messages.map fun y => if y.serial = n then { y with state := .heard } else y
                marks := s.store.marks ++ [(n, .heard)] } } by
        rw [H _ (by simp [evaluateLamp])]
        simp only [evaluateLamp, State.updRoom, State.setRoom, State.updMessage, ← hroom]
        rfl
      intro Z hZ
      have hm : Z.message n = some { m with state := .heard } := by
        have : Z.message n = (s.updMessage n fun m => { m with state := .heard }).message n := by
          simp only [State.message, hZ]
        rw [this, State.message_updMessage _ _ _ _ (by simp), if_pos rfl, h]; rfl
      simp only [queueMark, hm, (hb m (State.message_mem h)).1, if_true, hZ, State.updMessage]
    · simp only [hn, if_false, ne_eq, not_false_eq_true, if_true]

/-! ## Leaving a message and entering FREE (R42, R59) -/

/-- A channel leaves its message, with every mark page blank. -/
theorem leaveMessage_eq {s : State} {c : ChannelIx} (hb : (s.chan c).reading = false ∨ s.marksBlank) :
    leaveMessage c s = s.leaves c := by
  unfold leaveMessage State.leaves Channel.leaves State.withChan
  cases hr : (s.chan c).reading with
  | false => simp only [hr]; rfl
  | true =>
    simp only [hr, Bool.true_eq_false, false_or] at hb
    cases hc : (s.chan c).current with
    | none => simp only [hr, hc]; rfl
    | some n =>
      simp only [hr, hc, State.updChan]
      cases h : s.message n with
      | none =>
        have hf : s.store.messages.find? (fun x => decide (x.serial = n)) = none := h
        have hnone : ∀ x ∈ s.store.messages, ¬x.serial = n := by simpa using hf
        have hmap : (s.store.messages.map fun m => if m.serial = n then { m with readers := m.readers - 1 } else m) =
            s.store.messages := by
          conv_rhs => rw [← List.map_id s.store.messages]
          exact List.map_congr_left fun x hx => by simp [hnone x hx]
        simp only [settle, State.updMessage, hmap, State.message, hf, Store.readerLeft]
      | some m =>
        have hf : s.store.messages.find? (fun x => decide (x.serial = n)) = some m := h
        suffices H : ∀ Z : State, Z.store = s.store → Z.port = s.port →
            settle n (Z.updMessage n fun m => { m with readers := m.readers - 1 }) =
              { Z with store := s.store.readerLeft n (s.programming n) } by
          exact H _ rfl rfl
        intro Z hZ hP
        have hm : (Z.updMessage n fun m => { m with readers := m.readers - 1 }).message n =
            some { m with readers := m.readers - 1 } := by
          rw [State.message_updMessage _ _ _ _ (by simp), if_pos rfl]
          have : Z.message n = s.message n := by simp only [State.message, hZ]
          rw [this, h]; rfl
        have hp : (Z.updMessage n fun m => { m with readers := m.readers - 1 }).programming n = s.programming n := by
          simp only [State.programming, State.updMessage, hP]
        rw [settle_eq hm (hb m (State.message_mem h)).2, hp]
        simp only [State.updMessage, Store.readerLeft, hf, hZ]
        split
        · rename_i hcond
          have h1 : m.readers ≤ 1 := by omega
          simp only [hcond.1, h1, hcond.2.2.1, hcond.2.2.2, and_self, decide_true, Bool.not_false, Bool.and_true,
            Bool.or_true, if_true, List.map_map]
          congr 3
          funext x
          by_cases hx : x.serial = n <;> simp [hx]
        · rename_i hcond
          have : (decide (m.state = .deleting ∧ m.readers ≤ 1 ∧ m.deletedPending = false) && !s.programming n) = false := by
            by_contra hne
            simp at hne
            exact hcond ⟨hne.1, by have := hne.2.1; omega, hne.2.2.2, hne.2.2.1⟩
          simp only [this, Bool.or_false]
          simp

theorem State.leaves_chan (s : State) (c : ChannelIx) :
    (s.leaves c).chan c = { s.chan c with reading := false, current := none } := by
  simp [State.leaves, State.withChan, State.chan]

/-- A channel enters FREE, with every mark page blank (R42). -/
theorem enterFree_eq {s : State} {c : ChannelIx} (hb : (s.chan c).reading = false ∨ s.marksBlank) :
    enterFree c s = s.frees c := by
  unfold enterFree State.frees
  rw [leaveMessage_eq hb]
  cases h : (s.chan c).slot with
  | none => simp [leaveItem, State.updRing, State.updChan, State.withChan, State.chan, State.leaves]; rfl
  | some k =>
    simp [leaveItem, State.updRing, State.updChan, State.withChan, State.chan, State.leaves, State.bind]; rfl

/-! ## Play lists (R45) -/

/-- An item with which a list can start: a message, or a prompt with a directory entry. -/
def State.playable (s : State) : PlayItem → Prop
  | .prompt id => s.store.prompts[id] ≠ none
  | .message _ => True

theorem State.prompted.playable {s : State} (h : s.prompted) (i : PlayItem) : s.playable i := by
  cases i with
  | prompt id => exact h id
  | message n => trivial

/-- A list whose first item can play starts on it. -/
theorem setList_eq {s : State} {i : PlayItem} (h : s.playable i) (c : ChannelIx) (l : List PlayItem) :
    setList c (i :: l) s = State.starts c i (s.withChan c { s.chan c with playList := i :: l }) := by
  cases i with
  | prompt id =>
    obtain ⟨e, he⟩ := Option.ne_none_iff_exists'.mp h
    have he' : (leaveItem c s).store.prompts[id] = some e := he
    simp only [setList, startList, he', takeItem, State.starts, State.withChan, State.updChan, State.updRing,
      State.updDecoder, he, Option.elim]
    simp [leaveItem, State.updRing, State.ring, State.chan, Ring.take, PromptEntry.pages, decoderStarted, Decoder.reset,
      Quantiser.reset, Config.pageOctets]
    rfl
  | message n =>
    simp only [setList, startList, takeItem, State.starts, State.withChan, State.updChan, State.updRing,
      State.updDecoder]
    simp [leaveItem, State.updRing, State.ring, State.chan, Ring.take, decoderStarted, Decoder.reset,
      Quantiser.reset, Config.pageOctets]
    exact ⟨rfl, rfl⟩

/-- An empty list leaves the channel with no current item. -/
theorem setList_nil (s : State) (c : ChannelIx) :
    setList c [] s = (leaveItem c s).withChan c { s.chan c with playList := [] } := rfl

theorem State.starts_playList (s : State) (c : ChannelIx) (i : PlayItem) : (s.starts c i).chan c = s.chan c := rfl

/-! ## Recordings (R49, R83, R84) -/

theorem countP_inProgram_map (l : List RecPage) (f : RecPage → RecPage) (hf : ∀ p ∈ l, (f p).inProgram = p.inProgram) :
    (l.map f).countP RecPage.inProgram = l.countP RecPage.inProgram := by
  rw [List.countP_map]
  exact List.countP_congr fun p hp => by simp [hf p hp]

theorem RecPage.add_inProgram (o : Octet) (p : RecPage) : (p.add o).inProgram = false := by
  by_cases h : p.data.length + 1 = Config.pageOctets <;> simp [RecPage.add, RecPage.inProgram, h]

theorem Ring.add_outPrograms (g : Ring) (o : Octet) : (g.add o).outPrograms = g.outPrograms := by
  unfold Ring.add Ring.outPrograms
  split
  · simp only
    rw [countP_inProgram_map]
    intro p _
    split
    · rename_i h; rw [RecPage.add_inProgram]; simp [RecPage.inProgram, h]
    · rfl
  · simp [List.countP_append, RecPage.add_inProgram]

theorem Ring.addAll_outPrograms (g : Ring) (l : List Octet) : (l.foldl Ring.add g).outPrograms = g.outPrograms := by
  induction l generalizing g with
  | nil => rfl
  | cons o l ih => rw [List.foldl_cons, ih, Ring.add_outPrograms]

theorem Ring.pad_outPrograms (g : Ring) : g.pad.outPrograms = g.outPrograms := by
  unfold Ring.pad Ring.outPrograms
  simp only
  rw [countP_inProgram_map]
  intro p _
  split
  · rename_i h; simp [RecPage.inProgram, h]
  · rfl

theorem Ring.finish_outPrograms (g : Ring) : g.finish.outPrograms = g.outPrograms := by
  unfold Ring.finish
  simp only
  rw [Ring.pad_outPrograms]
  show (if g.accepts [0x00] = true then g.add 0x00 else g).outPrograms = _
  split
  · exact Ring.add_outPrograms g _
  · rfl

theorem Ring.add_recorded_ne (g : Ring) (o : Octet) (h : g.recorded ≠ []) : (g.add o).recorded ≠ [] := by
  unfold Ring.add
  split <;> simp [h]

theorem Ring.finish_recorded_ne (g : Ring) (h : g.recorded ≠ []) : g.finish.recorded ≠ [] := by
  unfold Ring.finish
  simp only [Ring.pad, ne_eq, List.map_eq_nil_iff]
  split
  · exact Ring.add_recorded_ne g _ h
  · exact h

/-- With two programs outstanding no request is raised (R84). -/
theorem raisePrograms_of_two {s : State} {c : ChannelIx} (h : 2 ≤ (s.ring c).outPrograms) : raisePrograms c s = s := by
  have hd : (s.ring c).programDue = false := by
    simp only [Ring.programDue]
    have h0 : ¬(s.ring c).outPrograms = 0 := by omega
    have h1 : ¬(s.ring c).outPrograms = 1 := by omega
    simp [h0, h1]
  have h1 : raiseProgram c s = s := by simp [raiseProgram, hd]
  rw [raisePrograms, h1, h1]

/-- A recording ends with two programs outstanding and pages in its ring (R49). -/
theorem recordingEnd_eq {s : State} {c : ChannelIx} (h2 : 2 ≤ (s.ring c).outPrograms) (hr : (s.ring c).recorded ≠ [])
    (l : List PlayItem) (gone : Bool) : recordingEnd c l gone s = s.endsRecording c l gone := by
  have hz : (s.endsRecording c l gone).ring c = (s.ring c).finish := by simp [State.endsRecording, State.ring]
  have h : recordingEnd c l gone s = flushTest c (raisePrograms c (s.endsRecording c l gone)) := rfl
  rw [h, raisePrograms_of_two (by rw [hz, Ring.finish_outPrograms]; exact h2), flushTest, if_neg]
  rintro ⟨-, -, h3⟩
  exact Ring.finish_recorded_ne _ hr (hz ▸ h3)

/-! ## Closing, choosing and flushing -/

/-- CLOSING is entered with a list that can play (R61, R65). -/
theorem enterClosing_eq {s : State} {i : PlayItem} (h : s.playable i) (c : ChannelIx) (l : List PlayItem) :
    enterClosing c (i :: l) s =
      State.starts c i (s.withChan c { s.chan c with state := .closing, playList := i :: l }) := by
  have h' : (s.updChan c fun x => { x with state := .closing }).playable i := h
  have hp : ((State.starts c i (s.withChan c { s.chan c with state := .closing, playList := i :: l })).chan c).playList =
      i :: l := by rw [State.starts_playList]; simp [State.withChan, State.chan]
  simp only [enterClosing, setList_eq h']
  have he : (s.updChan c fun x => { x with state := .closing }).withChan c
      { (s.updChan c fun x => { x with state := .closing }).chan c with playList := i :: l } =
      s.withChan c { s.chan c with state := .closing, playList := i :: l } := by
    simp [State.withChan, State.updChan, State.chan]
  rw [he, hp, if_neg (by simp)]

theorem Channel.leaves_prompts (x : Channel) (busy : Nat → Bool) (t : Store) : (x.leaves busy t).prompts = t.prompts := by
  unfold Channel.leaves Store.readerLeft
  split
  · split <;> rfl
  · rfl

/-- A close request, with every prompt in the directory and every mark page blank (R65). -/
theorem closeRequest_eq {s : State} {c : ChannelIx} (hp : s.prompted) (hb : s.marksBlank)
    (hr : (s.chan c).state = .record → 2 ≤ (s.ring c).outPrograms ∧ (s.ring c).recorded ≠ []) :
    closeRequest c s = s.closes c := by
  unfold closeRequest State.closes
  have hpl : ∀ z : State, z.store.prompts = s.store.prompts → z.playable pGoodbye := by
    intro z hz
    show z.store.prompts[(11 : PromptId)] ≠ none
    rw [hz]; exact hp 11
  cases h : (s.chan c).state with
  | free | flush | closing => rfl
  | greet => exact enterClosing_eq (hpl s rfl) c []
  | record => exact recordingEnd_eq (hr h).1 (hr h).2 _ _
  | announce | replay | listen =>
    simp only
    rw [leaveMessage_eq (.inr hb)]
    exact enterClosing_eq (hpl _ (Channel.leaves_prompts _ _ _)) c []

/-- The candidate of a mailbox (R54). -/
theorem State.candidate_eq_some {s : State} {box : List Nat} (st : MsgState) (last : Option Nat) (n : Nat) :
    s.candidate box st last = some n ↔ s.NextIs box st last n := by
  have key : ∀ p : Nat → Bool, (∀ k, p k = true ↔ (∀ l, last = some l → l < k) ∧ ∃ m, s.message k = some m ∧ m.state = st) →
      (box.find? p = some n ↔ s.NextIs box st last n) := by
    intro p hp
    simp only [List.find?_eq_some_iff_append, State.NextIs, ← hp, Bool.not_eq_true', Bool.not_eq_true]
  refine key _ fun k => ?_
  cases last <;> cases s.message k <;> simp

theorem State.candidate_eq_none {s : State} {box : List Nat} (st : MsgState) (last : Option Nat) :
    s.candidate box st last = none ↔ ∀ n, ¬s.NextIs box st last n := by
  constructor
  · intro hn n hc
    rw [← State.candidate_eq_some] at hc
    rw [hn] at hc; cases hc
  · intro hall
    cases hc : s.candidate box st last with
    | none => rfl
    | some n => exact absurd ((State.candidate_eq_some st last n).mp hc) (hall n)

/-- The choice of R54. -/
theorem State.choice_eq {s : State} {c : ChannelIx} {r : RoomIx} (hr : (s.chan c).room = some r)
    {found : Option Nat} {kept : Bool} (hc : s.Chooses (s.chan c) (s.room r).mailbox found kept) :
    s.choice c = (found, kept) := by
  simp only [State.choice, hr, Option.map_some, Option.getD_some]
  cases found with
  | some n =>
    cases kept with
    | false =>
      obtain ⟨hk, hn⟩ := hc
      simp [hk, (State.candidate_eq_some _ _ _).mpr hn]
    | true =>
      rcases hc with ⟨hk, hn⟩ | ⟨hk, hnone, hn⟩
      · simp [hk, (State.candidate_eq_some _ _ _).mpr hn]
      · simp [hk, (State.candidate_eq_none _ _).mpr hnone, (State.candidate_eq_some _ _ _).mpr hn]
  | none =>
    obtain ⟨rfl, ⟨hk, hnone⟩ | ⟨hk, h1, h2⟩⟩ := hc
    · simp [hk, (State.candidate_eq_none _ _).mpr hnone]
    · simp [hk, (State.candidate_eq_none _ _).mpr h1, (State.candidate_eq_none _ _).mpr h2]

theorem Store.deleted_prompts (n : Nat) (busy : Bool) (t : Store) : (t.deleted n busy).prompts = t.prompts := by
  unfold Store.deleted
  split
  · rfl
  · split
    · rfl
    · simp only; split <;> rfl

theorem State.lowTested_store (s : State) : s.lowTested.store = s.store := by
  unfold State.lowTested; split <;> rfl

theorem State.deletes_prompts (n : Nat) (s : State) : (s.deletes n).store.prompts = s.store.prompts := by
  unfold State.deletes
  split
  · rfl
  · split
    · rfl
    · simp only
      split
      · rw [State.lowTested_store]; exact Store.deleted_prompts _ _ _
      · exact Store.deleted_prompts _ _ _

theorem State.commits_prompts (n v : Nat) (s : State) : (s.commits n v).store.prompts = s.store.prompts := by
  unfold State.commits
  split
  · rfl
  · simp only
    split
    · exact State.deletes_prompts _ _
    · simp [evaluateLamp]

/-- The flush ends, with every prompt in the directory, every mark page blank and an entry free (R50). -/
theorem flushEnd_eq {s : State} {c : ChannelIx} (hp : s.prompted) (hb : s.marksBlank) (hq : s.link.queue.length < 64)
    (hr : (s.chan c).reading = false) (hl : (s.chan c).callerPresent = true → (s.chan c).playList ≠ []) :
    flushEnd c s = s.flushEnds c := by
  let x : Channel := s.chan c
  suffices H : ∀ y : State, y.channels = s.channels → y.coder = s.coder → y.store.prompts = s.store.prompts →
      (if x.callerPresent then
        enterClosing c x.playList ((y.updEncoder c fun e => { e with state := .idle }).updChan c fun x => { x with current := none })
       else enterFree c ((y.updEncoder c fun e => { e with state := .idle }).updChan c fun x => { x with current := none })) =
      (let w : State := { y with coder := { y.coder with
          encoders := y.coder.encoders.set c { s.encoder c with state := .idle } } }
       if x.callerPresent then
         State.starts c (x.playList.headD pGoodbye) (w.withChan c { x with state := .closing, current := none })
       else (w.withChan c { x with current := none }).frees c) by
    unfold flushEnd State.flushEnds
    cases h : (s.chan c).current with
    | none => simp only [h, Option.elim]; exact H s rfl rfl rfl
    | some n =>
      simp only [h, Option.elim]
      rw [← commit_eq hb hq]
      exact H _ (by simp) (by simp) (by rw [commit_eq hb hq]; exact State.commits_prompts _ _ _)
  intro y h1 h2 h3
  have hyx : y.chan c = x := by simp only [State.chan, h1, x]
  have hye : y.encoder c = s.encoder c := by simp only [State.encoder, h2]
  have hw : (y.updEncoder c fun e => { e with state := .idle }).updChan c (fun x => { x with current := none }) =
      ({ y with coder := { y.coder with encoders := y.coder.encoders.set c { s.encoder c with state := .idle } } } :
        State).withChan c { x with current := none } := by
    simp only [State.updEncoder, State.updChan, State.withChan, hye]
    rw [← hyx]; rfl
  rw [hw]
  generalize hg : ({ y with coder := { y.coder with
    encoders := y.coder.encoders.set c { s.encoder c with state := .idle } } } : State) = w
  have hwp : w.store.prompts = s.store.prompts := by rw [← hg]; exact h3
  have hc : (w.withChan c { x with current := none }).chan c = { x with current := none } := by
    simp [State.withChan, State.chan]
  simp only
  split
  · rename_i hcp
    obtain ⟨i, l, hil⟩ := List.exists_cons_of_ne_nil (hl hcp)
    have hpl : (w.withChan c { x with current := none }).playable i := by
      cases i with
      | prompt id => show w.store.prompts[id] ≠ none; rw [hwp]; exact hp id
      | message n => trivial
    have hil' : x.playList = i :: l := hil
    have hcl := enterClosing_eq hpl c l
    rw [← hil', hc] at hcl
    rw [hcl, hil']
    simp [State.withChan]
  · exact enterFree_eq (.inl (by rw [hc]; exact hr))

/-! ## The speech coder and the transmitter (R14, R70, R71) -/

theorem clampLinear_eq (v : Int) : clampLinear v = max (-8192) (min 8191 v) := by
  unfold clampLinear; split
  · omega
  · split <;> omega

theorem Quantiser.apply_eq (q : Quantiser) (n : Nat) : q.apply n = q.coded n := by
  have hm : n % 8 < 8 := Nat.mod_lt _ (by decide)
  have ha : quantAdjust (n % 8) = ([-1, -1, 0, 0, 1, 1, 2, 4] : List Int).getD (n % 8) 0 := by
    generalize n % 8 = m at hm
    match m, hm with
    | 0, _ | 1, _ | 2, _ | 3, _ | 4, _ | 5, _ | 6, _ | 7, _ => rfl
  have hi : ∀ i : Int, clampIndex i = (max 0 (min 39 i)).toNat := by
    intro i; unfold clampIndex; split
    · omega
    · split <;> omega
  simp only [Quantiser.apply, Quantiser.coded, clampLinear_eq, quantStep, ha, hi]
  congr 3
  by_cases h : 8 ≤ n
  · rw [if_pos h, if_neg (by omega)]
  · rw [if_neg h, if_pos (by omega)]

theorem nearestFrom_spec (v : Int) (l : List Int) (i best d : Nat) :
    (nearestFrom v l i best d = best ∧ ∀ (j : Nat) (e : Int), l[j]? = some e → d ≤ (e - v).natAbs) ∨
      ∃ (j : Nat) (e : Int), l[j]? = some e ∧ nearestFrom v l i best d = i + j ∧ (e - v).natAbs < d ∧
        (∀ (k : Nat) (f : Int), l[k]? = some f → (e - v).natAbs ≤ (f - v).natAbs) ∧
        ∀ (k : Nat) (f : Int), k < j → l[k]? = some f → (e - v).natAbs < (f - v).natAbs := by
  induction l generalizing i best d with
  | nil => left; simp [nearestFrom]
  | cons a l ih =>
    unfold nearestFrom
    by_cases h : (a - v).natAbs < d
    · rw [if_pos h]
      right
      rcases ih (i + 1) i (a - v).natAbs with ⟨h1, h2⟩ | ⟨j, e, he, hn, hlt, hle, hfst⟩
      · refine ⟨0, a, rfl, by simpa using h1, h, ?_, by simp⟩
        intro k f hk
        cases k with
        | zero => simp at hk; subst hk; exact le_rfl
        | succ k => exact h2 k f (by simpa using hk)
      · refine ⟨j + 1, e, by simpa using he, by omega, by omega, ?_, ?_⟩
        · intro k f hk
          cases k with
          | zero => simp at hk; subst hk; omega
          | succ k => exact hle k f (by simpa using hk)
        · intro k f hkj hk
          cases k with
          | zero => simp at hk; subst hk; exact hlt
          | succ k => exact hfst k f (by omega) (by simpa using hk)
    · rw [if_neg h]
      rcases ih (i + 1) best d with ⟨h1, h2⟩ | ⟨j, e, he, hn, hlt, hle, hfst⟩
      · left
        refine ⟨h1, fun j e hj => ?_⟩
        cases j with
        | zero => simp at hj; subst hj; omega
        | succ j => exact h2 j e (by simpa using hj)
      · right
        refine ⟨j + 1, e, by simpa using he, by omega, hlt, ?_, ?_⟩
        · intro k f hk
          cases k with
          | zero => simp at hk; subst hk; omega
          | succ k => exact hle k f (by simpa using hk)
        · intro k f hkj hk
          cases k with
          | zero => simp at hk; subst hk; omega
          | succ k => exact hfst k f (by omega) (by simpa using hk)

/-- Recompanding gives the lowest of the nearest codes, entries and value being in range (R70). -/
theorem recompand_nearest {table : Vector Int 256} {v : Int} (hv : -8192 ≤ v ∧ v ≤ 8191)
    (ht : ∀ j : Fin 256, -8192 ≤ table[j] ∧ table[j] ≤ 8191) : NearestCode table v (recompand table v) := by
  have hget : ∀ k : Fin 256, table.toList[k.val]? = some table[k] := by intro k; simp
  rcases nearestFrom_spec v table.toList 0 0 16384 with ⟨-, h2⟩ | ⟨j, e, he, hn, -, hle, hfst⟩
  · have := h2 0 _ (hget 0)
    have := ht 0
    omega
  · have hj : j < 256 := by
      have := List.getElem?_eq_some_iff.mp he
      obtain ⟨hj, -⟩ := this
      simpa using hj
    have hej : table[(⟨j, hj⟩ : Fin 256)] = e := by
      have := hget ⟨j, hj⟩
      rw [he] at this; exact (Option.some.inj this).symm
    refine ⟨⟨j, hj⟩, by simp only [recompand, hn]; simp, fun k => ?_, fun k hk => ?_⟩
    · rw [hej]; exact hle _ _ (hget k)
    · rw [hej]; exact hfst _ _ hk (hget k)

/-- What the transmitter sends in slot 127, and what it becomes (R14). -/
theorem transmit_eq (s : State) : (transmit s).2 = s.sent := by
  unfold transmit State.toSend State.sent
  cases h : s.link.sending with
  | nil =>
    cases hq : s.link.queue with
    | nil =>
      have hl : ({ s.link with sending := [], queue := [] } : Link) = s.link := by cases hl : s.link; simp_all
      simp [hl]
    | cons f rest => simp [OutFrame.line, envelope]
  | cons o l => simp

end Sys2Proof.Machine
end

