-- ==== Sys2Proof/Laws/Mounting.lean ====
section
/-! SUPPORT. The last step of the mount in the terms of Safety.lean (R120, R121): what the candidates, the chains and the
rooms' mailboxes are. -/

namespace Sys2Proof.Machine

/-! ## Candidates (R120) -/

theorem firstHeads_cons (kept : List MountHead) (h : MountHead) (l : List MountHead) :
    firstHeads kept (h :: l) = firstHeads (if kept.any (·.info.serial = h.info.serial) then kept else kept ++ [h]) l := rfl

theorem mem_firstHeads (kept l : List MountHead) (h : MountHead) :
    h ∈ firstHeads kept l ↔ h ∈ kept ∨ ((∀ k ∈ kept, k.info.serial ≠ h.info.serial) ∧
      ∃ before after, l = before ++ h :: after ∧ ∀ k ∈ before, k.info.serial ≠ h.info.serial) := by
  induction l generalizing kept with
  | nil => simp [firstHeads]
  | cons a l ih =>
    rw [firstHeads_cons, ih]
    have split : ∀ P : Prop, (P → ∀ k ∈ kept, k.info.serial ≠ h.info.serial) →
        ((P ∧ ∃ before after, a :: l = before ++ h :: after ∧ ∀ k ∈ before, k.info.serial ≠ h.info.serial) ↔
          P ∧ (a = h ∨ (a.info.serial ≠ h.info.serial ∧
            ∃ before after, l = before ++ h :: after ∧ ∀ k ∈ before, k.info.serial ≠ h.info.serial))) := by
      intro P _
      refine and_congr_right fun _ => ⟨?_, ?_⟩
      · rintro ⟨before, after, he, hb⟩
        cases before with
        | nil => simp only [List.nil_append, List.cons.injEq] at he; exact .inl he.1
        | cons b before =>
          simp only [List.cons_append, List.cons.injEq] at he
          obtain ⟨rfl, rfl⟩ := he
          exact .inr ⟨hb _ (by simp), before, after, rfl, fun k hk => hb k (by simp [hk])⟩
      · rintro (rfl | ⟨hne, before, after, rfl, hb⟩)
        · exact ⟨[], l, rfl, by simp⟩
        · refine ⟨a :: before, after, rfl, ?_⟩
          intro k hk
          rcases List.mem_cons.mp hk with rfl | hk
          · exact hne
          · exact hb k hk
    rw [split _ id]
    by_cases hany : kept.any (·.info.serial = a.info.serial) = true
    · rw [if_pos hany]
      obtain ⟨k, hk, hks⟩ := List.any_eq_true.mp hany
      simp only [decide_eq_true_eq] at hks
      refine or_congr_right (and_congr_right fun hkept => ?_)
      constructor
      · rintro ⟨before, after, rfl, hb⟩
        exact .inr ⟨fun hs => hkept k hk (hks.trans hs), before, after, rfl, hb⟩
      · rintro (rfl | ⟨-, hx⟩)
        · exact absurd hks (hkept k hk)
        · exact hx
    · rw [if_neg hany]
      simp only [List.any_eq_true, decide_eq_true_eq, not_exists, not_and] at hany
      simp only [List.mem_append, List.mem_singleton]
      constructor
      · rintro ((hk | rfl) | ⟨hk, hx⟩)
        · exact .inl hk
        · exact .inr ⟨hany, .inl rfl⟩
        · exact .inr ⟨fun k h' => hk k (.inl h'), .inr ⟨hk a (.inr rfl), hx⟩⟩
      · rintro (hk | ⟨hk, rfl | ⟨hne, hx⟩⟩)
        · exact .inl (.inl hk)
        · exact .inl (.inr rfl)
        · refine .inr ⟨?_, hx⟩
          rintro k (hk' | rfl)
          · exact hk k hk'
          · exact hne

theorem firstHeads_serials (kept l : List MountHead) (hk : kept.Pairwise fun a b => a.info.serial ≠ b.info.serial) :
    (firstHeads kept l).Pairwise fun a b => a.info.serial ≠ b.info.serial := by
  induction l generalizing kept with
  | nil => exact hk
  | cons a l ih =>
    rw [firstHeads_cons]
    apply ih
    split
    · exact hk
    · rename_i hany
      simp only [List.any_eq_true, decide_eq_true_eq, not_exists, not_and] at hany
      rw [List.pairwise_append]
      exact ⟨hk, by simp, fun x hx y hy => by simp only [List.mem_singleton] at hy; subst hy; exact hany x hx⟩

theorem mem_headInsert (h k : MountHead) (l : List MountHead) : k ∈ headInsert h l ↔ k = h ∨ k ∈ l := by
  induction l with
  | nil => simp [headInsert]
  | cons a l ih =>
    unfold headInsert
    split
    · simp
    · simp only [List.mem_cons, ih]; tauto

theorem headInsert_pairwise (h : MountHead) (l : List MountHead) (hl : l.Pairwise fun a b => a.info.serial < b.info.serial)
    (hne : ∀ k ∈ l, k.info.serial ≠ h.info.serial) : (headInsert h l).Pairwise fun a b => a.info.serial < b.info.serial := by
  induction l with
  | nil => simp [headInsert]
  | cons a l ih =>
    rw [List.pairwise_cons] at hl
    unfold headInsert
    split
    · rename_i hlt
      refine List.pairwise_cons.mpr ⟨fun k hk => ?_, List.pairwise_cons.mpr hl⟩
      rcases List.mem_cons.mp hk with rfl | hk
      · exact hlt
      · exact hlt.trans (hl.1 k hk)
    · rename_i hlt
      refine List.pairwise_cons.mpr ⟨fun k hk => ?_, ih hl.2 fun k hk => hne k (by simp [hk])⟩
      rcases (mem_headInsert _ _ _).mp hk with rfl | hk
      · have := hne a (by simp); omega
      · exact hl.1 k hk

theorem foldl_headInsert (l acc : List MountHead) (ha : acc.Pairwise fun a b => a.info.serial < b.info.serial)
    (hl : l.Pairwise fun a b => a.info.serial ≠ b.info.serial)
    (hal : ∀ h ∈ l, ∀ k ∈ acc, k.info.serial ≠ h.info.serial) :
    (l.foldl (fun l h => headInsert h l) acc).Pairwise (fun a b => a.info.serial < b.info.serial) ∧
      ∀ k, k ∈ l.foldl (fun l h => headInsert h l) acc ↔ k ∈ acc ∨ k ∈ l := by
  induction l generalizing acc with
  | nil => exact ⟨ha, by simp⟩
  | cons a l ih =>
    rw [List.pairwise_cons] at hl
    obtain ⟨h1, h2⟩ := ih (headInsert a acc) (headInsert_pairwise a acc ha (hal a (by simp))) hl.2 (by
      intro h hh k hk
      rcases (mem_headInsert _ _ _).mp hk with rfl | hk
      · exact hl.1 h hh
      · exact hal h (by simp [hh]) k hk)
    refine ⟨h1, fun k => ?_⟩
    rw [List.foldl_cons, h2, mem_headInsert]
    simp only [List.mem_cons]; tauto

/-- The candidates are the first HEADs of their serials, those found deleted left out, ascending by serial (R120). -/
theorem candidates_spec (heads : List MountHead) :
    (candidates heads).Pairwise (fun h k => h.info.serial < k.info.serial) ∧
      ∀ h, h ∈ candidates heads ↔ h.deletedMark = false ∧
        ∃ before after, heads = before ++ h :: after ∧ ∀ k ∈ before, k.info.serial ≠ h.info.serial := by
  obtain ⟨h1, h2⟩ := foldl_headInsert ((firstHeads [] heads).filter (!·.deletedMark)) [] List.Pairwise.nil
    ((firstHeads_serials [] heads List.Pairwise.nil).sublist List.filter_sublist) (by simp)
  refine ⟨h1, fun h => (h2 h).trans ?_⟩
  simp only [List.not_mem_nil, false_or, List.mem_filter, mem_firstHeads, false_imp_iff, implies_true, true_and,
    Bool.not_eq_true']
  exact and_comm

/-! ## The working table and its chains (R118, R120) -/

/-- The class of a block of the message area, from block `first` upward. -/
def classAt (classes : List BlockClass) (first b : Nat) : Option BlockClass :=
  if first ≤ b then classes[b - first]? else none

theorem mem_blocks (m : MountJob) (first b : Nat) (k : BlockClass) :
    (b, k) ∈ m.blocks first ↔ classAt m.classes first b = some k := by
  simp only [MountJob.blocks, List.mem_map, Prod.mk.injEq, Prod.exists, List.mem_zipIdx_iff_getElem?, classAt]
  constructor
  · rintro ⟨c, i, hi, rfl, rfl⟩
    simp [hi]
  · split
    · intro h; exact ⟨k, b - first, by simpa using h, by omega, rfl⟩
    · intro h; cases h

theorem blocks_pairwise (m : MountJob) (first : Nat) : (m.blocks first).Pairwise fun a b => a.1 < b.1 := by
  rw [MountJob.blocks, List.pairwise_map, List.zipIdx_eq_zip_range']
  have : ((m.classes.zip (List.range' 0 m.classes.length)).map (·.2)).Pairwise (· < ·) := by
    rw [List.map_snd_zip (by simp)]
    exact List.pairwise_lt_range'
  rw [List.pairwise_map] at this
  exact this.imp fun h => by omega

theorem contBlock_some (m : MountJob) (first n i b : Nat) :
    contBlock (m.blocks first) n i = some b ↔
      classAt m.classes first b = some (.cont n i) ∧ ∀ k, classAt m.classes first k = some (.cont n i) → b ≤ k := by
  have key : ∀ l : List (Nat × BlockClass), l.Pairwise (fun a b => a.1 < b.1) →
      (contBlock l n i = some b ↔ (b, .cont n i) ∈ l ∧ ∀ k, (k, BlockClass.cont n i) ∈ l → b ≤ k) := by
    intro l hl
    induction l with
    | nil => simp [contBlock]
    | cons a l ih =>
      rw [List.pairwise_cons] at hl
      simp only [contBlock, List.find?_cons]
      by_cases ha : a.2 = .cont n i
      · obtain ⟨a1, a2⟩ := a
        simp only at ha
        subst ha
        simp only [decide_true, Option.map_some, Option.some.injEq]
        constructor
        · rintro rfl
          refine ⟨by simp, fun k hk => ?_⟩
          rcases List.mem_cons.mp hk with hk | hk
          · simp only [Prod.mk.injEq] at hk; omega
          · exact (hl.1 _ hk).le
        · rintro ⟨hb, hall⟩
          have := hall a1 (by simp)
          rcases List.mem_cons.mp hb with hb | hb
          · simp only [Prod.mk.injEq] at hb; exact hb.1.symm
          · have := hl.1 _ hb; simp only at this; omega
      · have hd : decide (a.2 = BlockClass.cont n i) = false := by simp [ha]
        simp only [hd]
        refine (ih hl.2).trans ?_
        have hm : ∀ k, (k, BlockClass.cont n i) ∈ a :: l ↔ (k, BlockClass.cont n i) ∈ l := by
          intro k
          simp only [List.mem_cons, or_iff_right_iff_imp]
          intro h; exact absurd (by rw [← h]) ha
        simp only [hm]
  rw [key _ (blocks_pairwise m first)]
  simp only [mem_blocks]

theorem contBlock_none (m : MountJob) (first n i : Nat) :
    contBlock (m.blocks first) n i = none ↔ ∀ b, classAt m.classes first b ≠ some (.cont n i) := by
  simp only [contBlock, Option.map_eq_none_iff, List.find?_eq_none, decide_eq_true_eq, Prod.forall]
  constructor
  · intro h b hb; exact h b _ ((mem_blocks m first b _).mpr hb) rfl
  · rintro h b k hk rfl; exact h b ((mem_blocks m first b _).mp hk)

theorem chainFrom_spec (m : MountJob) (first n fuel seq : Nat) :
    (chainFrom (m.blocks first) n fuel seq).length ≤ fuel ∧
      (∀ i b, (chainFrom (m.blocks first) n fuel seq)[i]? = some b →
        classAt m.classes first b = some (.cont n (seq + i)) ∧
          ∀ k, classAt m.classes first k = some (.cont n (seq + i)) → b ≤ k) ∧
      ((chainFrom (m.blocks first) n fuel seq).length < fuel →
        ∀ b, classAt m.classes first b ≠ some (.cont n (seq + (chainFrom (m.blocks first) n fuel seq).length))) := by
  induction fuel generalizing seq with
  | zero => simp [chainFrom]
  | succ fuel ih =>
    unfold chainFrom
    cases h : contBlock (m.blocks first) n seq with
    | none => simpa using (contBlock_none m first n seq).mp h
    | some b =>
      obtain ⟨h1, h2, h3⟩ := ih (seq + 1)
      simp only
      refine ⟨by simp only [List.length_cons]; omega, ?_, ?_⟩
      · intro i b' hi
        cases i with
        | zero =>
          simp only [List.getElem?_cons_zero, Option.some.injEq] at hi
          subst hi; exact (contBlock_some m first n seq b).mp h
        | succ i =>
          have := h2 i b' (by simpa using hi)
          rwa [show seq + 1 + i = seq + (i + 1) by omega] at this
      · intro hlt b'
        simp only [List.length_cons] at hlt ⊢
        have := h3 (by omega) b'
        rwa [show seq + 1 + (chainFrom (m.blocks first) n fuel (seq + 1)).length =
          seq + ((chainFrom (m.blocks first) n fuel (seq + 1)).length + 1) by omega] at this

/-! ## Rooms evaluated, and kinds placed, one after another -/

theorem evaluateLamp_room (r r' : RoomIx) (z : State) :
    (evaluateLamp r z).room r' =
      if r' = r then lampEvaluated (z.classOf r).shutdownHold (z.room r) else z.room r' := by
  by_cases h : r' = r
  · subst h; simp [evaluateLamp, State.setRoom, State.room]
  · have h' : r.val ≠ r'.val := fun he => h (Fin.ext he.symm)
    simp [evaluateLamp, State.setRoom, State.room, h, Vector.getElem_set_ne, h']

/-- The rooms of a list without repeats evaluated in order (R25, R130). -/
theorem evaluateLamps_spec (l : List RoomIx) (hl : l.Nodup) (z : State) :
    let t := l.foldl (fun s r => evaluateLamp r s) z
    t = { z with rooms := t.rooms
                 lamps := { z.lamps with queue := z.lamps.queue ++ l.filter fun r =>
                   ((evaluateLamp r z).room r).lamp.queued && !(z.room r).lamp.queued } } ∧
      ∀ r, t.room r = if r ∈ l then (evaluateLamp r z).room r else z.room r := by
  induction l generalizing z with
  | nil => simp
  | cons a l ih =>
    rw [List.nodup_cons] at hl
    obtain ⟨h1, h2⟩ := ih hl.2 (evaluateLamp a z)
    have hne : ∀ r ∈ l, r ≠ a := fun r hr h => hl.1 (h ▸ hr)
    have hroom : ∀ r ∈ l, (evaluateLamp a z).room r = z.room r := fun r hr => by
      rw [evaluateLamp_room, if_neg (hne r hr)]
    have heval : ∀ r ∈ l, (evaluateLamp r (evaluateLamp a z)).room r = (evaluateLamp r z).room r := fun r hr => by
      simp only [evaluateLamp_room, if_true, State.classOf, hne r hr, if_false]
      congr 2
    simp only [List.foldl_cons]
    refine ⟨?_, fun r => ?_⟩
    · rw [h1]
      have hf : (l.filter fun r => ((evaluateLamp r (evaluateLamp a z)).room r).lamp.queued &&
          !((evaluateLamp a z).room r).lamp.queued) =
          l.filter fun r => ((evaluateLamp r z).room r).lamp.queued && !(z.room r).lamp.queued :=
        List.filter_congr fun r hr => by rw [heval r hr, hroom r hr]
      rw [hf]
      have hq : (evaluateLamp a z).lamps = { z.lamps with queue := z.lamps.queue ++
          if ((evaluateLamp a z).room a).lamp.queued && !(z.room a).lamp.queued then [a] else [] } := by
        rw [evaluateLamp_room, if_pos rfl]
        simp only [evaluateLamp]
        split <;> simp
      rw [hq]
      simp only [List.filter_cons]
      split <;> simp [evaluateLamp]
    · rw [h2]
      by_cases hr : r ∈ l
      · simp only [hr, if_true, List.mem_cons, or_true, heval r hr]
      · simp only [hr, if_false, List.mem_cons, or_false]
        by_cases ha : r = a
        · subst ha; simp
        · rw [evaluateLamp_room, if_neg ha, if_neg ha]

/-- Placing a kind, with an entry free should the set be empty (R184). -/
theorem place_placed {s : State} (h : s.attention = 0 → s.link.queue.length < 64) (k : Attention) :
    place k s = s.placed k := by
  by_cases h0 : s.attention = 0
  · exact place_eq_placed (h h0) k
  · by_cases hh : attentionHas s.attention k = true
    · rw [placed_of_has hh]; simp [place, hh]
    · simp only [place, hh, Bool.false_eq_true, if_false, h0, ne_eq, not_false_eq_true, if_true, State.placed, attentionJoin]

theorem attentionBit_ne (k : Attention) : attentionBit k ≠ 0 := by cases k <;> decide

theorem placed_attention_ne (s : State) (k : Attention) : (s.placed k).attention ≠ 0 := by
  intro h
  have : s.attention ||| attentionBit k = 0 := h
  have h2 : (s.attention ||| attentionBit k) &&& attentionBit k = attentionBit k := by
    ext i hi; simp; tauto
  rw [this] at h2
  exact attentionBit_ne k (by simpa using h2.symm)

/-- `s` with the kinds of a mask placed, at most one ATTENTION frame being brought (R184). -/
def State.joined (s : State) (a : BitVec 16) : State :=
  { s with attention := s.attention ||| a
           link := if a ≠ 0 ∧ s.attention = 0 then { s.link with queue := s.link.queue ++ [.attention] } else s.link }

theorem or_eq_zero {a b : BitVec 16} (h : a ||| b = 0) : a = 0 ∧ b = 0 := by
  constructor
  · ext i hi
    have := congrArg (fun v : BitVec 16 => v[i]) h
    simp at this; simp [this.1]
  · ext i hi
    have := congrArg (fun v : BitVec 16 => v[i]) h
    simp at this; simp [this.2]

theorem placeIf_joined {s : State} (h : s.attention = 0 → s.link.queue.length < 64) (p : Prop) [Decidable p]
    (k : Attention) : (if p then place k s else s) = s.joined (if p then attentionBit k else 0) := by
  split
  · rw [place_placed h]
    simp only [State.placed, State.joined, attentionBit_ne k, ne_eq, not_false_eq_true, true_and]
  · simp [State.joined]

theorem State.joined_joined (s : State) (a b : BitVec 16) : (s.joined a).joined b = s.joined (a ||| b) := by
  by_cases h : s.attention = 0
  · by_cases ha : a = 0
    · subst ha; simp [State.joined]
    · have hab : ¬a ||| b = 0 := fun hc => ha (or_eq_zero hc).1
      simp only [State.joined, h, ha, hab, ne_eq, not_false_eq_true, if_true, BitVec.or_assoc, and_self]
      rw [if_neg fun hc => ha (by simpa using hc.2)]
  · have : ∀ c, ¬s.attention ||| c = 0 := fun c hc => h (or_eq_zero hc).1
    simp only [State.joined, h, this, and_false, if_false, BitVec.or_assoc]

theorem State.joined_free {s : State} (h : s.attention = 0 → s.link.queue.length < 64) (a : BitVec 16) :
    (s.joined a).attention = 0 → (s.joined a).link.queue.length < 64 := by
  intro h0
  obtain ⟨h1, h2⟩ := or_eq_zero (show s.attention ||| a = 0 from h0)
  simpa [State.joined, h2] using h h1

/-! ## The end of the mount (R121) -/

/-- What a mailbox and the counts of room `r` become as messages are entered. -/
theorem enterMailboxes_spec (l : List Message) (z : State) :
    let enters (x : Room) (m : Message) : Room :=
      { x with mailbox := serialInsert m.serial x.mailbox
               newCount := x.newCount + (if m.state = .new then 1 else 0)
               urgentCount := x.urgentCount + (if m.state = .new ∧ m.urgent = true then 1 else 0) }
    let t := enterMailboxes l z
    t = { z with rooms := t.rooms } ∧ ∀ r, t.room r = (l.filter (·.room = r)).foldl enters (z.room r) := by
  induction l generalizing z with
  | nil => simp [enterMailboxes]
  | cons m l ih =>
    have hs : enterMailboxes (m :: l) z =
        enterMailboxes l (z.updRoom m.room (messageEntered m.serial (m.state = .new) m.urgent)) := rfl
    rw [hs]
    obtain ⟨h1, h2⟩ := ih (z.updRoom m.room (messageEntered m.serial (m.state = .new) m.urgent))
    refine ⟨h1, fun r => ?_⟩
    refine (h2 r).trans ?_
    have he : messageEntered m.serial (m.state = .new) m.urgent (z.room m.room) =
        { z.room m.room with
          mailbox := serialInsert m.serial (z.room m.room).mailbox
          newCount := (z.room m.room).newCount + (if m.state = .new then 1 else 0)
          urgentCount := (z.room m.room).urgentCount + (if m.state = .new ∧ m.urgent = true then 1 else 0) } := by
      unfold messageEntered
      by_cases h : m.state = .new <;> cases m.urgent <;> simp [h]
    by_cases hr : m.room = r
    · subst hr
      simp only [List.filter_cons, decide_true, if_true, List.foldl_cons]
      congr 1
      rw [← he]; simp [State.updRoom, State.setRoom, State.room]
    · have hr' : m.room.val ≠ r.val := fun h => hr (Fin.ext h)
      simp only [List.filter_cons, hr, decide_false, Bool.false_eq_true, if_false]
      congr 1
      simp [State.updRoom, State.setRoom, State.room, Vector.getElem_set_ne, hr']

/-- The end of the mount (R120, R121), with an entry free should the attention set be empty. -/
theorem mountEnd_spec (m : MountJob) {z : State} (hq : z.attention = 0 → z.link.queue.length < 64) :
    MountEnded m.classes m.found z (mountEnd m z) := by
  obtain ⟨c1, c2⟩ := candidates_spec m.found
  let first := z.store.promptBlocks
  let chain (n : Nat) : List Nat := chainFrom (m.blocks first) n 319 1
  have hchain : ∀ h : MountHead, h.block :: chain h.info.serial = chainOf (m.blocks first) h := fun _ => rfl
  refine ⟨candidates m.found, chain, c1, c2, ?_, ?_⟩
  · intro n
    obtain ⟨h1, h2, h3⟩ := chainFrom_spec m first n 319 1
    refine ⟨h1, fun i b hi => ?_, fun hlt b => ?_⟩
    · have := h2 i b hi; rwa [Nat.add_comm 1 i] at this
    · have := h3 hlt b; rwa [Nat.add_comm 1] at this
  intro messages enters mine joins
  have hmsgs : ((candidates m.found).take Config.maxMessages).map (mountedMessage (m.blocks first)) = messages := rfl
  let used := messages.flatMap fun x => x.blocks.map (·.block)
  let z1 := enterMailboxes messages z
  let z2 := if Config.maxMessages < (candidates m.found).length then place .dirFull z1 else z1
  let l := m.blocks first
  let z3 : State :=
    { z2 with store := { z2.store with
        messages := messages, nextSerial := serialAfter l, free := (l.filter (·.2 = .free)).map (·.1),
        dirty := (l.filter fun x => decide (x.2 ≠ .free) && !used.contains x.1).map (·.1), bad := [], marks := [],
        erasing := none, mounted := true, job := .none } }
  let z4 := storeLowTest z3
  let rooms := (List.finRange 2048).filter fun r => messages.any (·.room = r)
  let z5 := rooms.foldl (fun s r => evaluateLamp r s) z4
  have hend : mountEnd m z = { place .mountDone z5 with service := .setup } := rfl
  obtain ⟨e1, e2⟩ := enterMailboxes_spec messages z
  obtain ⟨r1, r2⟩ := evaluateLamps_spec rooms ((List.nodup_finRange _).filter _) z4
  change z1 = _ at e1
  change ∀ r, z1.room r = _ at e2
  change z5 = _ at r1
  change ∀ r, z5.room r = _ at r2
  have hrooms : rooms = (List.finRange 2048).filter fun r => messages.any (·.room = r) := rfl
  have hz5r : z5.rooms = z5.rooms := rfl
  clear_value z5 rooms
  have hlink1 : z1.link = z.link := by rw [e1]
  have hatt1 : z1.attention = z.attention := by rw [e1]
  have hz2 : z2 = z1.joined (if Config.maxMessages < (candidates m.found).length then attentionBit .dirFull else 0) :=
    placeIf_joined (by rw [hlink1, hatt1]; exact hq) _ _
  have hz4 : z4 = z3.joined (if z3.store.low then attentionBit .storeLow else 0) := by
    have : z4 = if z3.store.low then place .storeLow z3 else z3 := by
      show storeLowTest z3 = _
      simp only [storeLowTest, Store.low]
      congr 3
    rw [this]
    refine placeIf_joined (s := z3) ?_ _ _
    have : z3.attention = 0 → z3.link.queue.length < 64 := by
      show z2.attention = 0 → z2.link.queue.length < 64
      rw [hz2]; exact State.joined_free (by rw [hlink1, hatt1]; exact hq) _
    exact this
  have hs4 : z4.store = z3.store := by rw [hz4]; rfl
  have hr4 : z4.rooms = z1.rooms := by rw [hz4]; show z2.rooms = _; rw [hz2]; rfl
  have hl4 : z4.lamps = z.lamps := by rw [hz4]; show z2.lamps = _; rw [hz2]; show z1.lamps = _; rw [e1]
  obtain ⟨d, hd⟩ : ∃ d, d = if Config.maxMessages < (candidates m.found).length then attentionBit .dirFull else 0 := ⟨_, rfl⟩
  obtain ⟨bits, hbits⟩ : ∃ b, b = if z3.store.low then attentionBit .storeLow else 0 := ⟨_, rfl⟩
  rw [← hd] at hz2
  rw [← hbits] at hz4
  have hz3 : z3 = { z2 with store := z3.store } := rfl
  have hS : z3.store = { z.store with
        messages := messages, nextSerial := serialAfter l, free := (l.filter (·.2 = .free)).map (·.1),
        dirty := (l.filter fun x => decide (x.2 ≠ .free) && !used.contains x.1).map (·.1), bad := [], marks := [],
        erasing := none, mounted := true, job := .none } := by
    show ({ z2.store with
        messages := messages, nextSerial := serialAfter l, free := (l.filter (·.2 = .free)).map (·.1),
        dirty := (l.filter fun x => decide (x.2 ≠ .free) && !used.contains x.1).map (·.1), bad := [], marks := [],
        erasing := none, mounted := true, job := .none } : Store) = _
    have : z2.store = z.store := by rw [hz2]; show z1.store = _; rw [e1]
    rw [this]
  clear_value z4 z3 z2
  have hz4' : z4 = ({ z with rooms := z1.rooms, store := z3.store } : State).joined (d ||| bits) := by
    rw [hz4, hz3, hz2]
    obtain ⟨R, hR⟩ : ∃ R, z1 = { z with rooms := R } := ⟨_, e1⟩
    rw [← State.joined_joined, hR]; rfl
  have hplace : place .mountDone z5 = z5.joined (attentionBit .mountDone) := by
    have := placeIf_joined (s := z5) (by
      rw [r1, hz4']
      exact State.joined_free
        (show ({ z with rooms := z1.rooms, store := z3.store } : State).attention = 0 → _ from hq) _) True .mountDone
    simpa using this
  have hz5 : z5.joined (attentionBit .mountDone) =
      ({ z with rooms := z5.rooms, lamps := z5.lamps, store := z3.store } : State).joined
        (d ||| bits ||| attentionBit .mountDone) := by
    rw [← State.joined_joined]
    have : z5 = { z4 with rooms := z5.rooms, lamps := z5.lamps } := by
      obtain ⟨R, L, hRL⟩ : ∃ R L, z5 = { z4 with rooms := R, lamps := L } := ⟨_, _, r1⟩
      rw [hRL]
    rw [this, hz4']; rfl
  have hne : ¬(d ||| bits ||| attentionBit .mountDone) = 0 := fun h => attentionBit_ne _ (or_eq_zero h).2
  have hF : mountEnd m z = { z with
        rooms := z5.rooms, lamps := z5.lamps, store := z3.store, service := .setup
        attention := z.attention ||| (d ||| bits ||| attentionBit .mountDone)
        link := if (d ||| bits ||| attentionBit .mountDone) ≠ 0 ∧ z.attention = 0 then
          { z.link with queue := z.link.queue ++ [.attention] } else z.link } := by
    rw [hend, hplace, hz5]; rfl
  let E (r : RoomIx) : Room := (mine r).foldl enters (z.room r)
  have hE : ∀ r, z4.room r = E r := fun r => by simp only [State.room, hr4]; exact e2 r
  have hmine : ∀ r, r ∈ rooms ↔ mine r ≠ [] := by
    intro r
    simp only [hrooms, List.mem_filter, List.mem_finRange, true_and, List.any_eq_true, decide_eq_true_eq, mine, ne_eq,
      List.filter_eq_nil_iff, not_forall, not_not, exists_prop]
  have hlamp : ∀ r, (E r).lamp = (z.room r).lamp := by
    intro r
    have : ∀ (l : List Message) (x : Room), (l.foldl enters x).lamp = x.lamp := by
      intro l; induction l with
      | nil => intro x; rfl
      | cons a l ih => intro x; rw [List.foldl_cons, ih]
    exact this _ _
  have heval : ∀ r, (evaluateLamp r z4).room r = (evaluateLamp r (z.setRoom r (E r))).room r := by
    intro r
    have h1 : (z.setRoom r (E r)).room r = E r := by simp [State.setRoom, State.room]
    have h2 : z4.classes = z.classes := by rw [hz4']; rfl
    simp only [evaluateLamp_room, if_true, State.classOf, h1, hE, h2]
    rfl
  have hz5room : ∀ r, z5.room r =
      if mine r = [] then z.room r else (evaluateLamp r (z.setRoom r (E r))).room r := by
    intro r
    rw [r2]
    by_cases hm : mine r = []
    · rw [if_neg (fun h => (hmine r).mp h hm), if_pos hm, hE]; simp only [E, hm, List.foldl_nil]
    · rw [if_pos ((hmine r).mpr hm), if_neg hm, heval]
  let joined (r : RoomIx) : Bool := decide (mine r ≠ []) && (z5.room r).lamp.queued && !(z.room r).lamp.queued
  have hq5 : z5.lamps = { z.lamps with queue := z.lamps.queue ++ (List.finRange 2048).filter joined } := by
    have h5 : z5.lamps = { z4.lamps with queue := z4.lamps.queue ++ rooms.filter fun r =>
        ((evaluateLamp r z4).room r).lamp.queued && !(z4.room r).lamp.queued } := congrArg State.lamps r1
    have hfil : (List.finRange 2048).filter joined = rooms.filter fun r =>
        ((evaluateLamp r z4).room r).lamp.queued && !(z4.room r).lamp.queued := by
      rw [hrooms, List.filter_filter]
      refine List.filter_congr fun r _ => ?_
      have hiff : messages.any (fun m => decide (m.room = r)) = decide (mine r ≠ []) := by
        have := hmine r
        rw [hrooms] at this
        simp only [List.mem_filter, List.mem_finRange, true_and] at this
        rw [Bool.eq_iff_iff, this]; simp
      rw [hiff, hE, hlamp]
      by_cases hm : mine r = []
      · simp [joined, hm]
      · simp only [joined, hz5room, heval, hm, if_false, ne_eq, not_false_eq_true, decide_true, Bool.and_true,
          Bool.true_and]
    rw [hfil, h5, hl4]
  have hfree : ∀ b, b ∈ (l.filter (·.2 = .free)).map (·.1) ↔ classAt m.classes first b = some .free := by
    intro b
    rw [← mem_blocks]
    simp only [List.mem_map, List.mem_filter, decide_eq_true_eq, Prod.exists, exists_and_right, exists_eq_right]
    rfl
  have hdirty : ∀ b, b ∈ (l.filter fun x => decide (x.2 ≠ .free) && !used.contains x.1).map (·.1) ↔
      (∃ k, classAt m.classes first b = some k ∧ k ≠ .free) ∧ ∀ x ∈ messages, ∀ e ∈ x.blocks, e.block ≠ b := by
    intro b
    have hu : (!used.contains b) = true ↔ ∀ x ∈ messages, ∀ e ∈ x.blocks, e.block ≠ b := by
      simp only [used, Bool.not_eq_true', List.contains_eq_mem, decide_eq_false_iff_not, List.mem_flatMap, List.mem_map,
        not_exists, not_and, ne_eq]
    simp only [List.mem_map, List.mem_filter, Bool.and_eq_true, decide_eq_true_eq, Prod.exists, exists_and_right,
      exists_eq_right, hu, ← mem_blocks]
    constructor
    · rintro ⟨k, h, hk, hb⟩; exact ⟨⟨k, h, hk⟩, hb⟩
    · rintro ⟨⟨k, h, hk⟩, hb⟩; exact ⟨k, h, hk, hb⟩
  have hsorted : ∀ p : Nat × BlockClass → Bool, ((l.filter p).map (·.1)).Pairwise (· < ·) := fun p => by
    rw [List.pairwise_map]; exact (blocks_pairwise m first).sublist List.filter_sublist
  have hserials : l.filterMap (·.2.serial) = m.classes.filterMap BlockClass.serial := by
    simp only [l, MountJob.blocks, List.filterMap_map]
    rw [show m.classes.filterMap BlockClass.serial = (m.classes.zipIdx.map Prod.fst).filterMap BlockClass.serial by simp]
    rw [List.filterMap_map]; rfl
  have hser : ∀ k : BlockClass,
      (match k with | .head h => some h.serial | .cont n _ => some n | .free | .dirty => none) = k.serial := by
    intro k; cases k <;> rfl
  have hlinkif : (if (d ||| bits ||| attentionBit .mountDone) ≠ 0 ∧ z.attention = 0 then
      { z.link with queue := z.link.queue ++ [.attention] } else z.link) =
      if z.attention = 0 then { z.link with queue := z.link.queue ++ [.attention] } else z.link := by
    simp only [ne_eq, hne, not_false_eq_true, true_and]
  refine ⟨?_, ?_, ?_, ?_, ?_, ?_, ?_, ?_, fun r => ?_⟩
  · have hj : joins = joined := by
      funext r; simp only [joins, joined, hF]; rfl
    rw [hj, hF, hlinkif, hq5, hS]
  · rw [hF]; simp only [BitVec.or_assoc, hd, hbits]; rfl
  · intro h
    rw [hF]; show z3.store.nextSerial = 1
    have h' : l.filterMap (·.2.serial) = [] := by rw [hserials]; exact h
    rw [hS]; simp only [serialAfter, h']; rfl
  · intro n hn hmax
    rw [hF]; show z3.store.nextSerial = min (n + 1) 4294967295
    have hm : (l.filterMap (·.2.serial)).max? = some n := by
      rw [hserials, List.max?_eq_some_iff]
      exact ⟨hn, hmax⟩
    rw [hS]; simp only [serialAfter, hm]; rfl
  · rw [hF]; show z3.store.free.Pairwise _; rw [hS]; exact hsorted _
  · intro b; rw [hF]; show b ∈ z3.store.free ↔ _; rw [hS]; exact hfree b
  · rw [hF]; show z3.store.dirty.Pairwise _; rw [hS]; exact hsorted _
  · intro b; rw [hF]; show b ∈ z3.store.dirty ↔ _; rw [hS]; exact hdirty b
  · rw [hF]; exact hz5room r

end Sys2Proof.Machine
end

