-- ==== Sys2Proof/Laws/Checkouts.lean ====
section
/-! SUPPORT. Delete paths and close requests made one after another, as CHECK_OUT, DELETE_MESSAGES and SUSPEND make them
(R29, R39, R65, R182), in the terms of Safety.lean. -/

namespace Sys2Proof.Machine

/-! ## Frames -/

theorem State.lowTested_frame (s : State) :
    s.lowTested = { s with attention := s.lowTested.attention, link := s.lowTested.link } := by
  unfold State.lowTested; split <;> rfl

theorem State.lowTested_holder (s : State) : s.lowTested.link.holder = s.link.holder := by
  unfold State.lowTested State.placed
  by_cases h : s.store.low
  · simp only [if_pos h]; split <;> rfl
  · simp only [if_neg h]

theorem State.deletes_frame (n : Nat) (s : State) :
    s.deletes n = { s with rooms := (s.deletes n).rooms, store := (s.deletes n).store
                           attention := (s.deletes n).attention, link := (s.deletes n).link } := by
  unfold State.deletes
  split
  · rfl
  · split
    · rfl
    · simp only
      split
      · generalize hz : ({ s with rooms := _, store := _ } : State) = z
        rw [State.lowTested_frame z, ← hz]
      · rfl

/-- Every message record keeps its mark pages' blankness, and no record is new. -/
def MarksKept (s t : State) : Prop :=
  ∀ m ∈ t.store.messages, ∃ m' ∈ s.store.messages, m.blank14 = m'.blank14 ∧ m.blank15 = m'.blank15

theorem MarksKept.blank {s t : State} (h : MarksKept s t) (hb : s.marksBlank) : t.marksBlank := by
  intro m hm
  obtain ⟨m', hm', h1, h2⟩ := h m hm
  rw [h1, h2]; exact hb m' hm'

theorem State.deletes_marks (n : Nat) (s : State) : MarksKept s (s.deletes n) := by
  unfold State.deletes
  split
  · exact fun m hm => ⟨m, hm, rfl, rfl⟩
  · rename_i m0 _
    split
    · exact fun m hm => ⟨m, hm, rfl, rfl⟩
    · have hd : ∀ z : State, z.store = s.store.deleted n (s.programming n) → MarksKept s z := by
        intro z hz m hm
        rw [hz] at hm
        unfold Store.deleted at hm
        split at hm
        · exact ⟨m, hm, rfl, rfl⟩
        · split at hm
          · exact ⟨m, hm, rfl, rfl⟩
          · simp only at hm
            split at hm
            · exact ⟨m, (List.mem_filter.mp hm).1, rfl, rfl⟩
            · obtain ⟨m', hm', rfl⟩ := List.mem_map.mp hm
              refine ⟨m', hm', ?_⟩
              split <;> exact ⟨rfl, rfl⟩
      simp only
      split
      · exact hd _ (State.lowTested_store _)
      · exact hd _ rfl

/-- Room for one ATTENTION frame, should one be brought, beside `k` others. -/
def State.roomFor (s : State) (k : Nat) : Prop :=
  s.link.queue.length + k < 64 ∧ (s.attention = 0 → s.link.queue.length + k < 63)

theorem State.roomFor.placed {s : State} {k : Nat} (h : s.roomFor k) (a : Attention) : (s.placed a).roomFor k := by
  have hne := placed_attention_ne s a
  refine ⟨?_, fun h0 => absurd h0 hne⟩
  simp only [State.placed]
  split
  · rename_i h0
    have := h.2 h0
    simp only [List.length_append, List.length_singleton]; omega
  · exact h.1

theorem State.roomFor.lowTested {s : State} {k : Nat} (h : s.roomFor k) : s.lowTested.roomFor k := by
  unfold State.lowTested; split
  · exact h.placed _
  · exact h

theorem State.deletes_roomFor {s : State} {k : Nat} (h : s.roomFor k) (n : Nat) : (s.deletes n).roomFor k := by
  unfold State.deletes
  split
  · exact h
  · split
    · exact h
    · simp only
      split
      · exact State.roomFor.lowTested (s := { s with rooms := _, store := _ }) h
      · exact h

/-- Delete paths made one after another. -/
theorem deletePaths_eq {s : State} {k : Nat} (hb : s.marksBlank) (hq : s.roomFor k) (l : List Nat) :
    l.foldl (fun z n => deletePath n z) s = l.foldl (fun z n => z.deletes n) s ∧
      (l.foldl (fun z n => z.deletes n) s).marksBlank ∧ (l.foldl (fun z n => z.deletes n) s).roomFor k := by
  induction l generalizing s with
  | nil => exact ⟨rfl, hb, hq⟩
  | cons n l ih =>
    simp only [List.foldl_cons]
    rw [deletePath_eq hb (by have := hq.1; omega)]
    exact ih ((State.deletes_marks n s).blank hb) (State.deletes_roomFor hq n)

theorem deletes_frame_fold (l : List Nat) (s : State) :
    let t := l.foldl (fun z n => z.deletes n) s
    t = { s with rooms := t.rooms, store := t.store, attention := t.attention, link := t.link } ∧
      t.store.prompts = s.store.prompts ∧ t.link.holder = s.link.holder := by
  induction l generalizing s with
  | nil => exact ⟨rfl, rfl, rfl⟩
  | cons n l ih =>
    simp only [List.foldl_cons]
    obtain ⟨h1, h2, h3⟩ := ih (s.deletes n)
    refine ⟨?_, h2.trans (State.deletes_prompts n s), h3.trans ?_⟩
    · obtain ⟨R, S, A, L, hd⟩ : ∃ R S A L, s.deletes n = { s with rooms := R, store := S, attention := A, link := L } :=
        ⟨_, _, _, _, State.deletes_frame n s⟩
      rw [hd] at h1 ⊢
      exact h1
    · unfold State.deletes
      split
      · rfl
      · split
        · rfl
        · simp only
          split
          · rw [State.lowTested_holder]
          · rfl

/-! ## What the delete path of one message does -/

theorem find?_filter_ne (l : List Message) (n k : Nat) :
    (l.filter (·.serial ≠ n)).find? (fun m => decide (m.serial = k)) =
      if k = n then none else l.find? fun m => decide (m.serial = k) := by
  rw [List.find?_filter]
  by_cases h : k = n
  · subst h; rw [if_pos rfl, List.find?_eq_none]; intro x _; simp
  · rw [if_neg h]
    congr 1
    funext x
    by_cases hx : x.serial = k
    · simp [hx, h]
    · simp [hx]

theorem find?_map_serial (l : List Message) (n k : Nat) (f : Message → Message) (hf : ∀ m, (f m).serial = m.serial) :
    (l.map fun m => if m.serial = n then f m else m).find? (fun m => decide (m.serial = k)) =
      if k = n then (l.find? fun m => decide (m.serial = k)).map f else l.find? fun m => decide (m.serial = k) :=
  State.message_updMessage { State.reset with store := { Store.reset with messages := l } } k n f hf

theorem State.deletes_message {s : State} {n : Nat} {m : Message} (h : s.message n = some m) (hd : m.state ≠ .deleting)
    (k : Nat) : (s.deletes n).message k =
      if k = n then
        if m.blocks.all (·.valid = 0) then none
        else some { m with state := .deleting
                           deletedPending := m.deletedPending ||
                             (decide (m.readers = 0 ∧ m.deletedPending = false) && !s.programming n) }
      else s.message k := by
  have hf : s.store.messages.find? (fun x => decide (x.serial = n)) = some m := h
  have key : ∀ z : State, z.store = s.store.deleted n (s.programming n) → z.message k =
      if k = n then
        if m.blocks.all (·.valid = 0) then none
        else some { m with state := .deleting
                           deletedPending := m.deletedPending ||
                             (decide (m.readers = 0 ∧ m.deletedPending = false) && !s.programming n) }
      else s.message k := by
    intro z hz
    simp only [State.message, hz, Store.deleted, hf, if_neg hd]
    split
    · simp only [find?_filter_ne]
    · rw [find?_map_serial _ _ _ _ (by simp)]
      split
      · rename_i hk; subst hk; rw [hf]; rfl
      · rfl
  unfold State.deletes
  simp only [h, if_neg hd]
  split
  · rename_i hall
    rw [key _ (by simp only [State.lowTested_store]), if_pos hall]
  · rename_i hall
    rw [key _ rfl, if_neg hall]

theorem State.deletes_room {s : State} {n : Nat} {m : Message} (h : s.message n = some m)
    (hn : m.state = .new ∨ m.state = .heard) (r : RoomIx) :
    (s.deletes n).room r = if r = m.room then (s.room r).without m else s.room r := by
  have hd : m.state ≠ .deleting := by rcases hn with h | h <;> simp [h]
  have hr : m.state ≠ .recording := by rcases hn with h | h <;> simp [h]
  have key : ∀ z : State, z.rooms = s.rooms.set m.room ((s.room m.room).without m) → z.room r =
      if r = m.room then (s.room r).without m else s.room r := by
    intro z hz
    by_cases hm : r = m.room
    · subst hm; simp [State.room, hz]
    · have : m.room.val ≠ r.val := fun he => hm (Fin.ext he.symm)
      simp [State.room, hz, hm, Vector.getElem_set_ne, this]
  unfold State.deletes
  simp only [h, if_neg hd, if_neg hr]
  split
  · exact key _ (by rw [State.lowTested_frame])
  · exact key _ rfl

/-- A mailbox of NEW and HEARD messages of its room, none twice, is emptied with its counts. -/
theorem State.emptied_spec {r : RoomIx} {s : State} (hu : (s.room r).mailbox.Nodup)
    (hm : ∀ n ∈ (s.room r).mailbox, ∃ m, s.message n = some m ∧ m.room = r ∧ (m.state = .new ∨ m.state = .heard)) :
    Emptied r s (s.emptied r) := by
  have key : ∀ (l : List Nat) (z : State), l.Nodup →
      (∀ n ∈ l, z.message n = s.message n) →
      (∀ n ∈ l, ∃ m, s.message n = some m ∧ m.room = r ∧ (m.state = .new ∨ m.state = .heard)) →
      let t := l.foldl (fun z n => z.deletes n) z
      (t.room r).mailbox = (z.room r).mailbox.filter (· ∉ l) ∧
      (t.room r).newCount = (z.room r).newCount - l.countP (fun n => (s.message n).any fun m => m.state = .new) ∧
      (t.room r).urgentCount = (z.room r).urgentCount -
        l.countP (fun n => (s.message n).any fun m => m.state = .new ∧ m.urgent = true) ∧
      (∀ n ∈ l, ∀ m, t.message n = some m → m.state = .deleting) ∧ ∀ n, n ∉ l → t.message n = z.message n := by
    intro l
    induction l with
    | nil => intro z; simp
    | cons a l ih =>
      intro z hl hz hms
      rw [List.nodup_cons] at hl
      obtain ⟨m, hma, hmr, hst⟩ := hms a (by simp)
      have hza : z.message a = some m := (hz a (by simp)).trans hma
      have hser : m.serial = a := State.message_serial hza
      have hnd : m.state ≠ .deleting := by rcases hst with h | h <;> simp [h]
      have hroom : (z.deletes a).room r = (z.room r).without m := by
        rw [State.deletes_room hza hst, if_pos hmr.symm]
      have hmsg := State.deletes_message hza hnd
      obtain ⟨h1, h2, h3, h4, h5⟩ := ih (z.deletes a) hl.2
        (fun n hn => by
          have hne : n ≠ a := fun h => hl.1 (h ▸ hn)
          rw [hmsg, if_neg hne]; exact hz n (by simp [hn]))
        (fun n hn => hms n (by simp [hn]))
      simp only [List.foldl_cons]
      refine ⟨?_, ?_, ?_, ?_, ?_⟩
      · rw [h1, hroom]
        simp only [Room.without, hser, List.filter_filter, List.mem_cons, not_or]
        refine List.filter_congr fun x _ => ?_
        by_cases hx : x = a <;> by_cases hxl : x ∈ l <;> simp [hx, hxl]
      · rw [h2, hroom]
        simp only [Room.without, List.countP_cons, hma, Option.any_some, decide_eq_true_eq]
        split <;> omega
      · rw [h3, hroom]
        simp only [Room.without, List.countP_cons, hma, Option.any_some, decide_eq_true_eq]
        split <;> omega
      · intro n hn m' hm'
        rcases List.mem_cons.mp hn with rfl | hn
        · rw [h5 n hl.1, hmsg, if_pos rfl] at hm'
          split at hm'
          · cases hm'
          · cases hm'; rfl
        · exact h4 n hn m' hm'
      · intro n hn
        simp only [List.mem_cons, not_or] at hn
        rw [h5 n hn.2, hmsg, if_neg hn.1]
  obtain ⟨h1, h2, h3, h4, -⟩ := key _ s hu (fun _ _ => rfl) hm
  refine ⟨?_, h2, h3, h4⟩
  show ((s.emptied r).room r).mailbox = []
  refine h1.trans ?_
  simp

/-! ## Close requests one after another -/

theorem State.closes_other (c c' : ChannelIx) (h : c' ≠ c) (z : State) :
    (z.closes c).chan c' = z.chan c' ∧ (z.closes c).ring c' = z.ring c' := by
  have h' : c.val ≠ c'.val := fun he => h (Fin.ext he.symm)
  unfold State.closes
  split <;> simp [State.starts, State.withChan, State.leaves, State.endsRecording, State.chan, State.ring,
    Vector.getElem_set_ne, h']

theorem Channel.leaves_messages (x : Channel) (busy : Nat → Bool) (t : Store) :
    ∀ m ∈ (x.leaves busy t).messages, ∃ m' ∈ t.messages, m.blank14 = m'.blank14 ∧ m.blank15 = m'.blank15 := by
  unfold Channel.leaves Store.readerLeft
  intro m hm
  split at hm
  · split at hm
    · exact ⟨m, hm, rfl, rfl⟩
    · obtain ⟨m', hm', rfl⟩ := List.mem_map.mp hm
      refine ⟨m', hm', ?_⟩
      split <;> exact ⟨rfl, rfl⟩
  · exact ⟨m, hm, rfl, rfl⟩

/-- A close request changes its channel, ring, encoder and decoder, and the reader counts and marks of the store. -/
theorem State.closes_frame (c : ChannelIx) (z : State) :
    z.closes c = { z with channels := (z.closes c).channels, rings := (z.closes c).rings, coder := (z.closes c).coder
                          store := (z.closes c).store } ∧
      (z.closes c).store.prompts = z.store.prompts ∧ MarksKept z (z.closes c) := by
  have hk : ∀ t : State, t.store = z.store → MarksKept z t := fun t ht m hm => ⟨m, ht ▸ hm, rfl, rfl⟩
  unfold State.closes
  split
  · exact ⟨rfl, rfl, hk _ rfl⟩
  · exact ⟨rfl, Channel.leaves_prompts _ _ _, Channel.leaves_messages _ _ _⟩
  · exact ⟨rfl, Channel.leaves_prompts _ _ _, Channel.leaves_messages _ _ _⟩
  · exact ⟨rfl, Channel.leaves_prompts _ _ _, Channel.leaves_messages _ _ _⟩
  · exact ⟨rfl, rfl, hk _ rfl⟩
  · exact ⟨rfl, rfl, hk _ rfl⟩
  · exact ⟨rfl, rfl, hk _ rfl⟩
  · exact ⟨rfl, rfl, hk _ rfl⟩

/-- Close requests to channels without repeats, each of a recording with two programs outstanding and pages in its ring. -/
theorem closeRequests_eq {s : State} (hp : s.prompted) (hb : s.marksBlank) (l : List ChannelIx) (hl : l.Nodup)
    (hr : ∀ c ∈ l, (s.chan c).state = .record → 2 ≤ (s.ring c).outPrograms ∧ (s.ring c).recorded ≠ []) :
    l.foldl (fun z c => closeRequest c z) s = l.foldl (fun z c => z.closes c) s := by
  induction l generalizing s with
  | nil => rfl
  | cons c l ih =>
    rw [List.nodup_cons] at hl
    simp only [List.foldl_cons]
    rw [closeRequest_eq hp hb (hr c (by simp))]
    obtain ⟨-, h2, h3⟩ := State.closes_frame c s
    refine ih (fun id => by rw [h2]; exact hp id) (h3.blank hb) hl.2 fun c' hc' => ?_
    have hne : c' ≠ c := fun h => hl.1 (h ▸ hc')
    rw [(State.closes_other c c' hne s).1, (State.closes_other c c' hne s).2]
    exact hr c' (by simp [hc'])

theorem closes_frame_fold (l : List ChannelIx) (z : State) :
    let t := l.foldl (fun z c => z.closes c) z
    t = { z with channels := t.channels, rings := t.rings, coder := t.coder, store := t.store } := by
  induction l generalizing z with
  | nil => rfl
  | cons c l ih =>
    simp only [List.foldl_cons]
    obtain ⟨C, R, K, S, hd⟩ : ∃ C R K S, z.closes c = { z with channels := C, rings := R, coder := K, store := S } :=
      ⟨_, _, _, _, (State.closes_frame c z).1⟩
    have := ih (z.closes c)
    rw [hd] at this ⊢
    exact this

/-! ## The link stands apart -/

/-- The drain changes the service state alone, and reads nothing of the link. -/
theorem State.drains_link (s : State) (l : Link) : State.drains { s with link := l } = { s.drains with link := l } := by
  rw [← drainTest_eq, ← drainTest_eq]
  have hd : State.drained { s with link := l } = s.drained := rfl
  simp only [drainTest, hd]
  split <;> rfl

theorem State.closes_link (c : ChannelIx) (z : State) (l : Link) :
    State.closes c { z with link := l } = { z.closes c with link := l } := by
  have hc : State.chan { z with link := l } c = z.chan c := rfl
  simp only [State.closes, hc]
  cases (z.chan c).state <;> rfl

theorem State.closes_link_fold (cs : List ChannelIx) (z : State) (l : Link) :
    cs.foldl (fun z c => z.closes c) { z with link := l } = { cs.foldl (fun z c => z.closes c) z with link := l } := by
  induction cs generalizing z with
  | nil => rfl
  | cons c cs ih => simp only [List.foldl_cons, State.closes_link, ih]

/-- `s` with another command holder. -/
def State.withHolder (s : State) (h : Option Held) : State := { s with link := { s.link with holder := h } }

theorem State.lowTested_withHolder (s : State) (h : Option Held) : (s.withHolder h).lowTested = s.lowTested.withHolder h := by
  have hl : (s.withHolder h).store = s.store := rfl
  unfold State.lowTested
  rw [hl]
  split
  · unfold State.placed
    have : (s.withHolder h).attention = s.attention := rfl
    simp only [this]
    by_cases h0 : s.attention = 0
    · simp only [if_pos h0]; rfl
    · simp only [if_neg h0]; rfl
  · rfl

theorem State.deletes_holder (n : Nat) (s : State) (h : Option Held) :
    (s.withHolder h).deletes n = (s.deletes n).withHolder h := by
  have hm : (s.withHolder h).message n = s.message n := rfl
  unfold State.deletes
  rw [hm]
  cases s.message n with
  | none => rfl
  | some m =>
    simp only
    by_cases hd : m.state = .deleting
    · simp only [if_pos hd]
    · simp only [if_neg hd]
      split
      · rw [← State.lowTested_withHolder]; rfl
      · rfl

theorem State.deletes_holder_fold (l : List Nat) (s : State) (h : Option Held) :
    l.foldl (fun z n => z.deletes n) (s.withHolder h) = (l.foldl (fun z n => z.deletes n) s).withHolder h := by
  induction l generalizing s with
  | nil => rfl
  | cons n l ih => simp only [List.foldl_cons, State.deletes_holder, ih]

end Sys2Proof.Machine
end

