-- ==== Sys2Proof/Laws/Offers.lean ====
section
/-! SUPPORT. What is offered to the outbound queue and placed in the attention set: the denial steps, the appends to the charge
queue and the play lists in the terms of Safety.lean, and the link, which no command's work changes while the queue is full. -/

namespace Sys2Proof.Machine

/-! ## Denials, charge records and play lists -/

/-- The denial steps are `State.denied` (R147, R15). -/
theorem deny_eq (t : TrunkIx) (r : RoomIx) (why : Denial) (s : State) : deny t r why s = s.denied t r why := by
  rw [deny, offerNotice_eq]; rfl

/-- An append to the charge queue is `State.bills` (R164). -/
theorem appendCharge_eq {s : State} (h : 223 ≤ s.charges.length → s.attention = 0 → s.link.queue.length < 64)
    (c : ChargeRecord) : appendCharge c s = s.bills c := by
  by_cases h1 : 224 ≤ ({ s with charges := s.charges ++ [c] } : State).charges.length
  · have h2 : 223 ≤ s.charges.length := by
      have : s.charges.length + 1 = ({ s with charges := s.charges ++ [c] } : State).charges.length := by simp
      omega
    unfold appendCharge State.bills
    rw [if_pos h1]
    exact (if_pos h1).trans (place_placed (s := { s with charges := s.charges ++ [c] }) (h h2) _)
  · unfold appendCharge State.bills
    rw [if_neg h1]
    exact if_neg h1

/-- A list is played as `State.plays` says: the missing prompts at its head removed, the first other item current (R45). -/
theorem setList_plays {s : State} {c : ChannelIx} {l : List PlayItem}
    (h : (l.head?).any s.missing = true → s.attention = 0 → s.link.queue.length < 64) :
    setList c l s = s.plays c l := by
  have key : ∀ (l : List PlayItem) (z : State), z.attention ≠ 0 → attentionHas z.attention .promptMissing = true →
      startList c l z = startList c (l.dropWhile z.missing) z := by
    intro l
    induction l with
    | nil => intro z _ _; rfl
    | cons i l ih =>
      intro z h0 hh
      cases i with
      | message n => simp [State.missing]
      | prompt id =>
        cases hp : z.store.prompts[id] with
        | none =>
          have : place .promptMissing z = z := by simp [place, hh]
          simp only [startList, hp, this, List.dropWhile, State.missing, Option.isNone]
          exact ih z h0 hh
        | some e => simp [List.dropWhile, State.missing, hp]
  cases l with
  | nil => rfl
  | cons i l =>
    by_cases hm : s.missing i = true
    · have hq := h (by simpa using hm)
      cases i with
      | message n => simp [State.missing] at hm
      | prompt id =>
        have hp : s.store.prompts[id] = none := by simpa [State.missing] using hm
        have hpl : place .promptMissing s = s.placed .promptMissing := place_placed hq _
        have h1 : setList c (.prompt id :: l) s = setList c l (s.placed .promptMissing) := by
          have hp' : (leaveItem c s).store.prompts[id] = none := hp
          simp only [setList, startList, hp']
          have : place .promptMissing (leaveItem c s) = leaveItem c (s.placed .promptMissing) := by
            rw [place_placed (s := leaveItem c s) hq]
            rfl
          rw [this]
        have hmiss : (s.placed .promptMissing).missing = s.missing := rfl
        have h2 : setList c l (s.placed .promptMissing) = setList c (l.dropWhile s.missing) (s.placed .promptMissing) := by
          show startList c l (leaveItem c (s.placed .promptMissing)) = startList c _ _
          exact key l (leaveItem c (s.placed .promptMissing)) (placed_attention_ne s .promptMissing)
            (by show attentionHas (s.placed .promptMissing).attention _ = true; rw [← hpl]; exact place_has _ _)
        rw [h1, h2]
        have hd : (PlayItem.prompt id :: l).dropWhile s.missing = l.dropWhile s.missing := by simp [List.dropWhile, hm]
        have hms : s.misses (.prompt id :: l) = s.placed .promptMissing := by simp [State.misses, hm]
        simp only [State.plays, hd, hms]
        cases hdl : l.dropWhile s.missing with
        | nil => rw [setList_nil]; rfl
        | cons j rest =>
          rw [setList_eq]
          · rfl
          · have := List.head?_dropWhile_not s.missing l
            rw [hdl] at this
            simp only [List.head?_cons] at this
            cases j with
            | message n => trivial
            | prompt id' => 
              have h' : s.store.prompts[id'] ≠ none := by simpa [State.missing, Option.isSome_iff_ne_none] using this
              exact h'
    · have hm' : s.missing i = false := by simpa using hm
      simp only [State.plays, State.misses, List.dropWhile, hm', List.head?_cons, Option.any_some, Bool.false_eq_true, if_false]
      exact setList_eq (by cases i with
        | message n => trivial
        | prompt id' => exact (by simpa [State.missing, Option.isSome_iff_ne_none] using hm' : s.store.prompts[id'] ≠ none)) c l

/-- There is room for the notices of a list that comes to be played: none is brought with every prompt in the directory, and
at most one ATTENTION and one SLOT_DONE otherwise. -/
def State.playRoom (s : State) : Prop := s.prompted ∨ s.roomFor 0

theorem State.playRoom.misses {s : State} (h : s.playRoom) (l : List PlayItem) :
    (l.head?).any s.missing = true → s.attention = 0 → s.link.queue.length < 64 := by
  intro hm h0
  rcases h with hp | hr
  · exfalso
    cases l with
    | nil => simp at hm
    | cons i l =>
      cases i with
      | message n => simp [State.missing] at hm
      | prompt id => exact hp id (by simpa [State.missing] using hm)
  · have := hr.2 h0; omega

theorem State.prompted.dropWhile {s : State} (h : s.prompted) (l : List PlayItem) : l.dropWhile s.missing = l := by
  cases l with
  | nil => rfl
  | cons i l =>
    cases i with
    | message n => simp [State.missing]
    | prompt id =>
      have : s.store.prompts[id] ≠ none := h id
      simpa [State.missing] using this

/-- What playing a list leaves as it was. -/
theorem State.plays_frame (c : ChannelIx) (l : List PlayItem) (z : State) :
    ((z.plays c l).chan c) = { z.chan c with playList := l.dropWhile z.missing } ∧
      (z.plays c l).store = z.store ∧ (z.plays c l).link = (z.misses l).link := by
  unfold State.plays
  have hs : (z.misses l).store = z.store := by unfold State.misses; split <;> rfl
  cases h : l.dropWhile z.missing with
  | nil => simp [State.withChan, State.chan, hs]
  | cons i r => simp [State.withChan, State.chan, State.starts, hs]

/-- CLOSING is entered with any list as `State.closesWith` says (R61). -/
theorem enterClosing_closesWith {s : State} {c : ChannelIx} {l : List PlayItem} (hl : l ≠ [])
    (hq : s.prompted ∨ s.roomFor 0 ∧ ((s.chan c).reading = false ∨ s.marksBlank)) :
    enterClosing c l s = s.closesWith c l := by
  let z : State := s.withChan c { s.chan c with state := .closing }
  have hz : (s.updChan c fun x => { x with state := .closing }) = z := rfl
  have hm : z.missing = s.missing := rfl
  have hset : setList c l z = z.plays c l :=
    setList_plays (State.playRoom.misses (s := z) (hq.imp id And.left) l)
  obtain ⟨h1, h2, h3⟩ := State.plays_frame c l z
  have hzc : z.chan c = { s.chan c with state := .closing } := by simp [z, State.withChan, State.chan]
  unfold enterClosing State.closesWith
  simp only [hz, hset, h1]
  rw [hm]
  by_cases hd : l.dropWhile s.missing = []
  · rw [if_pos hd, if_neg (by simpa using hd)]
    obtain ⟨hroom, hb⟩ : s.roomFor 0 ∧ ((s.chan c).reading = false ∨ s.marksBlank) := by
      rcases hq with hp | hr
      · rw [hp.dropWhile] at hd; exact absurd hd hl
      · exact hr
    have hlen : (z.plays c l).link.queue.length < 64 := by
      rw [h3]
      unfold State.misses
      split
      · exact (State.roomFor.placed (s := z) hroom _).1
      · exact hroom.1
    have hb' : ((z.plays c l).chan c).reading = false ∨ (z.plays c l).marksBlank := by
      rcases hb with hb | hb
      · left; rw [h1, hzc]; exact hb
      · right; unfold State.marksBlank; rw [h2]; exact hb
    unfold closingEnd
    rw [h1, hzc]
    have key : ∀ (o : Option (Fin 126)) (y : State), y.link.queue.length < 64 →
        (y.chan c).reading = false ∨ y.marksBlank →
        enterFree c (match o with
          | some k => offerNotice (.slotDone (BitVec.ofNat 8 k.val) .completed) y
          | none => y) =
        State.frees c (match o with
          | some k =>
            { y with link := { y.link with queue := y.link.queue ++ [.slotDone (BitVec.ofNat 8 k.val) .completed] } }
          | none => y) := by
      intro o y hy hb
      cases o with
      | none => exact enterFree_eq hb
      | some k =>
        simp only
        rw [offerNotice_eq, if_pos hy]
        exact enterFree_eq hb
    exact key (s.chan c).slot (z.plays c l) hlen hb'
  · rw [if_neg hd, if_pos (by simpa using hd)]

/-- The choice made (R54). -/
theorem chooseNext_eq {s : State} {c : ChannelIx} {r : RoomIx} {found : Option Nat} {kept : Bool}
    (hq : s.prompted ∨ s.roomFor 0 ∧ (found = none → (s.chan c).reading = false ∨ s.marksBlank))
    (hr : (s.chan c).room = some r)
    (hc : s.Chooses (s.chan c) (s.room r).mailbox found kept) : chooseNext c s = s.goesOn c found kept := by
  unfold chooseNext
  rw [State.choice_eq hr hc]
  cases found with
  | none =>
    obtain ⟨rfl, -⟩ := hc
    simp only
    refine (enterClosing_closesWith
      (s := s.updChan c fun x => { x with kept := true, last := if x.kept then x.last else none })
      (List.cons_ne_nil _ _) (hq.imp id fun h => ⟨h.1, (h.2 rfl).imp (fun hb => ?_) id⟩)).trans rfl
    simpa [State.updChan, State.chan] using hb
  | some n =>
    let Z : State := (s.updChan c fun x => { x with state := .replay, kept := kept, last := some n, current := some n
                                                    reading := true }).updMessage n fun m => { m with readers := m.readers + 1 }
    have hu : (Z.message n).elim false (·.urgent) = (s.message n).elim false (·.urgent) := by
      rw [State.message_updMessage _ _ _ _ (by simp), if_pos rfl]
      show ((s.message n).map _).elim _ _ = _
      cases s.message n <;> rfl
    have hset : ∀ l, setList c l Z = Z.plays c l := fun l => setList_plays 
      (State.playRoom.misses (s := Z) (hq.imp id And.left) l)
    have hmsg : Z.missing (.message n) = false := rfl
    show (if ((setList c (if (Z.message n).elim false (·.urgent) = true then [pUrgent, .message n] else [.message n]) Z).chan
        c).playList = [] then _ else setList c _ Z) = _
    rw [hu]
    cases hurg : (s.message n).elim false (·.urgent) with
    | true =>
      simp only [if_true, hset, (State.plays_frame c _ Z).1]
      rw [if_neg (by simp [List.dropWhile, hmsg]; split <;> simp)]
      simp [State.goesOn, hurg, Z, State.withChan, State.updChan, State.updMessage, State.chan]
    | false =>
      simp only [Bool.false_eq_true, if_false, hset, (State.plays_frame c _ Z).1]
      rw [if_neg (by simp [List.dropWhile, hmsg])]
      simp [State.goesOn, hurg, Z, State.withChan, State.updChan, State.updMessage, State.chan]

/-! ## The link while the outbound queue is full

Each lemma is stated of a state whose link is `k0`, so that they chain: what an operation does to a state with a full queue
leaves its link as it was, with its holder. -/

theorem place_full (k : Attention) {s : State} {k0 : Link} (h : 64 ≤ k0.queue.length) (hl : s.link = k0) :
    (place k s).link = k0 := by
  have hf : ¬1 ≤ s.freeEntries := by rw [← hl] at h; simp only [State.freeEntries, Config.outboundEntries]; omega
  unfold place
  repeat' split
  all_goals exact hl

theorem offerNotice_full (f : OutFrame) {s : State} {k0 : Link} (h : 64 ≤ k0.queue.length) (hl : s.link = k0) :
    (offerNotice f s).link = k0 := by
  rw [offerNotice_eq, if_neg (by rw [hl]; omega)]; exact hl

theorem storeLowTest_full {s : State} {k0 : Link} (h : 64 ≤ k0.queue.length) (hl : s.link = k0) :
    (storeLowTest s).link = k0 := by
  unfold storeLowTest
  try dsimp only
  repeat' split
  all_goals first | exact hl | exact place_full _ h hl

theorem reclaim_full (n : Nat) {s : State} {k0 : Link} (h : 64 ≤ k0.queue.length) (hl : s.link = k0) :
    (reclaim n s).link = k0 := by
  unfold reclaim
  try dsimp only
  repeat' split
  all_goals first | exact hl | exact storeLowTest_full h hl

theorem markFailed_full (k : MarkKind) (n : Nat) {s : State} {k0 : Link} (h : 64 ≤ k0.queue.length) (hl : s.link = k0) :
    (markFailed k n s).link = k0 := by
  unfold markFailed
  try dsimp only
  repeat' split
  all_goals first | exact hl | exact place_full _ h hl | exact reclaim_full _ h (place_full _ h hl)

theorem queueMark_full (k : MarkKind) (n : Nat) {s : State} {k0 : Link} (h : 64 ≤ k0.queue.length) (hl : s.link = k0) :
    (queueMark k n s).link = k0 := by
  unfold queueMark
  try dsimp only
  repeat' split
  all_goals first | exact hl | exact markFailed_full _ _ h hl

theorem settle_full (n : Nat) {s : State} {k0 : Link} (h : 64 ≤ k0.queue.length) (hl : s.link = k0) :
    (settle n s).link = k0 := by
  unfold settle
  try dsimp only
  repeat' split
  all_goals first | exact hl | exact queueMark_full _ _ h hl

theorem deletePath_full (n : Nat) {s : State} {k0 : Link} (h : 64 ≤ k0.queue.length) (hl : s.link = k0) :
    (deletePath n s).link = k0 := by
  unfold deletePath
  try dsimp only
  repeat' split
  all_goals first | exact hl | exact reclaim_full _ h hl | exact settle_full _ h hl

theorem commit_full (n v : Nat) {s : State} {k0 : Link} (h : 64 ≤ k0.queue.length) (hl : s.link = k0) :
    (commit n v s).link = k0 := by
  unfold commit
  try dsimp only
  repeat' split
  all_goals first | exact hl | exact deletePath_full _ h hl

theorem allocate_full (n g : Nat) {s : State} {k0 : Link} (h : 64 ≤ k0.queue.length) (hl : s.link = k0) :
    (allocate n g s).link = k0 := by
  unfold allocate
  try dsimp only
  repeat' split
  all_goals first | exact hl | exact storeLowTest_full h hl

theorem startList_full (c : ChannelIx) (l : List PlayItem) {s : State} {k0 : Link} (h : 64 ≤ k0.queue.length) (hl : s.link = k0) :
    (startList c l s).link = k0 := by
  induction l generalizing s with
  | nil => exact hl
  | cons i l ih =>
    cases i with
    | message n => exact hl
    | prompt id =>
      simp only [startList]
      split
      · exact ih (place_full _ h hl)
      · exact hl

theorem setList_full (c : ChannelIx) (l : List PlayItem) {s : State} {k0 : Link} (h : 64 ≤ k0.queue.length) (hl : s.link = k0) :
    (setList c l s).link = k0 := by
  exact startList_full _ _ h hl

theorem leaveMessage_full (c : ChannelIx) {s : State} {k0 : Link} (h : 64 ≤ k0.queue.length) (hl : s.link = k0) :
    (leaveMessage c s).link = k0 := by
  unfold leaveMessage
  try dsimp only
  repeat' split
  all_goals first | exact hl | exact settle_full _ h hl

theorem enterFree_full (c : ChannelIx) {s : State} {k0 : Link} (h : 64 ≤ k0.queue.length) (hl : s.link = k0) :
    (enterFree c s).link = k0 := by
  unfold enterFree
  try dsimp only
  repeat' split
  all_goals first | exact hl | exact leaveMessage_full _ h hl

theorem closingEnd_full (c : ChannelIx) {s : State} {k0 : Link} (h : 64 ≤ k0.queue.length) (hl : s.link = k0) :
    (closingEnd c s).link = k0 := by
  unfold closingEnd
  try dsimp only
  repeat' split
  all_goals first | exact hl | exact enterFree_full _ h hl | exact enterFree_full _ h (offerNotice_full _ h hl)

theorem enterClosing_full (c : ChannelIx) (l : List PlayItem) {s : State} {k0 : Link} (h : 64 ≤ k0.queue.length) (hl : s.link = k0) :
    (enterClosing c l s).link = k0 := by
  unfold enterClosing
  try dsimp only
  repeat' split
  all_goals first | exact hl | exact closingEnd_full _ h (setList_full _ _ h hl) | exact setList_full _ _ h hl

theorem flushEnd_full (c : ChannelIx) {s : State} {k0 : Link} (h : 64 ≤ k0.queue.length) (hl : s.link = k0) :
    (flushEnd c s).link = k0 := by
  unfold flushEnd
  try dsimp only
  repeat' split
  all_goals first | exact hl | exact enterClosing_full _ _ h hl | exact enterClosing_full _ _ h (commit_full _ _ h hl) | exact enterFree_full _ h hl | exact enterFree_full _ h (commit_full _ _ h hl)

theorem flushTest_full (c : ChannelIx) {s : State} {k0 : Link} (h : 64 ≤ k0.queue.length) (hl : s.link = k0) :
    (flushTest c s).link = k0 := by
  unfold flushTest
  try dsimp only
  repeat' split
  all_goals first | exact hl | exact flushEnd_full _ h hl

theorem exhaust_full (c : ChannelIx) {s : State} {k0 : Link} (h : 64 ≤ k0.queue.length) (hl : s.link = k0) :
    (exhaust c s).link = k0 := by
  unfold exhaust
  try dsimp only
  repeat' split
  all_goals first | exact hl | exact flushTest_full _ h hl | exact flushTest_full _ h (place_full _ h hl)

theorem givePage_full (n : Nat) {s : State} {k0 : Link} (h : 64 ≤ k0.queue.length) (hl : s.link = k0) :
    (givePage n s).2.link = k0 := by
  unfold givePage
  try dsimp only
  repeat' split
  all_goals first | exact hl | exact allocate_full _ _ h hl

theorem raiseProgram_full (c : ChannelIx) {s : State} {k0 : Link} (h : 64 ≤ k0.queue.length) (hl : s.link = k0) :
    (raiseProgram c s).link = k0 := by
  have hg := givePage_full ((s.chan c).current.getD 0) h hl
  unfold raiseProgram
  split
  · split
    · rename_i hq; rw [hq] at hg; exact hg
    · rename_i hq; rw [hq] at hg; exact exhaust_full _ h hg
  · exact hl

theorem raisePrograms_full (c : ChannelIx) {s : State} {k0 : Link} (h : 64 ≤ k0.queue.length) (hl : s.link = k0) :
    (raisePrograms c s).link = k0 := by
  exact raiseProgram_full _ h (raiseProgram_full _ h hl)

theorem recordingEnd_full (c : ChannelIx) (l : List PlayItem) (g : Bool) {s : State} {k0 : Link} (h : 64 ≤ k0.queue.length) (hl : s.link = k0) :
    (recordingEnd c l g s).link = k0 := by
  exact flushTest_full _ h (raisePrograms_full _ h hl)

theorem closeRequest_full (c : ChannelIx) {s : State} {k0 : Link} (h : 64 ≤ k0.queue.length) (hl : s.link = k0) :
    (closeRequest c s).link = k0 := by
  unfold closeRequest
  cases (s.chan c).state
  · exact hl
  · exact enterClosing_full _ _ h hl
  · exact recordingEnd_full _ _ _ h hl
  · exact hl
  · exact enterClosing_full _ _ h (leaveMessage_full _ h hl)
  · exact enterClosing_full _ _ h (leaveMessage_full _ h hl)
  · exact enterClosing_full _ _ h (leaveMessage_full _ h hl)
  · exact hl

theorem channelReset_full (c : ChannelIx) {s : State} {k0 : Link} (h : 64 ≤ k0.queue.length) (hl : s.link = k0) :
    (channelReset c s).link = k0 := by
  have hd : ∀ n, (deletePath n s).link = k0 := fun n => deletePath_full n h hl
  have key : ∀ (z : State) (o : Option (Fin 126)), z.link = k0 →
      (match o with
        | some k => offerNotice (.slotDone (BitVec.ofNat 8 k.val) .reset) (enterFree c z)
        | none => enterFree c z).link = k0 := by
    intro z o hz
    cases o with
    | none => exact enterFree_full c h hz
    | some k => exact offerNotice_full _ h (enterFree_full c h hz)
  unfold channelReset
  refine key _ _ ?_
  split
  · split
    · exact hd _
    · exact hl
  · exact hl

theorem deletePaths_full (l : List Nat) {s : State} {k0 : Link} (h : 64 ≤ k0.queue.length) (hl : s.link = k0) :
    (l.foldl (fun s n => deletePath n s) s).link = k0 := by
  induction l generalizing s with
  | nil => exact hl
  | cons a l ih => exact ih (deletePath_full _ h hl)

theorem deleteMailbox_full (r : RoomIx) {s : State} {k0 : Link} (h : 64 ≤ k0.queue.length) (hl : s.link = k0) :
    (deleteMailbox r s).link = k0 := by
  exact deletePaths_full _ h hl

theorem closeRequests_full (l : List ChannelIx) {s : State} {k0 : Link} (h : 64 ≤ k0.queue.length) (hl : s.link = k0) :
    (l.foldl (fun s c => closeRequest c s) s).link = k0 := by
  induction l generalizing s with
  | nil => exact hl
  | cons a l ih => exact ih (closeRequest_full _ h hl)

theorem closeChannels_full (p : Channel → Bool) {s : State} {k0 : Link} (h : 64 ≤ k0.queue.length) (hl : s.link = k0) :
    (closeChannels p s).link = k0 := by
  exact closeRequests_full _ h hl

theorem appendCharge_full (c : ChargeRecord) {s : State} {k0 : Link} (h : 64 ≤ k0.queue.length) (hl : s.link = k0) :
    (appendCharge c s).link = k0 := by
  unfold appendCharge
  try dsimp only
  repeat' split
  all_goals first | exact hl | exact place_full _ h hl

theorem checkoutTest_full (r : RoomIx) {s : State} {k0 : Link} (h : 64 ≤ k0.queue.length) (hl : s.link = k0) :
    (checkoutTest r s).link = k0 := by
  unfold checkoutTest
  split
  · rw [(evaluateRoom_frame r _).2.2.2.2.1]
    exact appendCharge_full _ h hl
  · exact hl

theorem drainTest_link {s : State} {k0 : Link} (hl : s.link = k0) :
    (drainTest s).link = k0 := by
  unfold drainTest
  try dsimp only
  repeat' split
  all_goals first | exact hl

theorem checkOut_full (r : RoomIx) {s : State} {k0 : Link} (h : 64 ≤ k0.queue.length) (hl : s.link = k0) :
    (checkOut r s).link = k0 := by
  exact drainTest_link (checkoutTest_full _ h (closeChannels_full _ h (deleteMailbox_full _ h hl)))

theorem suspend_full {s : State} {k0 : Link} (h : 64 ≤ k0.queue.length) (hl : s.link = k0) :
    (suspend s).link = k0 := by
  exact drainTest_link (closeChannels_full _ h hl)

theorem clearAttention_full (m : BitVec 16) {s : State} {k0 : Link} (h : 64 ≤ k0.queue.length) (hl : s.link = k0) :
    (clearAttention m s).link = k0 := by
  unfold clearAttention
  try dsimp only
  repeat' split
  all_goals first | exact hl | exact offerNotice_full _ h hl

/-! ## The owners of the commands -/

/-- The state a command's owner leaves. -/
def Work.after : Work → State
  | .done _ _ z => z
  | .deferred z => z

theorem checkedRoom_after {query loaded : Bool} {a b : Octet} {ok : Bool} {s : State} {l : Link} {k : RoomIx → Work}
    (hl : s.link = l) (h : ∀ r, (k r).after.link = l) : (checkedRoom query loaded a b ok s k).after.link = l := by
  unfold checkedRoom
  repeat' split
  all_goals first | exact hl | exact h _

theorem loadTable_after (fields : List Octet) {s : State} {k0 : Link} (h : 64 ≤ k0.queue.length) (hl : s.link = k0) :
    (workLoadTable fields s).after.link = k0 := by
  have hc : ∀ k n, (loadClass k n s).link = k0 := by intro k n; rw [(loadClass_frame k n s).2.2.2.2.1]; exact hl
  have hs : ∀ z : State, z.link = k0 → (storeLowTest z).link = k0 := fun z hz => storeLowTest_full h hz
  unfold workLoadTable
  split
  · exact hl
  · split
    · unfold workLoadClass; dsimp only; repeat' split
      all_goals first | exact hl | exact hc _ _
    · unfold workLoadPrefix; dsimp only; repeat' split
      all_goals exact hl
    · unfold workLoadBand; dsimp only; repeat' split
      all_goals exact hl
    · unfold workLoadSchedule; dsimp only; repeat' split
      all_goals exact hl
    · unfold workLoadParameters; dsimp only; repeat' split
      all_goals first | exact hl | exact hs _ hl
    · exact hl

theorem resync_link (l : List RoomIx) (s : State) : (l.foldl (fun s r => evaluateLamp r s) s).link = s.link := by
  induction l generalizing s with
  | nil => rfl
  | cons a l ih => exact ih _

theorem commandOwner_full (kind : Nat) (tag : Octet) (fields : List Octet) {s : State} {k0 : Link}
    (h : 64 ≤ k0.queue.length) (hl : s.link = k0) : (commandOwner kind tag fields s).after.link = k0 := by
  have hf : ∀ n, offerFetch tag n s = s := by
    intro n
    unfold offerFetch
    exact if_neg (by simp only [State.freeEntries, Config.outboundEntries, hl]; omega)
  unfold commandOwner
  split
  · unfold workQueryStatus; split <;> exact hl
  · unfold workStartService; repeat' split
    all_goals exact hl
  · unfold workSuspend; repeat' split
    all_goals first | exact hl | exact suspend_full h hl
  · unfold workClearAttention; repeat' split
    all_goals first | exact hl | exact clearAttention_full _ h hl
  · unfold workSetClock; repeat' split
    all_goals exact hl
  · exact loadTable_after _ h hl
  · unfold workLoadRoom; split
    · refine checkedRoom_after hl fun r => ?_
      split
      · exact hl
      · show (loadRoom _ _ _ s).link = _; rw [(loadRoom_frame _ _ _ s).2.2.2.2.1]; exact hl
    · exact hl
  · unfold workCheckIn; split
    · refine checkedRoom_after hl fun r => ?_
      split
      · exact hl
      split
      · exact hl
      · show (evaluateRoom _ _).link = _; rw [(evaluateRoom_frame _ _).2.2.2.2.1]; exact hl
    · exact hl
  · unfold workCheckOut; split
    · refine checkedRoom_after hl fun r => ?_
      split
      · exact hl
      split
      · dsimp only [Work.after]; exact checkOut_full r h hl
      · dsimp only [Work.after]; exact place_full _ h hl
    · exact hl
  · unfold workSetCredit; split
    · refine checkedRoom_after hl fun r => ?_
      split
      · exact hl
      · show (evaluateRoom _ _).link = _; rw [(evaluateRoom_frame _ _).2.2.2.2.1]; exact hl
    · exact hl
  · unfold workPostPayment; split
    · refine checkedRoom_after hl fun r => ?_
      split
      · exact hl
      · show (evaluateRoom _ _).link = _; rw [(evaluateRoom_frame _ _).2.2.2.2.1]; exact hl
    · exact hl
  · unfold workUnbar; split
    · refine checkedRoom_after hl fun r => ?_
      repeat' split
      all_goals exact hl
    · exact hl
  · unfold workDeskFlag; split
    · refine checkedRoom_after hl fun r => ?_
      repeat' split
      all_goals exact hl
    · exact hl
  · unfold workDeleteMessages; split
    · refine checkedRoom_after hl fun r => ?_
      dsimp only [Work.after]
      refine drainTest_link ?_
      rw [(evaluateLamp_frame r _).2.2.2.2.1]
      exact deleteMailbox_full r h hl
    · exact hl
  · unfold workQueryRoom; split
    · exact checkedRoom_after hl fun r => hl
    · exact hl
  · unfold workResetChannel; dsimp only; repeat' split
    all_goals first | exact hl | exact drainTest_link (channelReset_full _ h hl)
  · unfold workLoadExpansion; repeat' split
    all_goals exact hl
  · unfold workSetGeometry; repeat' split
    all_goals exact hl
  · unfold workMount; repeat' split
    all_goals exact hl
  · unfold workQueryStore; split <;> exact hl
  · unfold workPromptErase; repeat' split
    all_goals exact hl
  · unfold workPromptPage; dsimp only; repeat' split
    all_goals exact hl
  · unfold workPromptCommit; repeat' split
    all_goals exact hl
  · unfold workPromptVerify; repeat' split
    all_goals exact hl
  · unfold workPromptBlank; repeat' split
    all_goals exact hl
  · unfold workPromptDir; dsimp only; repeat' split
    all_goals exact hl
  · unfold workLampForce; split
    · exact checkedRoom_after hl fun r => hl
    · exact hl
  · unfold workLampResume; split
    · refine checkedRoom_after hl fun r => ?_
      split <;> exact hl
    · exact hl
  · unfold workLampResync; split
    · split
      · exact hl
      · dsimp only [Work.after, lampResync]
        rw [resync_link]
        exact hl
    · exact hl
  · unfold workLoadTrunk mapTrunk; dsimp only; repeat' split
    all_goals exact hl
  · unfold workFetchCharges; split
    · split
      · exact (congrArg State.link (hf _)).trans hl
      · exact hl
    · exact hl
  · unfold workReleaseCharges; dsimp only; repeat' split
    all_goals exact hl

end Sys2Proof.Machine
end

