-- ==== Sys2Proof/Laws/Sweeps.lean ====
section
/-! SUPPORT. What a sweep does with the lamp order queue (R134, R135): which rooms are taken, which frames are admitted and
which rooms stay. -/

namespace Sys2Proof.Machine

theorem State.updLamp_room (s : State) (r r' : RoomIx) (f : LampRecord → LampRecord) :
    (s.updLamp r f).room r' = if r' = r then { s.room r with lamp := f (s.room r).lamp } else s.room r' := by
  by_cases h : r' = r
  · subst h; simp [State.updLamp, State.updRoom, State.setRoom, State.room]
  · have h' : r.val ≠ r'.val := fun he => h (Fin.ext he.symm)
    simp [State.updLamp, State.updRoom, State.setRoom, State.room, h, Vector.getElem_set_ne, h']

/-- A room record with its order sent in sweep `number` (R135). -/
def Room.orderSent (number : Nat) (x : Room) : Room :=
  { x with lamp := { x.lamp with queued := false, ordered := x.lamp.target, orderSweep := some number } }

theorem ordersAdmitted_eq (number : Nat) (frame : List RoomIx) (s : State) (hn : frame.Nodup) :
    let t := ordersAdmitted number frame s
    t = { s with rooms := t.rooms
                 link := { s.link with queue := s.link.queue ++ [.lampOrder (frame.map s.orderOf)] } } ∧
      ∀ r, t.room r = if r ∈ frame then (s.room r).orderSent number else s.room r := by
  have key : ∀ (l : List RoomIx) (z : State), l.Nodup →
      let t := l.foldl (fun s r => s.updLamp r fun l =>
        { l with queued := false, ordered := l.target, orderSweep := some number }) z
      t = { z with rooms := t.rooms } ∧ ∀ r, t.room r = if r ∈ l then (z.room r).orderSent number else z.room r := by
    intro l
    induction l with
    | nil => intro z _; simp
    | cons a l ih =>
      intro z hl
      rw [List.nodup_cons] at hl
      obtain ⟨h1, h2⟩ := ih (z.updLamp a fun l => { l with queued := false, ordered := l.target, orderSweep := some number })
        hl.2
      refine ⟨h1, fun r => ?_⟩
      simp only [List.foldl_cons]
      rw [h2, State.updLamp_room]
      by_cases hr : r ∈ l
      · have hne : r ≠ a := fun h => hl.1 (h ▸ hr)
        simp [hr, hne]
      · by_cases ha : r = a
        · subst ha; simp [hr, Room.orderSent]
        · simp [hr, ha]
  obtain ⟨h1, h2⟩ := key frame (s.push (.lampOrder (frame.map s.orderOf))) hn
  exact ⟨h1, h2⟩

/-- A room taken needs an order, and is not held off (R134). -/
def State.orderable (s : State) (number : Nat) (r : RoomIx) : Bool :=
  !(s.room r).lamp.settled && !heldOff number s.lamps.holdOff (s.room r).lamp

/-- A room taken needs an order and is held off (R134). -/
def State.deferred (s : State) (number : Nat) (r : RoomIx) : Bool :=
  !(s.room r).lamp.settled && heldOff number s.lamps.holdOff (s.room r).lamp

/-- The frames of a sweep: `j` of them, of fourteen rooms each, the last of those left. -/
def orderFrames (s : State) (j : Nat) (due : List RoomIx) : List OutFrame :=
  (List.range j).map fun i => .lampOrder (((due.drop (14 * i)).take 14).map s.orderOf)

theorem orderFrames_succ (s : State) (j : Nat) (l due : List RoomIx) (hl : l.length = 14) :
    orderFrames s (j + 1) (l ++ due) = .lampOrder (l.map s.orderOf) :: orderFrames s j due := by
  simp only [orderFrames, List.range_succ_eq_map, List.map_cons, List.map_map]
  congr 1
  · simp [← hl]
  · refine List.map_congr_left fun i _ => ?_
    simp only [Function.comp, Nat.succ_eq_add_one]
    rw [show 14 * (i + 1) = l.length + 14 * i by omega, ← List.drop_drop, List.drop_left]

/-- What the taking of a sweep comes to (R134, R135): of the rooms not yet taken `pre` are taken, the frame being built and
the orderable ones of `pre` make the due list, of which `j` frames are admitted. -/
theorem buildOrders_spec (number : Nat) (rest off frame : List RoomIx) (left : Nat) (z : State)
    (hn : (frame ++ rest).Nodup) (hf : frame.length < 14) (hl : 1 ≤ left) :
    let out := buildOrders number rest off frame left z
    ∃ (pre post : List RoomIx) (j : Nat), rest = pre ++ post ∧
      let due := frame ++ pre.filter (z.orderable number)
      (1 ≤ j → z.link.queue.length + j ≤ 33) ∧
      (out.2 = false → due.length ≤ 14 * j ∧ 14 * j < due.length + 14 ∧
        (j = left ∧ due.length = 14 * left ∧ pre.getLast? = due.getLast? ∨ due.length < 14 * left ∧ post = [])) ∧
      (out.2 = true → j < left ∧ 14 * j < due.length ∧ due.length ≤ 14 * j + 14 ∧ 32 < z.link.queue.length + j ∧
        (due.length = 14 * j + 14 ∧ pre.getLast? = due.getLast? ∨ due.length < 14 * j + 14 ∧ post = [])) ∧
      out.1 = { z with
                rooms := out.1.rooms
                lamps := { z.lamps with
                  queue := due.drop (14 * j) ++ post ++ off ++ pre.filter (z.deferred number) }
                link := { z.link with queue := z.link.queue ++ orderFrames z j due } } ∧
      ∀ r, out.1.room r =
        if r ∈ due.take (14 * j) then (z.room r).orderSent number
        else if r ∈ pre ∧ (z.room r).lamp.settled = true then
          { z.room r with lamp := { (z.room r).lamp with queued := false } }
        else z.room r := by
  have hadm : ∀ s : State, lampAdmitted s = true ↔ s.link.queue.length ≤ 32 := by
    intro s
    have : lampAdmitted s = decide (32 ≤ 64 - s.link.queue.length) := rfl
    rw [this, decide_eq_true_eq]; omega
  induction rest generalizing off frame left z with
  | nil =>
    intro out
    rw [List.append_nil] at hn
    by_cases hfe : frame = []
    · refine ⟨[], [], 0, rfl, ?_⟩
      subst hfe
      have ho : out = (z.withLampQueue off, false) := by simp only [out, buildOrders, if_true]
      rw [ho]
      refine ⟨by omega, fun _ => ⟨by simp, by simp, .inr ⟨by simp; omega, rfl⟩⟩, by simp, ?_, ?_⟩
      · simp [State.withLampQueue, orderFrames]
      · intro r; simp [State.withLampQueue, State.room]
    · have hpos : 0 < frame.length := List.length_pos_iff.mpr hfe
      by_cases hq : z.link.queue.length ≤ 32
      · refine ⟨[], [], 1, rfl, ?_⟩
        have ho : out = ((ordersAdmitted number frame z).withLampQueue off, false) := by
          simp only [out, buildOrders, if_neg hfe, (hadm z).mpr hq, if_true]
        obtain ⟨h1, h2⟩ := ordersAdmitted_eq number frame z hn
        rw [ho]
        refine ⟨by omega, fun _ => ⟨?_, ?_, .inr ⟨?_, rfl⟩⟩, by simp, ?_, ?_⟩
        · simp; omega
        · simp; omega
        · simp; omega
        · have htake : frame.take 14 = frame := List.take_of_length_le (by omega)
          have hdrop : frame.drop 14 = [] := List.drop_of_length_le (by omega)
          have hr1 : orderFrames z 1 frame = [.lampOrder (frame.map z.orderOf)] := by
            simp only [orderFrames, List.range_one, List.map_cons, List.map_nil, Nat.mul_zero, List.drop_zero, htake]
          simp only [List.filter_nil, List.append_nil, hr1, Nat.mul_one, hdrop, List.nil_append]
          conv_lhs => rw [h1]
          rfl
        · intro r
          have htake : frame.take 14 = frame := List.take_of_length_le (by omega)
          simp only [List.filter_nil, List.append_nil, Nat.mul_one, htake, List.not_mem_nil, false_and, if_false]
          exact h2 r
      · refine ⟨[], [], 0, rfl, ?_⟩
        have ho : out = (z.withLampQueue (frame ++ off), true) := by
          have : lampAdmitted z = false := by rw [Bool.eq_false_iff, ne_eq, hadm]; exact hq
          simp only [out, buildOrders, if_neg hfe, this, Bool.false_eq_true, if_false]
        rw [ho]
        refine ⟨by omega, by simp, fun _ => ⟨by omega, by simpa using hpos, by simp; omega, by omega, .inr ⟨by simp; omega, rfl⟩⟩,
          ?_, ?_⟩
        · simp [State.withLampQueue, orderFrames]
        · intro r; simp [State.withLampQueue, State.room]
  | cons a rest ih =>
    intro out
    have hna : a ∉ frame ∧ a ∉ rest ∧ (frame ++ rest).Nodup := by
      rw [List.nodup_append] at hn ⊢
      obtain ⟨h1, h2, h3⟩ := hn
      rw [List.nodup_cons] at h2
      exact ⟨fun h => h3 a h a (by simp) rfl, h2.1, h1, h2.2, fun x hx y hy => h3 x hx y (by simp [hy])⟩
    by_cases hset : (z.room a).lamp.settled = true
    · -- needs no order
      let z' := z.updLamp a fun l => { l with queued := false }
      have ho : out = buildOrders number rest off frame left z' := by simp only [out, buildOrders, hset, if_true]; rfl
      obtain ⟨pre, post, j, hrest, hj, hc, hre, hst, hro⟩ := ih off frame left z' hna.2.2 hf hl
      have hz' : ∀ r, r ≠ a → z'.room r = z.room r := fun r hr => by rw [State.updLamp_room, if_neg hr]
      have hpre : ∀ r ∈ pre, r ≠ a := fun r hr h => hna.2.1 (h ▸ hrest ▸ List.mem_append_left _ hr)
      have hd : pre.filter (z'.orderable number) = (a :: pre).filter (z.orderable number) := by
        rw [List.filter_cons, if_neg (by simp [State.orderable, hset])]
        exact List.filter_congr fun r hr => by simp only [State.orderable, hz' r (hpre r hr)]; rfl
      have hd2 : pre.filter (z'.deferred number) = (a :: pre).filter (z.deferred number) := by
        rw [List.filter_cons, if_neg (by simp [State.deferred, hset])]
        exact List.filter_congr fun r hr => by simp only [State.deferred, hz' r (hpre r hr)]; rfl
      rw [hd] at hc hre hst hro
      rw [hd2] at hst
      have hfr : ∀ d : List RoomIx, (∀ r ∈ d, r ≠ a) → orderFrames z' j d = orderFrames z j d := by
        intro d hd
        refine List.map_congr_left fun i _ => ?_
        congr 1
        refine List.map_congr_left fun r hr => ?_
        have := hz' r (hd r (List.mem_of_mem_drop (List.mem_of_mem_take hr)))
        simp only [State.orderOf, this]
      have hdue : ∀ r ∈ frame ++ (a :: pre).filter (z.orderable number), r ≠ a := by
        intro r hr
        rcases List.mem_append.mp hr with hr | hr
        · exact fun h => hna.1 (h ▸ hr)
        · rw [← hd] at hr; exact hpre r (List.mem_filter.mp hr).1
      rw [hfr _ hdue] at hst
      refine ⟨a :: pre, post, j, by rw [hrest]; rfl, hj, ?_, ?_, ?_, ?_⟩
      · intro h
        obtain ⟨c1, c2, c3⟩ := hc (ho ▸ h)
        refine ⟨c1, c2, c3.imp (fun ⟨x, y, w⟩ => ⟨x, y, ?_⟩) id⟩
        rw [← w]
        cases pre with
        | nil =>
          exfalso
          rw [← hd] at y; simp at y; omega
        | cons b pre => simp
      · intro h
        obtain ⟨c1, c2, c3, c4, c5⟩ := hre (ho ▸ h)
        refine ⟨c1, c2, c3, c4, c5.imp (fun ⟨y, w⟩ => ⟨y, ?_⟩) id⟩
        rw [← w]
        cases pre with
        | nil =>
          exfalso
          rw [← hd] at y; simp at y; omega
        | cons b pre => simp
      · rw [ho]; exact hst
      · intro r
        rw [ho, hro]
        by_cases hra : r = a
        · subst hra
          have h1 : r ∉ (frame ++ (r :: pre).filter (z.orderable number)).take (14 * j) := fun h =>
            hdue r (List.mem_of_mem_take h) rfl
          have h2 : r ∉ pre := fun h => hpre r h rfl
          simp only [h1, h2, if_false, false_and, List.mem_cons, true_or, hset, and_self, if_true]
          rw [State.updLamp_room, if_pos rfl]
        · simp only [hz' r hra, List.mem_cons, hra, false_or]
    · have hset' : (z.room a).lamp.settled = false := by simpa using hset
      by_cases hheld : heldOff number z.lamps.holdOff (z.room a).lamp = true
      · -- held off
        have ho : out = buildOrders number rest (off ++ [a]) frame left z := by
          simp only [out, buildOrders, hset', Bool.false_eq_true, if_false, hheld, if_true]
        obtain ⟨pre, post, j, hrest, hj, hc, hre, hst, hro⟩ := ih (off ++ [a]) frame left z hna.2.2 hf hl
        have hd : pre.filter (z.orderable number) = (a :: pre).filter (z.orderable number) := by
          rw [List.filter_cons, if_neg (by simp [State.orderable, hheld])]
        have hd2 : a :: pre.filter (z.deferred number) = (a :: pre).filter (z.deferred number) := by
          rw [List.filter_cons, if_pos (by simp [State.deferred, hheld, hset'])]
        have hlast : ∀ n, 1 ≤ n → (frame ++ pre.filter (z.orderable number)).length = 14 * n →
            pre.getLast? = (frame ++ pre.filter (z.orderable number)).getLast? →
            (a :: pre).getLast? = (frame ++ pre.filter (z.orderable number)).getLast? := by
          intro n h1 h2 h3
          rw [← h3]
          cases pre with
          | nil => exfalso; simp at h2; omega
          | cons b pre => simp
        refine ⟨a :: pre, post, j, by rw [hrest]; rfl, hj, ?_, ?_, ?_, ?_⟩
        · intro h
          obtain ⟨c1, c2, c3⟩ := hc (ho ▸ h)
          rw [← hd]
          exact ⟨c1, c2, c3.imp (fun ⟨x, y, w⟩ => ⟨x, y, hlast left hl y w⟩) id⟩
        · intro h
          obtain ⟨c1, c2, c3, c4, c5⟩ := hre (ho ▸ h)
          rw [← hd]
          exact ⟨c1, c2, c3, c4, c5.imp (fun ⟨y, w⟩ => ⟨y, hlast (j + 1) (by omega) (by omega) w⟩) id⟩
        · rw [ho, ← hd, ← hd2]
          refine hst.trans ?_
          simp only [List.append_assoc, List.singleton_append]
        · intro r
          rw [ho, hro, ← hd]
          by_cases hra : r = a
          · subst hra
            simp only [hset', Bool.false_eq_true, and_false, if_false]
          · simp only [List.mem_cons, hra, false_or]
      · have hheld' : heldOff number z.lamps.holdOff (z.room a).lamp = false := by simpa using hheld
        have hda : z.orderable number a = true := by simp [State.orderable, hset', hheld']
        have hdf : z.deferred number a = false := by simp [State.deferred, hheld']
        by_cases hlen : frame.length + 1 < 14
        · -- joins the frame being built
          have ho : out = buildOrders number rest off (frame ++ [a]) left z := by
            simp only [out, buildOrders, hset', Bool.false_eq_true, if_false, hheld', Config.lampFrameRooms, if_pos hlen]
          obtain ⟨pre, post, j, hrest, hj, hc, hre, hst, hro⟩ := ih off (frame ++ [a]) left z (by simpa using hn)
            (by simpa using hlen) hl
          have hd : frame ++ [a] ++ pre.filter (z.orderable number) = frame ++ (a :: pre).filter (z.orderable number) := by
            rw [List.filter_cons, if_pos hda]; simp
          have hd2 : pre.filter (z.deferred number) = (a :: pre).filter (z.deferred number) := by
            rw [List.filter_cons, if_neg (by simp [hdf])]
          rw [hd] at hc hre hst hro
          rw [hd2] at hst
          have hlast : ∀ n, 1 ≤ n → (frame ++ (a :: pre).filter (z.orderable number)).length = 14 * n →
              pre.getLast? = (frame ++ (a :: pre).filter (z.orderable number)).getLast? →
              (a :: pre).getLast? = (frame ++ (a :: pre).filter (z.orderable number)).getLast? := by
            intro n h1 h2 h3
            rw [← h3]
            cases pre with
            | nil => exfalso; rw [← hd] at h2; simp at h2; omega
            | cons b pre => simp
          refine ⟨a :: pre, post, j, by rw [hrest]; rfl, hj, ?_, ?_, by rw [ho]; exact hst, ?_⟩
          · intro h
            obtain ⟨c1, c2, c3⟩ := hc (ho ▸ h)
            exact ⟨c1, c2, c3.imp (fun ⟨x, y, w⟩ => ⟨x, y, hlast left hl y w⟩) id⟩
          · intro h
            obtain ⟨c1, c2, c3, c4, c5⟩ := hre (ho ▸ h)
            exact ⟨c1, c2, c3, c4, c5.imp (fun ⟨y, w⟩ => ⟨y, hlast (j + 1) (by omega) (by omega) w⟩) id⟩
          · intro r
            rw [ho, hro]
            by_cases hra : r = a
            · subst hra
              simp only [hset', Bool.false_eq_true, and_false, if_false]
            · simp only [List.mem_cons, hra, false_or]
        · -- completes a frame
          have h14 : (frame ++ [a]).length = 14 := by simp; omega
          have hnfa : (frame ++ [a]).Nodup := by
            rw [show frame ++ a :: rest = (frame ++ [a]) ++ rest by simp] at hn
            exact (List.nodup_append.mp hn).1
          by_cases hq : z.link.queue.length ≤ 32
          · obtain ⟨o1, o2⟩ := ordersAdmitted_eq number (frame ++ [a]) z hnfa
            let z' := ordersAdmitted number (frame ++ [a]) z
            change z' = _ at o1
            change ∀ r, z'.room r = _ at o2
            by_cases hleft : left ≤ 1
            · -- the last frame of the sweep
              have ho : out = (z'.withLampQueue (rest ++ off), false) := by
                simp only [out, buildOrders, hset', Bool.false_eq_true, if_false, hheld', Config.lampFrameRooms,
                  if_neg hlen, (hadm z).mpr hq, if_true, if_pos hleft]
                rfl
              have hl1 : left = 1 := by omega
              refine ⟨[a], rest, 1, rfl, ?_⟩
              have hdue : frame ++ [a].filter (z.orderable number) = frame ++ [a] := by
                simp [hda]
              simp only [hdue]
              have htake : (frame ++ [a]).take 14 = frame ++ [a] := List.take_of_length_le (by omega)
              have hdrop : (frame ++ [a]).drop 14 = [] := List.drop_of_length_le (by omega)
              refine ⟨by omega, fun _ => ⟨by omega, by omega, .inl ⟨hl1.symm, by omega, by simp⟩⟩, by rw [ho]; simp, ?_, ?_⟩
              · have hr1 : orderFrames z 1 (frame ++ [a]) = [.lampOrder ((frame ++ [a]).map z.orderOf)] := by
                  simp only [orderFrames, List.range_one, List.map_cons, List.map_nil, Nat.mul_zero, List.drop_zero, htake]
                have hff : [a].filter (z.deferred number) = [] := by simp [hdf]
                rw [ho, hr1, hff]
                simp only [Nat.mul_one, hdrop, List.nil_append, List.append_nil]
                obtain ⟨R, hR⟩ : ∃ R, z' = { z with rooms := R, link := { z.link with queue := z.link.queue ++
                  [.lampOrder ((frame ++ [a]).map z.orderOf)] } } := ⟨_, o1⟩
                rw [hR]; rfl
              · intro r
                rw [ho]
                simp only [Nat.mul_one, htake]
                refine (o2 r).trans ?_
                by_cases hr : r ∈ frame ++ [a]
                · simp only [hr, if_true]
                · have hra : r ≠ a := fun h => hr (by simp [h])
                  simp only [hr, if_false, List.mem_singleton, hra, false_and]
            · -- further frames may follow
              have ho : out = buildOrders number rest off [] (left - 1) z' := by
                simp only [out, buildOrders, hset', Bool.false_eq_true, if_false, hheld', Config.lampFrameRooms,
                  if_neg hlen, (hadm z).mpr hq, if_true, if_neg hleft]
                rfl
              have hnr : ([] ++ rest : List RoomIx).Nodup := (List.nodup_append.mp hna.2.2).2.1
              obtain ⟨pre, post, j, hrest, hj, hc, hre, hst, hro⟩ := ih off [] (left - 1) z' hnr (by simp) (by omega)
              have hnot : ∀ r ∈ rest, r ∉ frame ++ [a] := by
                intro r hr h
                rcases List.mem_append.mp h with h | h
                · exact (List.nodup_append.mp hna.2.2).2.2 r h r hr rfl
                · rw [List.mem_singleton] at h; subst h; exact hna.2.1 hr
              have hz' : ∀ r ∈ rest, z'.room r = z.room r := fun r hr => by rw [o2, if_neg (hnot r hr)]
              have hpin : ∀ r ∈ pre, r ∈ rest := fun r hr => hrest ▸ List.mem_append_left _ hr
              have hhold : z'.lamps = z.lamps := by rw [o1]
              have hd : pre.filter (z'.orderable number) = pre.filter (z.orderable number) :=
                List.filter_congr fun r hr => by simp only [State.orderable, hz' r (hpin r hr), hhold]
              have hd2 : pre.filter (z'.deferred number) = pre.filter (z.deferred number) :=
                List.filter_congr fun r hr => by simp only [State.deferred, hz' r (hpin r hr), hhold]
              have hfr : orderFrames z' j (pre.filter (z.orderable number)) =
                  orderFrames z j (pre.filter (z.orderable number)) := by
                refine List.map_congr_left fun i _ => ?_
                congr 1
                refine List.map_congr_left fun r hr => ?_
                have hm : r ∈ rest := hpin r (List.mem_filter.mp (List.mem_of_mem_drop (List.mem_of_mem_take hr))).1
                simp only [State.orderOf, hz' r hm]
              simp only [List.nil_append] at hc hre hst hro
              rw [hd] at hc hre hst hro
              rw [hd2, hfr] at hst
              have hq' : z'.link.queue = z.link.queue ++ [.lampOrder ((frame ++ [a]).map z.orderOf)] := by rw [o1]
              have hql : z'.link.queue.length = z.link.queue.length + 1 := by rw [hq']; simp
              rw [hql] at hj hre
              have hdue : frame ++ (a :: pre).filter (z.orderable number) =
                  (frame ++ [a]) ++ pre.filter (z.orderable number) := by
                rw [List.filter_cons, if_pos hda]; simp
              have hff : (a :: pre).filter (z.deferred number) = pre.filter (z.deferred number) := by
                rw [List.filter_cons, if_neg (by simp [hdf])]
              have hdl : (frame ++ [a] ++ pre.filter (z.orderable number)).length =
                  14 + (pre.filter (z.orderable number)).length := by rw [List.length_append, h14]
              have hlast : ∀ n, 1 ≤ n → (pre.filter (z.orderable number)).length = 14 * n →
                  pre.getLast? = (pre.filter (z.orderable number)).getLast? →
                  (a :: pre).getLast? = (frame ++ [a] ++ pre.filter (z.orderable number)).getLast? := by
                intro n h1 h2 h3
                have hne : pre.filter (z.orderable number) ≠ [] := by
                  intro h; rw [h] at h2; simp at h2; omega
                rw [List.getLast?_append_of_ne_nil _ hne, ← h3]
                cases pre with
                | nil => exact absurd rfl hne
                | cons b pre => simp
              refine ⟨a :: pre, post, j + 1, by rw [hrest]; rfl, ?_⟩
              rw [hdue, hff]
              simp only
              have htd : ∀ n, (frame ++ [a] ++ pre.filter (z.orderable number)).drop (14 * (n + 1)) =
                  (pre.filter (z.orderable number)).drop (14 * n) := by
                intro n
                rw [show 14 * (n + 1) = (frame ++ [a]).length + 14 * n by omega, ← List.drop_drop, List.drop_left]
              have htt : ∀ n, (frame ++ [a] ++ pre.filter (z.orderable number)).take (14 * (n + 1)) =
                  (frame ++ [a]) ++ (pre.filter (z.orderable number)).take (14 * n) := by
                intro n
                rw [show 14 * (n + 1) = (frame ++ [a]).length + 14 * n by omega, List.take_append,
                  List.take_of_length_le (by omega)]
                simp
              refine ⟨?_, ?_, ?_, ?_, ?_⟩
              · intro _
                by_cases hj1 : 1 ≤ j
                · have := hj hj1; omega
                · omega
              · intro h
                obtain ⟨c1, c2, c3⟩ := hc (ho ▸ h)
                rw [hdl]
                refine ⟨by omega, by omega, c3.imp (fun ⟨x, y, w⟩ => ⟨by omega, by omega, ?_⟩)
                  (fun ⟨x, y⟩ => ⟨by omega, y⟩)⟩
                exact hlast (left - 1) (by omega) y w
              · intro h
                obtain ⟨c1, c2, c3, c4, c5⟩ := hre (ho ▸ h)
                rw [hdl]
                refine ⟨by omega, by omega, by omega, by omega, c5.imp (fun ⟨y, w⟩ => ⟨by omega, ?_⟩)
                  (fun ⟨x, y⟩ => ⟨by omega, y⟩)⟩
                exact hlast (j + 1) (by omega) (by omega) w
              · rw [htd, orderFrames_succ z j _ _ h14]
                rw [ho]
                generalize (buildOrders number rest off [] (left - 1) z').1 = w at hst
                obtain ⟨W, hW⟩ : ∃ W, w = { z' with
                    rooms := W
                    lamps := { z'.lamps with
                      queue := (pre.filter (z.orderable number)).drop (14 * j) ++ post ++ off ++
                        pre.filter (z.deferred number) }
                    link := { z'.link with
                      queue := z'.link.queue ++ orderFrames z j (pre.filter (z.orderable number)) } } := ⟨_, hst⟩
                obtain ⟨R, hR⟩ : ∃ R, z' = { z with rooms := R, link := { z.link with queue := z.link.queue ++
                  [.lampOrder ((frame ++ [a]).map z.orderOf)] } } := ⟨_, o1⟩
                rw [hW, hR]
                simp only [List.append_assoc, List.singleton_append]
              · intro r
                rw [ho, hro, htt]
                by_cases hr : r ∈ frame ++ [a]
                · have hnrest : r ∉ rest := fun h => hnot r h hr
                  have hnp : r ∉ pre := fun h => hnrest (hpin r h)
                  have hnt : r ∉ (pre.filter (z.orderable number)).take (14 * j) := fun h =>
                    hnp (List.mem_filter.mp (List.mem_of_mem_take h)).1
                  have : r ∈ frame ++ [a] ++ (pre.filter (z.orderable number)).take (14 * j) := List.mem_append_left _ hr
                  rw [if_neg hnt, if_neg (fun h => hnp h.1), if_pos this, o2, if_pos hr]
                · have hra : r ≠ a := fun h => hr (by simp [h])
                  have hzr : z'.room r = z.room r := by rw [o2, if_neg hr]
                  have hiff : r ∈ frame ++ [a] ++ (pre.filter (z.orderable number)).take (14 * j) ↔
                      r ∈ (pre.filter (z.orderable number)).take (14 * j) := by
                    rw [List.mem_append]; exact or_iff_right hr
                  simp only [hiff, hzr, List.mem_cons, hra, false_or]
          · -- a full frame refused
            have ho : out = (z.withLampQueue (frame ++ [a] ++ rest ++ off), true) := by
              have : lampAdmitted z = false := by rw [Bool.eq_false_iff, ne_eq, hadm]; exact hq
              simp only [out, buildOrders, hset', Bool.false_eq_true, if_false, hheld', Config.lampFrameRooms, if_neg hlen,
                this]
            refine ⟨[a], rest, 0, rfl, ?_⟩
            have hdue : frame ++ [a].filter (z.orderable number) = frame ++ [a] := by
              simp [hda]
            have hff : [a].filter (z.deferred number) = [] := by simp [hdf]
            simp only [hdue, hff]
            rw [ho]
            refine ⟨by omega, by simp, fun _ => ⟨by omega, by omega, by omega, by omega, .inl ⟨by omega, by simp⟩⟩, ?_, ?_⟩
            · simp [State.withLampQueue, orderFrames]
            · intro r
              simp only [Nat.mul_zero, List.take_zero, List.not_mem_nil, if_false]
              by_cases hra : r = a
              · subst hra
                simp only [hset', Bool.false_eq_true, and_false, if_false]; rfl
              · simp only [List.mem_singleton, hra, false_and, if_false]; rfl

/-! ## The shut test (R132) -/

/-- The rooms that satisfy a test, in index order. -/
theorem State.roomsWhere_eq (s : State) (p : Room → Bool) :
    s.roomsWhere p = (List.finRange 2048).filter fun r => p (s.room r) := by
  have h : s.rooms.toList.zipIdx = (List.finRange 2048).map fun r => (s.room r, r.val) := by
    apply List.ext_getElem
    · simp
    · intro i h1 h2
      simp [State.room]
  rw [State.roomsWhere, h, List.filterMap_map, ← List.filterMap_eq_filter]
  refine List.filterMap_congr fun r _ => ?_
  have : Fin.ofNat 2048 r.val = r := Fin.ext (Nat.mod_eq_of_lt r.isLt)
  simp only [Function.comp, this, Option.guard]

/-- A lamp's shut field after the shut test, in one formula (R132). -/
theorem shutAfter_eq (manual : Bool) (l : LampRecord) :
    shutAfter manual l = (l.offHook || l.fault || l.maint || (manual && l.shut)) := by
  unfold shutAfter LampRecord.sourced
  cases l.offHook <;> cases l.fault <;> cases l.maint <;> cases manual <;> simp

/-- The shut test sets each changed shut field and evaluates its room, in index order (R132). -/
theorem shutTest_spec (s : State) :
    let shut (r : RoomIx) : Bool := (s.room r).lamp.offHook || (s.room r).lamp.fault || (s.room r).lamp.maint ||
      ((s.classOf r).lampManual && (s.room r).lamp.shut)
    let flipped := (List.finRange 2048).filter fun r => shut r != (s.room r).lamp.shut
    let t := flipped.foldl
      (fun z r => evaluateLamp r (z.setRoom r { z.room r with lamp := { (z.room r).lamp with shut := shut r } })) s
    shutTest s = t ∧ t.classes = s.classes ∧
      ∀ r, (t.room r).lamp.shut = shut r ∧ (t.room r).cls = (s.room r).cls ∧
        (t.room r).lamp.offHook = (s.room r).lamp.offHook ∧ (t.room r).lamp.fault = (s.room r).lamp.fault ∧
        (t.room r).lamp.maint = (s.room r).lamp.maint := by
  intro shut flipped t
  have hset : ∀ (z : State) (r r' : RoomIx) (x : Room), (evaluateLamp r (z.setRoom r x)).room r' =
      if r' = r then lampEvaluated (z.classes[x.cls]).shutdownHold x else z.room r' := by
    intro z r r' x
    rw [evaluateLamp_room]
    by_cases h : r' = r
    · subst h; simp [State.classOf, State.setRoom, State.room]
    · have h' : r.val ≠ r'.val := fun he => h (Fin.ext he.symm)
      simp [h, State.setRoom, State.room, Vector.getElem_set_ne, h']
  have key : ∀ (l : List RoomIx) (z : State), l.Nodup → (∀ r ∈ l, z.room r = s.room r ∧ shut r = !(s.room r).lamp.shut) →
      let w := l.foldl
        (fun z r => evaluateLamp r (z.setRoom r { z.room r with lamp := { (z.room r).lamp with shut := shut r } })) z
      l.foldl (fun s r => evaluateLamp r (s.updLamp r fun l => { l with shut := !l.shut })) z = w ∧ w.classes = z.classes ∧
        ∀ r, (w.room r).lamp.shut = (if r ∈ l then shut r else (z.room r).lamp.shut) ∧ (w.room r).cls = (z.room r).cls ∧
        (w.room r).lamp.offHook = (z.room r).lamp.offHook ∧ (w.room r).lamp.fault = (z.room r).lamp.fault ∧
        (w.room r).lamp.maint = (z.room r).lamp.maint := by
    intro l
    induction l with
    | nil => intro z _ _; simp
    | cons a l ih =>
      intro z hl hz
      rw [List.nodup_cons] at hl
      obtain ⟨ha1, ha2⟩ := hz a (by simp)
      simp only [List.foldl_cons]
      have hstep : (z.updLamp a fun l => { l with shut := !l.shut }) =
          z.setRoom a { z.room a with lamp := { (z.room a).lamp with shut := shut a } } := by
        rw [ha2, ← ha1]; rfl
      rw [hstep]
      obtain ⟨h1, h2, h3⟩ := ih (evaluateLamp a (z.setRoom a { z.room a with lamp := { (z.room a).lamp with shut := shut a } }))
        hl.2 (fun r hr => by
          have hne : r ≠ a := fun h => hl.1 (h ▸ hr)
          rw [hset, if_neg hne]; exact hz r (by simp [hr]))
      refine ⟨h1, h2, fun r => ?_⟩
      obtain ⟨g1, g2, g3, g4, g5⟩ := h3 r
      rw [hset] at g1 g2 g3 g4 g5
      by_cases hra : r = a
      · subst hra
        simp only [if_true, hl.1, if_false] at g1 g2 g3 g4 g5
        refine ⟨?_, g2, g3, g4, g5⟩
        rw [if_pos (by simp)]; exact g1
      · simp only [if_neg hra] at g1 g2 g3 g4 g5
        refine ⟨?_, g2, g3, g4, g5⟩
        rw [g1]; simp [hra]
  have hflip : (s.roomsWhere fun x => shutAfter (s.classes[x.cls]).lampManual x.lamp != x.lamp.shut) = flipped := by
    rw [State.roomsWhere_eq]
    refine List.filter_congr fun r _ => ?_
    rw [shutAfter_eq]; rfl
  have hmem : ∀ r, r ∈ flipped ↔ shut r ≠ (s.room r).lamp.shut := by
    intro r
    have : r ∈ flipped ↔ r ∈ List.finRange 2048 ∧ (shut r != (s.room r).lamp.shut) = true := List.mem_filter
    rw [this]; simp
  have hnd : flipped.Nodup := (List.nodup_finRange _).filter _
  have hdef : shutTest s = flipped.foldl (fun s r => evaluateLamp r (s.updLamp r fun l => { l with shut := !l.shut })) s := by
    rw [← hflip]; rfl
  clear_value flipped
  obtain ⟨h1, h2, h3⟩ := key flipped s hnd (fun r hr => by
    refine ⟨rfl, ?_⟩
    have := (hmem r).mp hr
    cases h : shut r <;> cases h' : (s.room r).lamp.shut <;> simp_all)
  refine ⟨?_, h2, fun r => ?_⟩
  · exact hdef.trans h1
  · obtain ⟨g1, g⟩ := h3 r
    refine ⟨?_, g⟩
    rw [g1]
    split
    · rfl
    · rename_i hr
      rw [hmem] at hr
      exact (not_not.mp hr).symm

end Sys2Proof.Machine
end

