-- ==== Sys2Proof/Laws/Requests.lean ====
section
/-! SUPPORT. Program requests in the terms of Safety.lean: the raising of a request (R84, R104), the exhaustion of a recording
(R107), and the test of the flush end (R86). -/

namespace Sys2Proof.Machine

theorem requestFirst_eq (b p a : Nat) (l : List RecPage) :
    requestFirst b p a l = l.modify (l.findIdx (·.status = .full)) fun q => { q with status := .requested b p a } := by
  induction l with
  | nil => rfl
  | cons q l ih =>
    rw [requestFirst, List.findIdx_cons]
    by_cases h : q.status = .full
    · simp [RecPage.isFull, h]
    · simp [RecPage.isFull, h, ih]

/-- A request is due, by the counts of the ring (R84). -/
theorem Ring.programDue_iff (g : Ring) :
    g.programDue = true ↔
      g.outPrograms = 0 ∧ 1 ≤ g.recorded.countP (fun p => decide (p.status = .full)) ∨
        g.outPrograms = 1 ∧ (if g.ended then 1 else 2) ≤ g.recorded.countP fun p => decide (p.status = .full) := by
  simp only [Ring.programDue, Bool.or_eq_true, Bool.and_eq_true, decide_eq_true_eq]
  exact Iff.rfl

theorem State.lowTested_length (s : State) : s.lowTested.link.queue.length ≤ s.link.queue.length + 1 := by
  unfold State.lowTested State.placed
  split
  · simp only; split <;> simp
  · omega

theorem canAllocate_iff (s : State) (m : Message) : s.canAllocate m = true ↔ s.hasBlock m := by
  unfold State.canAllocate
  rw [Bool.and_eq_true, decide_eq_true_iff, Bool.not_eq_true', List.isEmpty_eq_false_iff]
  exact Iff.rfl

theorem allocate_eq {s : State} {b : Nat} {rest : List Nat} (h : s.store.free = b :: rest) (n given : Nat)
    (hq : s.link.queue.length < 64) :
    allocate n given s =
      State.lowTested { s with store := { s.store with
        free := rest
        messages := s.store.messages.map fun m =>
          if m.serial = n then
            { m with blocks := m.blocks ++ [{ block := b, valid := 0, retire := false }], written := given }
          else m } } := by
  simp only [allocate, h]
  exact storeLowTest_eq hq

/-- The oldest FULL page of ring `c` becomes REQUESTED with the flash page given (R84). -/
def requestRaised (c : ChannelIx) (block page : Nat) (y : State) : State :=
  let y' := y.updRing c fun r => { r with recorded := requestFirst block page y.port.nextAge r.recorded }
  { y' with port := { y'.port with nextAge := y'.port.nextAge + 1 } }

theorem requestRaised_lowTested (c : ChannelIx) (block page : Nat) (y : State) :
    requestRaised c block page y.lowTested = (requestRaised c block page y).lowTested := by
  have hp : y.lowTested.port = y.port := by unfold State.lowTested; split <;> rfl
  have hr : y.lowTested.rings = y.rings := by unfold State.lowTested; split <;> rfl
  unfold requestRaised
  simp only [State.updRing, State.ring, hp, hr]
  unfold State.lowTested
  split <;> rfl

/-- One request raised when it is due and a page can be given; the recording exhausted when none can (R84). -/
theorem raiseProgram_eq {z : State} {c : ChannelIx} {n : Nat} {m : Message} (hn : (z.chan c).current = some n)
    (h : z.message n = some m) (hq : z.link.queue.length < 64) :
    raiseProgram c z =
      if (z.ring c).programDue = true then
        if m.needsBlock ∧ ¬z.hasBlock m then exhaust c z else z.requests c m
      else z := by
  have hs : m.serial = n := State.message_serial h
  have hgive : givePage n z =
      if m.needsBlock then if z.hasBlock m then (some (z.store.free.headD 0, 0), allocate n 1 z) else (none, z)
      else (some ((m.blocks.getLast?.map (·.block)).getD 0, m.written),
        z.updMessage n fun m => { m with written := m.written + 1 }) := by
    simp only [givePage, h, ← canAllocate_iff]
    cases hl : m.blocks.getLast? with
    | none =>
      have : m.blocks = [] := List.getLast?_eq_none_iff.mp hl
      simp [Message.needsBlock, this]
    | some e =>
      have : m.blocks ≠ [] := by rintro h0; simp [h0] at hl
      by_cases hw : m.written < 16
      · simp [Message.needsBlock, this, hw]
      · simp [Message.needsBlock, this, hw, Nat.le_of_not_lt hw]
  have hr : ∀ b p (y : State), requestRaised c b p y =
      { y with rings := y.rings.set c
                 { y.ring c with
                   recorded := (y.ring c).recorded.modify ((y.ring c).recorded.findIdx (·.status = .full)) fun q =>
                     { q with status := .requested b p y.port.nextAge } }
               port := { y.port with nextAge := y.port.nextAge + 1 } } := by
    intro b p y; simp only [requestRaised, State.updRing, requestFirst_eq]
  have hraise : raiseProgram c z = if (z.ring c).programDue = true then
      match givePage n z with
      | (some (b, p), s') => requestRaised c b p s'
      | (none, s') => exhaust c s'
      else z := by
    simp only [raiseProgram, hn, Option.getD_some]; rfl
  rw [hraise, hgive]
  by_cases hd : (z.ring c).programDue = true
  swap
  · simp only [hd, if_false, Bool.false_eq_true]
  simp only [hd, if_true]
  by_cases hnb : m.needsBlock
  · by_cases hb : z.hasBlock m
    · obtain ⟨b, rest, hf⟩ := List.exists_cons_of_ne_nil hb.2
      rw [if_pos hnb, if_pos hb, if_neg (fun h => h.2 hb), allocate_eq hf n 1 hq]
      show requestRaised c _ 0 _ = _
      rw [requestRaised_lowTested, hr]
      simp only [State.requests, hnb, if_true, hf, List.headD_cons, List.tail_cons, hs]
      rfl
    · rw [if_pos hnb, if_neg hb, if_pos ⟨hnb, hb⟩]
  · rw [if_neg hnb, if_neg (fun h => hnb h.1)]
    show requestRaised c _ _ _ = _
    rw [hr]
    simp only [State.requests, hnb, if_false, hs, List.append_nil]
    rfl

/-- The test of the flush end (R86). -/
theorem flushTest_eq {s : State} {c : ChannelIx} (hp : s.prompted) (hb : s.marksBlank) (hq : s.link.queue.length < 64)
    (hr : (s.chan c).reading = false) (hl : (s.chan c).callerPresent = true → (s.chan c).playList ≠ []) :
    flushTest c s = s.flushTests c := by
  unfold flushTest State.flushTests
  split
  · exact flushEnd_eq hp hb hq hr hl
  · rfl

theorem State.placed_length (s : State) (k : Attention) : (s.placed k).link.queue.length ≤ s.link.queue.length + 1 := by
  unfold State.placed; simp only; split <;> simp

/-- A recording exhausted (R107), and the test of its flush end. -/
theorem exhaust_eq {s : State} {c : ChannelIx} (hp : s.prompted) (hb : s.marksBlank) (hq : s.link.queue.length < 63)
    (hr : (s.chan c).reading = false)
    (hl : (s.chan c).callerPresent = true → (s.chan c).state = .record ∨ (s.chan c).playList ≠ []) :
    exhaust c s = (s.exhausts c).flushTests c := by
  have he : exhaust c s = flushTest c (s.exhausts c) := by
    unfold exhaust State.exhausts
    simp only [List.isEmpty_iff, place_eq_placed (show s.link.queue.length < 64 by omega)]
    by_cases hf : s.store.free = []
    · by_cases hs : (s.chan c).state = .record
      · have hs' : ((((s.placed .storeFull).updRing c fun r => { r.discard with ended := true, exhausted := true }).chan c).state = .record) := hs
        simp only [hf, if_true, hs', hs]
        rfl
      · have hs' : ¬((((s.placed .storeFull).updRing c fun r => { r.discard with ended := true, exhausted := true }).chan c).state = .record) := hs
        simp only [hf, if_true, hs', hs, if_false]
        rfl
    · by_cases hs : (s.chan c).state = .record
      · have hs' : (((s.updRing c fun r => { r.discard with ended := true, exhausted := true }).chan c).state = .record) := hs
        simp only [hf, if_false, hs', hs, if_true]
        rfl
      · have hs' : ¬(((s.updRing c fun r => { r.discard with ended := true, exhausted := true }).chan c).state = .record) := hs
        simp only [hf, hs', hs, if_false]
        rfl
  rw [he]
  have hlen : (s.exhausts c).link.queue.length ≤ s.link.queue.length + 1 := by
    unfold State.exhausts
    simp only
    split <;> split <;> first | exact State.placed_length s .storeFull | exact Nat.le_succ s.link.queue.length
  have hstore : (s.exhausts c).store = s.store := by
    unfold State.exhausts
    simp only
    split <;> split <;> rfl
  have hchan : (s.exhausts c).chan c =
      if (s.chan c).state = .record then
        { s.chan c with state := .flush, playList := [if s.store.free = [] then pStoreFull else pTimeLimit, pGoodbye] }
      else s.chan c := by
    unfold State.exhausts
    simp only
    split
    · simp [State.withChan, State.chan]
    · split <;> rfl
  refine flushTest_eq (fun id => by rw [hstore]; exact hp id) (fun m hm => hb m (by rw [← hstore]; exact hm)) (by omega)
    ?_ ?_
  · rw [hchan]; split <;> exact hr
  · rw [hchan]
    split
    · intro _; simp
    · rename_i h; intro hc; exact (hl hc).resolve_left h

/-! ## The requests due (R84) -/

theorem countP_modify_first (l : List RecPage) (p : RecPage → Bool) (f : RecPage → RecPage) (hp : ∀ q, p (f q) = false)
    (h : 1 ≤ l.countP p) : (l.modify (l.findIdx p) f).countP p + 1 = l.countP p := by
  induction l with
  | nil => simp at h
  | cons q l ih =>
    rw [List.findIdx_cons]
    by_cases hq : p q = true
    · simp [hq, hp]
    · simp only [Bool.not_eq_true] at hq
      have := ih (by simpa [hq] using h)
      simpa [hq] using this

theorem countP_modify_other (l : List RecPage) (p r : RecPage → Bool) (f : RecPage → RecPage)
    (hpr : ∀ q, p q = true → r q = false) (hr : ∀ q, r (f q) = true) (h : 1 ≤ l.countP p) :
    (l.modify (l.findIdx p) f).countP r = l.countP r + 1 := by
  induction l with
  | nil => simp at h
  | cons q l ih =>
    rw [List.findIdx_cons]
    by_cases hq : p q = true
    · simp [hq, hr, hpr]
    · simp only [Bool.not_eq_true] at hq
      have := ih (by simpa [hq] using h)
      simp only [hq, cond_false, List.modify_succ_cons, List.countP_cons, this]
      omega

/-- The full pages of a ring. -/
def Ring.fullPages (g : Ring) : Nat := g.recorded.countP fun p => decide (p.status = .full)

theorem State.requests_ring {z : State} {c : ChannelIx} {m : Message} (h : 1 ≤ (z.ring c).fullPages) :
    ((z.requests c m).ring c).outPrograms = (z.ring c).outPrograms + 1 ∧
      ((z.requests c m).ring c).fullPages + 1 = (z.ring c).fullPages ∧
      ((z.requests c m).ring c).ended = (z.ring c).ended := by
  have hr : ∀ y : State, y.lowTested.ring c = y.ring c := by intro y; unfold State.lowTested; split <;> rfl
  have hring : ∃ b p, (z.requests c m).ring c =
      { z.ring c with
        recorded := (z.ring c).recorded.modify ((z.ring c).recorded.findIdx (·.status = .full)) fun q =>
          { q with status := .requested b p z.port.nextAge } } := by
    refine ⟨if m.needsBlock then z.store.free.headD 0 else (m.blocks.getLast?.map (·.block)).getD 0,
      if m.needsBlock then 0 else m.written, ?_⟩
    unfold State.requests
    simp only
    split
    · rw [hr]; simp [State.ring]
    · simp [State.ring]
  obtain ⟨b, p, hring⟩ := hring
  rw [hring]
  refine ⟨?_, ?_, rfl⟩
  · simp only [Ring.outPrograms]
    rw [countP_modify_other _ _ RecPage.inProgram _ (by intro q hq; simp [RecPage.inProgram, of_decide_eq_true hq]) (by intro q; rfl) h]
    omega
  · exact countP_modify_first _ _ _ (by intro q; rfl) h

theorem State.requests_frame (z : State) (c : ChannelIx) (m : Message) :
    (z.requests c m).channels = z.channels ∧ (z.requests c m).link.queue.length ≤ z.link.queue.length + 1 := by
  unfold State.requests
  simp only
  split
  · refine ⟨?_, State.lowTested_length _⟩
    rw [State.lowTested_frame]
  · exact ⟨rfl, Nat.le_succ _⟩

theorem State.starts_recorded (z : State) (c : ChannelIx) (i : PlayItem) :
    ((z.starts c i).ring c).recorded = (z.ring c).recorded := by
  have h1 : ∀ g : Ring, g.raiseRead.recorded = g.recorded := by intro g; unfold Ring.raiseRead; split <;> rfl
  simp [State.starts, State.ring, Ring.raiseReads, h1, Ring.leave]

theorem State.flushTests_recorded (z : State) (c : ChannelIx) :
    ((z.flushTests c).ring c).recorded = (z.ring c).recorded := by
  have hd : ∀ n v (y : State), (y.commits n v).rings = y.rings := by
    intro n v y
    unfold State.commits
    split
    · rfl
    · simp only
      split
      · rw [State.deletes_frame]
      · simp
  unfold State.flushTests
  split
  swap
  · rfl
  unfold State.flushEnds
  simp only
  have hy : ((z.chan c).current.elim z fun n => z.commits n (z.encoder c).voiceFrames).rings = z.rings := by
    cases (z.chan c).current with
    | none => rfl
    | some n => exact hd _ _ _
  split
  · rw [State.starts_recorded]
    simp only [State.ring, State.withChan, hy]
  · simp only [State.frees, State.ring, State.withChan, State.leaves, hy, Ring.leave]
    simp

/-- The requests due raised: none, one, two, or the exhaustion of the recording (R84, R107). -/
theorem raisePrograms_eq {z : State} {c : ChannelIx} {n : Nat} {m : Message} (hn : (z.chan c).current = some n)
    (h : z.message n = some m) (hq : z.link.queue.length < 63) :
    let g := z.ring c
    let due := g.outPrograms = 0 ∧ 1 ≤ g.fullPages ∨ g.outPrograms = 1 ∧ (if g.ended then 1 else 2) ≤ g.fullPages
    let more := g.outPrograms = 0 ∧ (if g.ended then 2 else 3) ≤ g.fullPages
    let can (m : Message) (z : State) := m.needsBlock → z.hasBlock m
    (¬due → raisePrograms c z = z) ∧
    (due → ¬more → can m z → raisePrograms c z = z.requests c m) ∧
    (∀ m', more → can m z → (z.requests c m).message n = some m' → can m' (z.requests c m) →
      raisePrograms c z = (z.requests c m).requests c m') ∧
    (due → ¬can m z → z.prompted → z.marksBlank → (z.chan c).reading = false →
      ((z.chan c).callerPresent = true → (z.chan c).state = .record ∨ (z.chan c).playList ≠ []) →
      raisePrograms c z = (z.exhausts c).flushTests c) := by
  intro g due more can
  have hdue : (z.ring c).programDue = true ↔ due := Ring.programDue_iff _
  have hmore : more → due := by
    rintro ⟨h0, h1⟩; left; refine ⟨h0, ?_⟩; split at h1 <;> omega
  have h1 := raiseProgram_eq hn h (show z.link.queue.length < 64 by omega)
  have hcan : can m z → ¬(m.needsBlock ∧ ¬z.hasBlock m) := fun hc hh => hh.2 (hc hh.1)
  have hfull : due → 1 ≤ g.fullPages := by
    rintro (⟨-, h⟩ | ⟨-, h⟩)
    · exact h
    · split at h <;> omega
  have hstep : due → can m z → raisePrograms c z = raiseProgram c (z.requests c m) := by
    intro hd hc
    rw [raisePrograms, h1, if_pos (hdue.mpr hd), if_neg (hcan hc)]
  refine ⟨fun hd => ?_, fun hd hm hc => ?_, fun m' hm hc hm' hc' => ?_, fun hd hc hp hb hr hl => ?_⟩
  · have : raiseProgram c z = z := by rw [h1, if_neg (mt hdue.mp hd)]
    rw [raisePrograms, this, this]
  · rw [hstep hd hc]
    obtain ⟨ho, hf, he⟩ := State.requests_ring (m := m) (hfull hd)
    have : ¬((z.requests c m).ring c).programDue = true := by
      rw [Ring.programDue_iff]
      rintro (⟨h0, -⟩ | ⟨h0, h2⟩)
      · omega
      · refine hm ⟨by show (z.ring c).outPrograms = 0; omega, ?_⟩
        change _ ≤ Ring.fullPages _ at h2
        rw [he] at h2
        show (if (z.ring c).ended = true then 2 else 3) ≤ (z.ring c).fullPages
        split <;> simp_all <;> omega
    rw [raiseProgram, if_neg this]
  · rw [hstep (hmore hm) hc]
    obtain ⟨ho, hf, he⟩ := State.requests_ring (m := m) (hfull (hmore hm))
    have hfr := State.requests_frame z c m
    have hn' : ((z.requests c m).chan c).current = some n := by rw [State.chan, hfr.1]; exact hn
    rw [raiseProgram_eq hn' hm' (by omega), if_pos, if_neg (fun hh => hh.2 (hc' hh.1))]
    rw [Ring.programDue_iff]
    right
    refine ⟨by have : (z.ring c).outPrograms = 0 := hm.1; omega, ?_⟩
    show _ ≤ Ring.fullPages _
    have h2 : (if (z.ring c).ended = true then 2 else 3) ≤ (z.ring c).fullPages := hm.2
    rw [he]
    cases hE : (z.ring c).ended <;> simp only [hE, Bool.false_eq_true, if_true, if_false] at h2 ⊢ <;> omega
  · have hnb : m.needsBlock ∧ ¬z.hasBlock m := by
      simp only [can, Classical.not_imp] at hc; exact hc
    rw [raisePrograms, h1, if_pos (hdue.mpr hd), if_pos hnb, exhaust_eq hp hb hq hr hl]
    have hrec : (((z.exhausts c).flushTests c).ring c).recorded = (z.ring c).recorded.filter (·.isProgramming) := by
      rw [State.flushTests_recorded]
      unfold State.exhausts
      simp only
      split <;> simp [State.ring, State.withChan]
    have hz : Ring.fullPages (((z.exhausts c).flushTests c).ring c) = 0 := by
      rw [Ring.fullPages, hrec, List.countP_eq_zero]
      intro p hp hfull
      have h2 := (List.mem_filter.mp hp).2
      simp [RecPage.isProgramming, of_decide_eq_true hfull] at h2
    rw [raiseProgram, if_neg]
    rw [Ring.programDue_iff]
    change ¬(_ ∧ 1 ≤ Ring.fullPages _ ∨ _ ∧ _ ≤ Ring.fullPages _)
    rw [hz]
    rintro (⟨-, h⟩ | ⟨-, h⟩)
    · omega
    · split at h <;> omega

end Sys2Proof.Machine
end

