-- ==== Sys2Proof/Tests/Slice0.lean ====
section
/-! SUPPORT. Tests. First the ill-formed terms that `Instr.wf` refuses, then figures worked by hand from the rules, then one
witness for each statement of Obligations.lean that has hypotheses: concrete states and operands that meet the hypotheses of
each of its clauses together, at the ends of their ranges where they have ends. -/

namespace Sys2Proof.Tests

open Sys2Proof Sys2Proof.Machine

/-! ## States to test on -/

/-- The reset state in service, the highway present and the flash port idle. -/
def service : State :=
  { State.reset with
    service := .inService
    highway := { State.reset.highway with presence := .present }
    port := { State.reset.port with state := .idle } }

/-- A loaded, occupied room with extension 101. -/
def guest : Room := { Room.reset with loaded := true, extension := some 101, occupancy := .occupied }

/-- The state in service with room 5 as given, its extension 101 in the directory. -/
def hotel (x : Room) : State := { service with rooms := service.rooms.set 5 x, directory := [(101, 5)] }

/-- `s` with `n` frames in its outbound queue. -/
def queued (n : Nat) (s : State) : State :=
  { s with link := { s.link with queue := List.replicate n (.slotDone 0 .completed) } }

/-- `s` with every prompt in the prompt directory. -/
def prompted (s : State) : State :=
  { s with store := { s.store with prompts := Vector.replicate 32 (some { first := 0, count := 1 }) } }

theorem prompted_prompted (s : State) : (prompted s).prompted := by intro id; simp [prompted]

theorem marksBlank_of {s : State} (h : ∀ m ∈ s.store.messages, m.blank14 = true ∧ m.blank15 = true) : s.marksBlank := h

theorem service_trunk (t : TrunkIx) : service.trunk t = Trunk.reset := by simp [service, State.trunk, State.reset]
theorem service_meter (m : MeterIx) : service.meter m = none := by simp [service, State.meter, State.reset]
theorem service_binding (k : Fin 126) : service.highway.bindings[k] = none := by simp [service, State.reset]
theorem service_chan (c : ChannelIx) : service.chan c = Channel.reset := by simp [service, State.chan, State.reset]
theorem service_ring (c : ChannelIx) : service.ring c = Ring.reset := by simp [service, State.ring, State.reset]

theorem reset_codersInRange : CodersInRange State.reset := by
  refine ⟨fun c => ?_, fun k => ?_⟩
  · simp [State.encoder, State.decoder, State.reset, Encoder.reset, Decoder.reset, Quantiser.reset, Quantiser.inRange]
  · simp [State.reset]

/-! ## Ill-formed terms -/

theorem smoke_wf_highwayFrame : (Instr.highwayFrame (List.replicate 129 0)).wf = false := by decide +kernel
theorem smoke_wf_extension : (Instr.seizeOut 0 1000000).wf = false ∧ (Instr.hook 1000000 true).wf = false := by decide
theorem smoke_wf_digits :
    (Instr.digit 0 []).wf = false ∧ (Instr.digit 0 [10]).wf = false ∧ (Instr.digit 0 (List.replicate 21 1)).wf = false := by
  decide
theorem smoke_wf_extensionOctets :
    (Instr.divert 0 16777216 .deposit).wf = false ∧ (Instr.lampSense 16777216 .ok).wf = false := by decide
theorem smoke_wf_table : (Instr.loadTableClass 1 (List.replicate 59 0)).wf = false := by decide
theorem smoke_wf_payload : (Instr.queryStatus 1 (List.replicate 60 0)).wf = false := by decide

/-! ## Figures worked by hand from the rules -/

/-- R11's example: the POST_PAYMENT frame of TAG 0x21, room 126 and amount 500, its CHECK being 0x1C. -/
theorem test_postPayment_frame :
    envelope 0x00 0x4A [0x21, 0x00, 0x7E, 0x00, 0x01, 0xF4] =
      [0x7E, 0x00, 0x4A, 0x06, 0x21, 0x00, 0x7E, 0x00, 0x01, 0xF4, 0x1C] := by decide

/-- R11's example: with its LEN damaged to 0x46 the frame delivers nothing and the framer ends in HUNT. -/
theorem test_damaged_length :
    Framer.run [0x7E, 0x00, 0x4A, 0x46, 0x21, 0x00, 0x7E, 0x00, 0x01, 0xF4, 0x1C, 0xFF] .hunt = (.hunt, []) := by decide

/-- The example table of section 4.2: E[k] = 64 × (k − 128). -/
def exampleTable : Vector Int 256 := Vector.ofFn fun k => 64 * ((k.val : Int) - 128)

/-- Section 4.2's figures: the silence code is 128, and 60, 116, 92, 32 and 8,191 recompand to 129, 130, 129, 128 and 255. -/
theorem test_recompand :
    silenceCodeOf exampleTable = 128 ∧ recompand exampleTable 60 = 129 ∧ recompand exampleTable 116 = 130 ∧
      recompand exampleTable 92 = 129 ∧ recompand exampleTable 32 = 128 ∧ recompand exampleTable 8191 = 255 := by
  decide +kernel

/-- R71's table of step sizes, at its ends and in its middle. -/
theorem test_quantStep :
    [0, 3, 8, 12, 19, 39].map quantStep = [4, 7, 16, 32, 112, 3584] := by decide

/-- Section 4.4's worked encoding: from p = 0 and i = 8 the samples 100, 110 and 90 give the nibbles 7, 3 and 9 and leave
p = 92 and i = 11. -/
theorem test_worked_encoding :
    let e := [100, 110, 90].foldl (fun (e : Encoder) x => e.take x) (encoderStarted 120 8)
    e.nibbles = [7, 3, 9] ∧ e.quant = { p := 92, i := 11 } ∧ e.peak = 110 ∧ packNibbles [7, 3, 9, 0] = [0x73, 0x90] := by
  decide

/-- R79's header clamp: a predictor of 32,767 is held at 8,191 and tag 0xA7 gives i = 39. -/
theorem test_header_clamp : clampLinear (fieldInt16 0x7F 0xFF) = 8191 ∧ (0xA7 : Octet).toNat - 0x80 = 39 := by decide

/-- Section 2.3's figures: a base of 178 at a markup of 125 per mille is 200, and one of 208 is 234. -/
theorem test_markedUp : markedUp 178 125 = 200 ∧ markedUp 208 125 = 234 := by decide

/-- R159: a call answered at 23:59:50 and closed at 00:00:20 of the next day lasted 30 seconds; a clock set back gives 0. -/
theorem test_duration :
    duration 7 86390 { State.reset.clock with day := 8, seconds := 20 } = 30 ∧
      duration 7 86390 { State.reset.clock with day := 7, seconds := 20 } = 0 := by decide

/-- R46: a message count above 99 is spoken as 99, and 0 as DIGIT_0. -/
theorem test_spokenCount : spokenCount 100 = [.prompt 29, .prompt 29] ∧ spokenCount 0 = [.prompt 20] := by decide

/-- R75: a pending silence of 300 frames is two runs of 127 and one of 46. -/
theorem test_silenceRuns : silenceRuns 300 = [[0x7F], [0x7F], [0x2E]] := by decide

/-- R128: a NEW urgent message lights FAST, another NEW message SLOW, the desk flag STEADY. -/
theorem test_desiredLamp :
    desiredLamp { guest with urgentCount := 1, newCount := 1 } = .fast ∧ desiredLamp { guest with newCount := 1 } = .slow ∧
      desiredLamp { guest with desk := true } = .steady ∧ desiredLamp { guest with occupancy := .vacant, desk := true } = .off := by
  decide

/-- R93: the row address of block 64 is 0x00, 0x04, 0x00, low octet first. -/
theorem test_erase_cycles :
    (FlashOp.erase 64).cycles = [.command 0x60, .address 0x00, .address 0x04, .address 0x00, .command 0xD0] := by decide

/-- R20: the flags and codes of QUERY_STATUS's reply at reset: SETUP, CLOCK_UNSET in the attention set, clock unset. -/
theorem test_queryStatus_reset :
    (match step { State.reset with pending := [.queryStatus 0x21 []] } with
     | .next t => t.link.queue
     | _ => []) =
      [.reply 0x21 .ok [0, 0x01, 0x00, 0, 0, 0, 0, 0, 0, 1, 0, 0, 0, 0, 0, 0]] := by decide +kernel

/-! ## Witnesses: the queue, reset, the highway and the link -/

theorem witness_StepRunsTheFrontCommand :
    State.reset.pending = [] ∧ { State.reset with pending := [.tick, .sweep] }.pending = .tick :: [.sweep] := ⟨rfl, rfl⟩

theorem witness_DeviceResetAndRelease :
    State.reset.resetLow = false ∧ (heldReset State.reset).resetLow = true ∧ (List.replicate 128 (0 : Octet)).length ≤ 128 ∧
      Instr.tick ≠ .deviceReset ∧ Instr.tick ≠ .resetRelease ∧ ∀ hin, Instr.tick ≠ .highwayFrame hin := by
  refine ⟨rfl, rfl, ?_, by decide, by decide, fun _ => by simp⟩
  simp

/-- The reset state meets the hypotheses with a frame of 128 octets: slots 0 and 125, unbound, are reached, and slot 126. -/
theorem witness_FramePassesUnboundSlots :
    State.reset.resetLow = false ∧ State.reset.highway.presence ≠ .lost ∧ (List.replicate 128 (0x55 : Octet)).length ≤ 128 ∧
      State.reset.highway.bindings[(0 : Fin 126)] = none ∧ State.reset.highway.bindings[(125 : Fin 126)] = none ∧
      125 < (List.replicate 128 (0x55 : Octet)).length ∧ 126 < (List.replicate 128 (0x55 : Octet)).length := by
  simp [State.reset]

theorem service_quiet : service.quietHighway := ⟨service_binding, rfl, rfl⟩

/-- Each of the three cases of a whole frame, and the frame cut just before slot 127. -/
theorem witness_TransmitterSendsInSlot127 :
    (service.resetLow = false ∧ service.highway.presence = .present ∧ service.service ≠ .suspending ∧
      service.quietHighway) ∧
    (List.replicate 128 (0xFF : Octet)).length = 128 ∧ (List.replicate 128 (0xFF : Octet)).getD 126 0xFF ≠ 0x7E ∧
    (List.replicate 128 (0xFF : Octet)).getD 127 0xFF ≠ 0x7E ∧ (List.replicate 127 (0xFF : Octet)).length < 128 ∧
    (service.link.sending = [] ∧ service.link.queue = []) ∧
    (queued 1 service).link.queue = .slotDone 0 .completed :: [] ∧ (queued 1 service).link.sending = [] ∧
    { service with link := { service.link with sending := [0x01, 0x02] } }.link.sending = 0x01 :: [0x02] := by
  refine ⟨⟨rfl, rfl, by decide, service_quiet⟩, ?_⟩
  simp [service, State.reset, queued]

/-- Missing-sync counts 0, 14 and 15 in PRESENT, and a frame of 126 octets in LOST. -/
theorem witness_LossAndReturn :
    State.reset.resetLow = false ∧ State.reset.highway.presence ≠ .present ∧
    (service.highway.presence = .present ∧ service.highway.missing + 1 < 16) ∧
    (let s := { service with highway := { service.highway with missing := 15 } }
     s.resetLow = false ∧ s.highway.presence = .present ∧ s.highway.missing = 15) ∧
    (let s := { service with highway := { service.highway with presence := .lost, missing := 16 } }
     s.resetLow = false ∧ s.highway.presence = .lost ∧ s.service ≠ .suspending ∧ s.quietHighway ∧
       (∀ c, (s.chan c).slot = none) ∧ (List.replicate 126 (0x55 : Octet)).length < 127) := by
  refine ⟨rfl, by decide, ⟨rfl, by decide⟩, ⟨rfl, rfl, rfl⟩, rfl, rfl, by decide, ?_, ?_, by simp⟩
  · exact ⟨service_binding, rfl, rfl⟩
  · intro c
    show (service.chan c).slot = none
    rw [service_chan]; rfl

/-- A highway lost with a caller bound to slot 7, the outbound queue with one entry free. -/
theorem witness_LossAndReturn_bound :
    let x : Channel := { Channel.reset with state := .greet, slot := some 7 }
    let s : State :=
      { service with
        highway := { service.highway with presence := .lost, bindings := service.highway.bindings.set 7 (some 3) }
        channels := service.channels.set 3 x }
    s.resetLow = false ∧ s.highway.presence = .lost ∧ BindingsOneToOne s ∧ (queued 63 s).link.queue.length < 64 ∧
      (s.chan 3).slot.isSome := by
  intro x s
  have hb : ∀ k : Fin 126, s.highway.bindings[k] = if k = 7 then some 3 else none := by
    intro k
    by_cases h : k = 7
    · subst h; rfl
    · have : (7 : Nat) ≠ k.val := fun h' => h (Fin.ext h'.symm)
      simp only [s, h, if_false, Fin.getElem_fin]
      rw [Vector.getElem_set_ne _ _ this]; exact service_binding k
  have hc : ∀ c, s.chan c = if c = 3 then x else Channel.reset := by
    intro c
    by_cases h : c = 3
    · subst h; rfl
    · have : (3 : Nat) ≠ c.val := fun h' => h (Fin.ext h'.symm)
      simp only [s, h, if_false, State.chan, Fin.getElem_fin]
      rw [Vector.getElem_set_ne _ _ this]; exact service_chan c
  refine ⟨rfl, rfl, ⟨fun k c => ?_, fun c h => ?_, fun k t _ => ?_⟩, by simp [queued], rfl⟩
  · rw [hb, hc]
    by_cases h : k = 7 <;> by_cases h' : c = 3 <;> simp [h, h', x, Channel.reset, eq_comm]
  · rw [hc] at h ⊢
    split at h
    · simp [x] at h
    · rename_i h'; rw [if_neg h']; rfl
  · show (service.trunk t).slot ≠ some k
    rw [service_trunk]; simp [Trunk.reset]

/-- A tick due in mid-day, and one due in the last second of the day. -/
theorem witness_TickAdvancesClockAndTimers :
    let s (n : Nat) := { service with clock := { service.clock with frames := 8000, seconds := n } }
    (s 86398).resetLow = false ∧ (s 86398).highway.presence = .present ∧ (s 86398).clock.frames = 8000 ∧
      (s 86398).clock.seconds < 86400 ∧ (s 86398).clock.seconds ≠ 86399 ∧
      (s 86399).clock.seconds < 86400 ∧ (s 86399).clock.seconds = 86399 := by decide

/-- 86,399 and day-of-week 6 are the largest values taken; 86,400, or day-of-week 7, is refused. -/
theorem witness_SetClockLoadsTheClock :
    State.reset.ready ∧ field24 0x01 0x51 0x80 = 86400 ∧ (0x07 : Octet).toNat = 7 ∧
      field24 0x01 0x51 0x7F = 86399 ∧ (0x06 : Octet).toNat = 6 := by
  refine ⟨⟨rfl, rfl, by decide⟩, by decide, by decide, by decide, by decide⟩

theorem witness_FramerReadsBackEnvelopes :
    (List.replicate 60 (0x7E : Octet)).length ≤ 60 ∧ ([] : List Octet).length ≤ 60 ∧
      (0x00 : Octet) ≠ checkOctet [0x00, 0x4A, 0x06, 0x21, 0x00, 0x7E, 0x00, 0x01, 0xF4] ∧ 60 < (0x3D : Octet).toNat ∧
      (0xFF : Octet) ≠ 0x7E := by
  refine ⟨by simp, by simp, by decide, by decide, by decide⟩

theorem witness_LinkFramesCarryTheCommands :
    (Instr.hook 999999 true).wf = true ∧ State.reset.resetLow = false ∧
      exchangeFrame (.hook 999999 true) = some (0x14, [0x0F, 0x42, 0x3F, 0x01]) ∧
      (Instr.loadTableClass 1 (List.replicate 58 0)).wf = true ∧
      controllerFrame (.loadTableClass 1 (List.replicate 58 0)) = some (0x45, 1 :: 1 :: List.replicate 58 0) := by
  decide

/-- A message record with every field of its header at its largest value. -/
def lastMessage : Message :=
  { serial := 4294967295, room := 2047, state := .new, urgent := true, origin := some 999999, day := 65535, second := 86399,
    readers := 0, deletedPending := false, head := none, blocks := [], blank14 := true, blank15 := true, written := 0 }

theorem witness_FlashRecordsReadBack :
    lastMessage.serial ≤ 4294967295 ∧ lastMessage.day ≤ 65535 ∧ lastMessage.second < 86400 ∧
      (∀ x, lastMessage.origin = some x → x ≤ 999999) ∧ (1 ≤ 1 ∧ 1 ≤ 319) ∧ (1 ≤ 319 ∧ 319 ≤ 319) := by
  refine ⟨by decide, by decide, by decide, ?_, by decide, by decide⟩
  intro x h
  simp only [lastMessage, Option.some.injEq] at h
  omega

/-! ## Witnesses: rooms, classes and the management commands -/

theorem service_ready : service.ready := ⟨rfl, rfl, by decide⟩
theorem hotel_ready (x : Room) : (hotel x).ready := ⟨rfl, rfl, by show 0 < 64; decide⟩

/-- Room 2047 with extension 999,999 and class 15, free to load; and room 4 asking for the extension of room 5. -/
theorem witness_LoadRoomLoadsTheRecord :
    (service.ready ∧ service.service ≠ .mounting ∧ field16 0x07 0xFF = (2047 : RoomIx).val ∧
      field24 0x0F 0x42 0x3F ≤ 999999 ∧ (0x0F : Octet).toNat ≤ 15 ∧
      ∀ r' : RoomIx, (field24 0x0F 0x42 0x3F, r') ∈ service.directory → r' = 2047) ∧
    ((hotel guest).ready ∧ (hotel guest).service ≠ .mounting ∧ field16 0x00 0x04 = (4 : RoomIx).val ∧
      field24 0x00 0x00 0x65 ≤ 999999 ∧
      ∃ r' : RoomIx, (field24 0x00 0x00 0x65, r') ∈ (hotel guest).directory ∧ r' ≠ 4) := by
  refine ⟨⟨service_ready, by decide, by decide, by decide, by decide, ?_⟩, hotel_ready _, by decide, by decide, by decide, 5, ?_⟩
  · intro r' h
    simp [service, State.reset] at h
  · decide

/-- A VACANT room, one with a recording, and an OCCUPIED one; the largest credit limit. -/
theorem witness_CheckInOpensTheStay :
    let vacant := { guest with occupancy := .vacant }
    ((hotel vacant).ready ∧ (hotel vacant).service ≠ .mounting ∧ field16 0x00 0x05 = (5 : RoomIx).val ∧
      field24 0x98 0x96 0x7F ≤ 9999999 ∧ ((hotel vacant).room 5).loaded = true ∧
      ((hotel vacant).room 5).occupancy = .vacant ∧ ((hotel vacant).room 5).recordings = 0) ∧
    (((hotel { vacant with recordings := 1 }).room 5).occupancy = .vacant ∧
      0 < ((hotel { vacant with recordings := 1 }).room 5).recordings) ∧
    ((hotel guest).room 5).occupancy ≠ .vacant := by
  refine ⟨⟨hotel_ready _, ?_⟩, ?_⟩ <;> decide

/-- A CHECK_OUT with no open meter, one with an open meter, and one with the admission sum at 256. -/
theorem witness_CheckOutClosesTheStay :
    let full := { hotel guest with checkouts := 256 }
    ((hotel guest).ready ∧ (hotel guest).service ≠ .mounting ∧ (hotel guest).service ≠ .suspending ∧
      field16 0x00 0x05 = (5 : RoomIx).val ∧ ((hotel guest).room 5).loaded = true ∧
      ((hotel guest).room 5).occupancy = .occupied ∧
      (hotel guest).charges.length + (hotel guest).openMeters + (hotel guest).checkouts + 1 ≤ 256 ∧
      (hotel guest).charges.length < 223 ∧ ((hotel guest).room 5).mailbox = [] ∧
      ((hotel guest).room 5).openMeters = 0 ∧ ((hotel { guest with openMeters := 1 }).room 5).openMeters ≠ 0) ∧
    (∀ c, ((hotel guest).chan c).slot = none ∨ ((hotel guest).chan c).kind ≠ some .retrieve ∨
      ((hotel guest).chan c).room ≠ some 5) ∧
    ((full.room 5).occupancy = .occupied ∧ 256 < full.charges.length + full.openMeters + full.checkouts + 1 ∧
      full.link.queue.length < 63) ∧
    ((hotel { guest with occupancy := .vacant }).room 5).occupancy ≠ .occupied := by
  refine ⟨⟨hotel_ready _, ?_⟩, ?_, ?_, ?_⟩
  · decide +kernel
  · intro c
    show (service.chan c).slot = none ∨ _
    rw [service_chan]; exact .inl rfl
  · decide +kernel
  · decide

/-- Payments at the largest amount; a room at its limit, and one with no limit; both values of the desk flag. -/
theorem witness_AccountCommands :
    let limited := { guest with creditLimit := 1, balance := 1 }
    ((hotel guest).ready ∧ (hotel guest).service ≠ .mounting ∧ field16 0x00 0x05 = (5 : RoomIx).val ∧
      ((hotel guest).room 5).loaded = true ∧ field24 0x98 0x96 0x7F ≤ 9999999 ∧
      ((hotel guest).room 5).occupancy ≠ .vacant ∧ ((hotel { guest with occupancy := .vacant }).room 5).occupancy = .vacant ∧
      ((hotel guest).room 5).creditLimit = 0 ∧ (0x01 : Octet).toNat ≤ 1 ∧ (0x00 : Octet).toNat ≤ 1 ∧
      ((hotel guest).room 5).occupancy = .occupied ∧ ((hotel { guest with occupancy := .vacant }).room 5).occupancy ≠ .occupied) ∧
    (((hotel limited).room 5).creditLimit ≠ 0 ∧ ((hotel limited).room 5).creditLimit ≤ (hotel limited).exposure 5) := by
  refine ⟨⟨hotel_ready _, ?_⟩, ?_⟩ <;> decide +kernel

/-- A message of room 5, HEARD, its first block on flash. -/
def heard : Message :=
  { serial := 9, room := 5, state := .heard, urgent := false, origin := none, day := 0, second := 0, readers := 0,
    deletedPending := false, head := some 64, blocks := [{ block := 64, valid := 1, retire := false }],
    blank14 := true, blank15 := true, written := 1 }

/-- A message of serial 9 that is being recorded into block 64. -/
def taken : Message := { heard with state := .recording, head := none, blocks := [{ block := 64, valid := 0, retire := false }] }

/-- The state in service with message `m` in the directory and in the mailbox of room 5. -/
def mailed (m : Message) : State :=
  let s := hotel { guest with mailbox := [m.serial] }
  { s with store := { s.store with mounted := true, messages := [m] } }

theorem witness_DeleteMessagesEmptiesTheMailbox :
    ((hotel guest).ready ∧ (hotel guest).service ≠ .mounting ∧ (hotel guest).service ≠ .suspending ∧
      field16 0x00 0x05 = (5 : RoomIx).val ∧ ((hotel guest).room 5).mailbox = []) ∧
    ((mailed heard).ready ∧ ((mailed heard).room 5).mailbox = [9] ∧ (mailed heard).message 9 = some heard ∧
      heard.room = 5 ∧ heard.state = .heard ∧ heard.readers = 0 ∧ heard.deletedPending = false ∧ heard.blank15 = true ∧
      heard.unprogrammed = false ∧ (mailed heard).programming 9 = false) := by
  refine ⟨⟨hotel_ready _, ?_⟩, ⟨rfl, rfl, ?_⟩, ?_⟩ <;> decide

/-- A HEARD message whose page 15 is not blank, its block to be retired, with 62 frames in the queue. -/
theorem witness_DeleteMessagesEmptiesTheMailbox_failed :
    let m := { heard with blank15 := false, blocks := [{ block := 64, valid := 1, retire := true }] }
    let s := queued 62 (mailed m)
    s.ready ∧ (s.room 5).mailbox = [9] ∧ s.message 9 = some m ∧ m.room = 5 ∧ m.state = .heard ∧ m.readers = 0 ∧
      m.deletedPending = false ∧ m.unprogrammed = false ∧ s.programming 9 = false ∧ s.link.queue.length < 63 :=
  ⟨⟨rfl, rfl, by decide⟩, by decide⟩

theorem witness_QueriesReport : (hotel guest).ready ∧ field16 0x00 0x05 = (5 : RoomIx).val :=
  ⟨hotel_ready _, by decide⟩

/-- A class load with its fields at the lowest values, one with them at the highest, and one that is refused. -/
theorem witness_ClassLoad :
    service.ready ∧ service.service ≠ .mounting ∧
    (let passes (k mb l1 l0 nv mt gr m1 m0 ta bl cr sd lr ft : Octet) :=
      k.toNat ≤ 15 ∧ 1 ≤ mb.toNat ∧ mb.toNat ≤ 64 ∧ 10 ≤ field16 l1 l0 ∧ field16 l1 l0 ≤ 600 ∧
      nv.toNat ≤ 30 ∧ 2 ≤ mt.toNat ∧ mt.toNat ≤ 30 ∧ gr.toNat ≤ 60 ∧ field16 m1 m0 ≤ 2000 ∧ ta.toNat ≤ 120 ∧
      bl.toNat ≤ 1 ∧ cr.toNat ≤ 1 ∧ sd.toNat ≤ 1 ∧ lr.toNat ≤ 1 ∧
      (ft.toNat = 1 ∨ ft.toNat = 2 ∨ ft.toNat = 4 ∨ ft.toNat = 8)
     passes 0 1 0 10 0 2 0 0 0 0 0 0 0 0 1 ∧ passes 15 64 2 0x58 30 30 60 7 0xD0 120 1 1 1 1 8 ∧
       ¬passes 0 1 0 10 0 2 0 0 0 0 0 0 0 0 3) ∧
    (service.room 0).cls = 0 ∧ (service.room 0).cls ≠ 15 := by
  refine ⟨service_ready, ?_⟩
  decide

/-- Prefix loads that pass at index 0 with 1 digit, at index 511 with 16 digits, at index 512 and with a digit count of 0, and
ones refused at each check; band-periods and schedules at the ends of their ranges. -/
theorem witness_TariffLoads :
    let zeros : List Octet := [0, 0, 0, 0, 0, 0, 0, 0]
    let nines : List Octet := [0x99, 0x99, 0x99, 0x99, 0x99, 0x99, 0x99, 0x99]
    let held : State :=
      { service with tariff := { service.tariff with
          entries := service.tariff.entries.set 0 (some { digits := [0], action := .free, bar := 0 }) } }
    (service.ready ∧ service.service ≠ .mounting ∧ field16 0x01 0xFF < 512 ∧ field16 0x02 0x00 = 512 ∧
      512 < field16 0x02 0x01 ∧ (0x01 : Octet).toNat = 1 ∧ (0x1F : Octet).toNat ≤ 31 ∧ 31 < (0x20 : Octet).toNat) ∧
    ((0x10 : Octet).toNat ≤ 16 ∧ (∀ d ∈ (nibblesOf nines).take 16, d ≤ 9) ∧ 16 < (0x11 : Octet).toNat ∧
      ∃ d ∈ (nibblesOf (0xA0 :: zeros)).take 1, 9 < d) ∧
    (∀ (j : Fin 512) (e : DigitEntry), j.val ≠ 511 → service.tariff.entries[j] = some e →
      e.digits ≠ (nibblesOf nines).take 16) ∧
    (∃ (j : Fin 512) (e : DigitEntry), j.val ≠ 511 ∧ held.tariff.entries[j] = some e ∧ e.digits = (nibblesOf zeros).take 1) ∧
    ((0x1F : Octet).toNat ≤ 31 ∧ (0x03 : Octet).toNat ≤ 3 ∧ field16 0x0E 0x10 ≤ 3600 ∧ 1 ≤ field16 0x00 0x01 ∧
      field16 0x0E 0x10 = 3600 ∧ ¬1 ≤ field16 0x00 0x00) ∧
    (let passes (n mask w : Octet) (l : List Octet) :=
      1 ≤ n.toNat ∧ n.toNat ≤ 8 ∧ ((scheduleEntries l).map (·.1)).head? = some 0 ∧
      ((scheduleEntries l).map (·.1)).Pairwise (· < ·) ∧ (∀ e ∈ scheduleEntries l, e.1 < 86400 ∧ e.2 ≤ 3) ∧ w.toNat ≤ 3 ∧
      mask.toNat < 128
     ([0, 0, 0, 3, 0x01, 0x51, 0x7F, 0] : List Octet).length = 4 * (2 : Octet).toNat ∧
       passes 2 127 3 [0, 0, 0, 3, 0x01, 0x51, 0x7F, 0] ∧ ¬passes 2 0 0 [0, 0, 0, 0, 0, 0, 0, 0] ∧
       ([] : List Octet).length = 4 * (0 : Octet).toNat ∧ ¬passes 0 0 0 []) := by
  refine ⟨⟨service_ready, ?_⟩, ?_, ?_, ⟨0, { digits := [0], action := .free, bar := 0 }, ?_⟩, ?_, ?_⟩
  · decide
  · decide
  · intro j e _ h
    simp [service, State.reset, Tariff.reset] at h
  · decide
  · decide
  · decide

theorem witness_ParametersLoad :
    service.ready ∧ service.service ≠ .mounting ∧ service.link.queue.length < 63 ∧
    (let passes (t1 t0 w2 w1 w0 rs lp ho si : Octet) :=
      field16 t1 t0 ≤ 8191 ∧ field24 w2 w1 w0 ≤ 65536 ∧ 1 ≤ rs.toNat ∧ rs.toNat ≤ 64 ∧ 1 ≤ lp.toNat ∧
      lp.toNat ≤ 10 ∧ ho.toNat ≤ 3 ∧ (si.toNat = 1 ∨ si.toNat = 2 ∨ si.toNat = 4 ∨ si.toNat = 8)
     passes 0x1F 0xFF 0x01 0x00 0x00 64 10 3 8 ∧ passes 0 0 0 0 0 1 1 0 1 ∧ ¬passes 0x20 0x00 0 0 0 1 1 0 1) := by
  refine ⟨service_ready, ?_⟩
  decide

/-- A free slot 125 and slot 0; a bound slot; a slot mapped to another trunk; a trunk with a meter; 126, 254 and 0xFF. -/
theorem witness_TrunkLoad :
    let bound : State := { service with highway := { service.highway with bindings := service.highway.bindings.set 7 (some 0) } }
    let mapped : State := { service with trunks := service.trunks.set 1 { Trunk.reset with slot := some 7 } }
    let metered : State := { service with trunks := service.trunks.set 0 { Trunk.reset with meter := some 0 } }
    (service.ready ∧ service.service ≠ .mounting ∧ (0x7D : Octet).toNat = (125 : Fin 126).val ∧
      service.highway.bindings[(125 : Fin 126)] = none ∧ (service.trunk 0).meter = none ∧
      bound.highway.bindings[(7 : Fin 126)] ≠ none ∧ (mapped.trunk 1).slot = some 7 ∧ (1 : TrunkIx) ≠ 0 ∧
      (metered.trunk 0).meter ≠ none ∧ metered.highway.bindings[(7 : Fin 126)] = none ∧
      (126 ≤ (0x7E : Octet).toNat ∧ (0x7E : Octet).toNat < 255) ∧ (126 ≤ (0xFE : Octet).toNat ∧ (0xFE : Octet).toNat < 255) ∧
      (0xFF : Octet).toNat = 255) ∧
    ∀ v : TrunkIx, v ≠ 0 → (service.trunk v).slot ≠ some 125 := by
  refine ⟨⟨service_ready, ?_⟩, ?_⟩
  · decide +kernel
  · intro v _
    rw [service_trunk]
    simp [Trunk.reset]

/-- Loads of 1 and of 28 entries, up to index 255; one past it; and one outside SETUP. -/
theorem witness_ExpansionLoad :
    State.reset.ready ∧ State.reset.service = .setup ∧ service.ready ∧ service.service ≠ .setup ∧
    (let l := List.replicate 56 (0x7F : Octet)
     l.length % 2 = 0 ∧ 2 ≤ l.length ∧ l.length ≤ 56 ∧ (0xE4 : Octet).toNat + l.length / 2 ≤ 256 ∧
       256 < (0xE5 : Octet).toNat + l.length / 2) ∧
    (let l := List.replicate 2 (0x7F : Octet)
     l.length % 2 = 0 ∧ 2 ≤ l.length ∧ (0xFF : Octet).toNat + l.length / 2 ≤ 256) := by
  refine ⟨⟨rfl, rfl, by decide⟩, rfl, service_ready, ?_⟩
  decide +kernel

/-- SETUP complete, SUSPENDED and SETUP incomplete for START_SERVICE; every channel FREE, and one in FLUSH, for SUSPEND. -/
theorem witness_ServiceCommands :
    let complete : State :=
      { State.reset with store := { State.reset.store with geometrySet := true, mounted := true }
                         coder := { State.reset.coder with loaded := Vector.replicate 256 true } }
    let flushing : State :=
      { service with channels := service.channels.set 0 { Channel.reset with state := .flush, slot := some 3 } }
    (complete.ready ∧ complete.service = .setup ∧ complete.store.geometrySet = true ∧ complete.store.mounted = true ∧
      (∀ j : Fin 256, complete.coder.loaded[j] = true) ∧ ∀ j : Fin 256, (complete.coder.expansion[j]).natAbs ≤ 8192) ∧
    { State.reset with service := .suspended }.service = .suspended ∧
    ¬((State.reset.service = .setup ∧ State.reset.store.geometrySet = true ∧ State.reset.store.mounted = true ∧
      ∀ j : Fin 256, State.reset.coder.loaded[j] = true) ∨ State.reset.service = .suspended) ∧
    (State.reset.service ≠ .inService ∧ service.service = .inService) ∧
    ((∀ c, (service.chan c).state = .free ∧ (service.chan c).slot = none) ∧
      ∀ c, (service.ring c).recorded = [] ∧ (service.ring c).held = []) ∧
    ((∃ c, (flushing.chan c).state = .flush) ∧
      ∀ c, (flushing.chan c).state = .free ∨ (flushing.chan c).state = .flush ∨ (flushing.chan c).state = .closing) := by
  refine ⟨⟨⟨rfl, rfl, by decide⟩, rfl, rfl, rfl, ?_, ?_⟩, rfl, ?_, by decide, ⟨?_, ?_⟩, ⟨0, by decide⟩, by decide⟩
  · intro j; simp
  · intro j; simp [State.reset]
  · simp [State.reset, Store.reset]
  · intro c; rw [service_chan]; exact ⟨rfl, rfl⟩
  · intro c; rw [service_ring]; exact ⟨rfl, rfl⟩

/-- A mask that empties the attention set and one that does not, each with 62, 63 and 64 frames in the outbound queue. -/
theorem witness_ClearAttentionRemovesKinds :
    State.reset.resetLow = false ∧ State.reset.link.holder = none ∧
    State.reset.attention &&& ~~~(((0x01 : Octet) ++ (0x00 : Octet) : BitVec 16) &&& 0x1FFF) = 0 ∧
    State.reset.attention &&& ~~~(((0xFE : Octet) ++ (0xFF : Octet) : BitVec 16) &&& 0x1FFF) ≠ 0 ∧
    ((queued 62 State.reset).link.queue.length < 63 ∧ (queued 63 State.reset).link.queue.length = 63 ∧
      64 ≤ (queued 64 State.reset).link.queue.length) := by
  refine ⟨rfl, rfl, by decide, by decide, ?_⟩
  simp [queued]

/-- The state in service with a command in its holder. -/
def holding (stage : Stage) (kind : Octet) (fields : List Octet) (s : State) : State :=
  { s with link := { s.link with holder := some ⟨kind, 0x21, fields, stage⟩ } }

theorem witness_HolderHoldsOneCommand :
    (commandFields (.setClock 1 []) = some (1, []) ∧ (holding .working 0x54 [] service).resetLow = false ∧
      (holding .working 0x54 [] service).link.holder = some ⟨0x54, 0x21, [], .working⟩ ∧
      (holding .working 0x54 [] service).link.queue.length < 64) ∧
    ((queued 64 service).resetLow = false ∧ (queued 64 service).link.holder = none ∧ 64 ≤ (queued 64 service).link.queue.length) ∧
    (holding (.offering .ok [1]) 0x53 [] service).link.holder = some ⟨0x53, 0x21, [], .offering .ok [1]⟩ := by
  refine ⟨⟨rfl, rfl, rfl, by decide⟩, ⟨rfl, rfl, by simp [queued]⟩, rfl⟩

/-- A command that builds its reply and one whose reply is deferred, with a full queue. -/
theorem witness_HolderHoldsOneCommand_full :
    controllerFrame (.setClock 1 []) = some (0x44, [1]) ∧ controllerFrame (.fetchCharges 1 [8]) = some (0x5E, [1, 8]) ∧
      0x40 ≤ (0x44 : Octet).toNat ∧ (queued 64 service).resetLow = false ∧ (queued 64 service).link.holder = none ∧
      64 ≤ (queued 64 service).link.queue.length := by
  decide

/-- A table of each length in MOUNTING. -/
theorem witness_CommandChecks_mounting :
    ({ service with service := .mounting } : State).ready ∧
      commandLength (.loadTableClass 1 (List.replicate 15 0)) = some (List.replicate 15 (0 : Octet)).length ∧
      commandLength (.loadTrunk 1 [0, 0]) = some ([0, 0] : List Octet).length ∧
      ([1, 0, 0, 0, 0, 0, 0] : List Octet).length = 4 * (([1, 0, 0, 0, 0, 0, 0] : List Octet).headD 0).toNat + 3 :=
  ⟨⟨rfl, rfl, by decide⟩, by decide⟩

/-- A wrong length; the two lengths of LOAD_EXPANSION just outside its range and the odd and even ones; tables 0 and 6; room
2048; each field one past its range; and a room that is not loaded. -/
theorem witness_CommandChecks :
    (service.ready ∧ commandLength (.setClock 1 []) = some 6 ∧ commandFields (.setClock 1 []) = some (1, []) ∧
      ([] : List Octet).length ≠ 6) ∧
    ((List.replicate 58 (0 : Octet)).length % 2 = 0 ∧ (List.replicate 2 (0 : Octet)).length ≤ 2 ∧
      57 < (List.replicate 59 (0 : Octet)).length ∧ (List.replicate 3 (0 : Octet)).length ≤ 3 ∧
      59 < (List.replicate 60 (0 : Octet)).length ∧ ([1] : List Octet).length ≠ 4 * (([1] : List Octet).headD 0).toNat + 3) ∧
    ((0 : Octet).toNat = 0 ∧ 5 < (6 : Octet).toNat) ∧
    ({ service with service := .mounting }.ready ∧ { service with service := .mounting }.service = .mounting) ∧
    (service.service ≠ .mounting ∧ 2047 < field16 0x08 0x00 ∧ 999999 < field24 0x0F 0x42 0x40 ∧ 15 < (0x10 : Octet).toNat ∧
      9999999 < field24 0x98 0x96 0x80 ∧ 1 < (0x02 : Octet).toNat) ∧
    (field16 0x07 0xFF = (2047 : RoomIx).val ∧ field24 0x98 0x96 0x7F ≤ 9999999 ∧ (0x01 : Octet).toNat ≤ 1 ∧
      (service.room 2047).loaded = false) := by
  refine ⟨⟨service_ready, rfl, rfl, by decide⟩, by simp, by decide, ⟨⟨rfl, rfl, by decide⟩, rfl⟩, by decide, ?_⟩
  refine ⟨by decide, by decide, by decide, ?_⟩
  simp [service, State.room, State.reset, Room.reset]

/-- FETCH_CHARGES of 8 with the queue just open enough and just too full, one of 0 and of 9, and one that waits; RELEASE_CHARGES
of all the records and of one more. -/
theorem witness_ChargesFetchedAndReleased :
    let charged : State :=
      { service with charges := [.final { room := 5, extension := 101, balance := 0, inDay := 0, inSecond := 0, outDay := 0,
                                          outSecond := 0 }] }
    (charged.resetLow = false ∧ charged.link.holder = none ∧ charged.link.queue.length < 64 ∧ (0 : Octet).toNat = 0 ∧
      8 < (9 : Octet).toNat ∧ 1 ≤ (8 : Octet).toNat ∧ (8 : Octet).toNat ≤ 8) ∧
    ((queued 62 charged).link.queue.length + min 8 charged.charges.length + 1 ≤ 64 ∧
      ¬(queued 63 charged).link.queue.length + min 8 charged.charges.length + 1 ≤ 64) ∧
    (holding .working 0x5E [8] charged).link.holder = some ⟨0x5E, 0x21, [8], .working⟩ ∧
    (charged.ready ∧ field16 0 1 ≤ charged.charges.length ∧ charged.charges.length < field16 0 2) := by
  refine ⟨⟨rfl, rfl, by decide, by decide⟩, by simp [queued], rfl, ⟨rfl, rfl, by decide⟩, by decide⟩

/-! ## Witnesses: calls and lamps -/

/-- A meter in DIALLING on trunk 3 for room 5. -/
def ringing : Meter := allocated 3 5 101 30

/-- The state in service with room 5 given and meter 0 on trunk 3. -/
def metered (x : Room) (y : Meter) : State :=
  let s := hotel { x with openMeters := 1 }
  { s with trunks := s.trunks.set 3 { Trunk.reset with meter := some 0 }, meters := s.meters.set 0 (some y) }

/-- The state in service with every class billed. -/
def billed (s : State) : State := { s with classes := Vector.replicate 16 { ClassRecord.reset with billing := true } }

theorem hotel_meter (x : Room) (m : MeterIx) : (hotel x).meter m = none := service_meter m

/-- A seizure by the largest extension and one found; every answer of the room and its class; a trunk with a meter. -/
theorem witness_Seizure :
    let barred := { guest with barred := true }
    let busy : State := { billed (hotel guest) with meters := Vector.replicate 64 (some ringing) }
    let full : State := { billed (hotel guest) with checkouts := 256 }
    (State.reset.resetLow = false ∧ 999999 ≤ 999999 ∧ State.reset.service = .setup ∧
      (hotel guest).service ≠ .setup ∧ (hotel guest).service ≠ .mounting) ∧
    (((hotel guest).trunk 0).meter = none ∧ (hotel guest).lookup 999999 = none ∧ (hotel guest).lookup 101 = some 5 ∧
      (hotel guest).link.queue.length < 63) ∧
    (((hotel { guest with occupancy := .vacant }).room 5).occupancy ≠ .occupied ∧
      ((hotel guest).room 5).occupancy = .occupied ∧ ((hotel guest).classOf 5).billing = false ∧
      ((billed (hotel guest)).classOf 5).billing = true) ∧
    (((billed (hotel barred)).room 5).barred = true ∧ ((billed (hotel guest)).room 5).barred = false ∧
      ∀ m, busy.meter m ≠ none) ∧
    ((billed (hotel guest)).meter 0 = none ∧ (∀ m', m' < 0 → (billed (hotel guest)).meter m' ≠ none) ∧
      256 < full.charges.length + full.openMeters + full.checkouts + 1 ∧
      (billed (hotel guest)).charges.length + (billed (hotel guest)).openMeters + (billed (hotel guest)).checkouts + 1 ≤ 256) ∧
    (((metered guest ringing).trunk 3).meter = some 0 ∧ (metered guest ringing).meter 0 = some ringing ∧ ringing.trunk = 3) := by
  refine ⟨⟨rfl, by decide, rfl, by decide, by decide⟩, by decide +kernel, by decide, ⟨by decide, by decide, ?_⟩, ⟨?_, ?_, ?_⟩,
    by decide⟩
  · intro m; simp [State.meter]
  · decide
  · intro m' h; simp at h
  · decide +kernel

/-- `s` with the first prefix entry: the digit 9, barring the classes of `bar`, with action `a`. -/
def nine (bar : BitVec 16) (a : Action) (s : State) : State :=
  { s with tariff := { s.tariff with entries := s.tariff.entries.set 0 (some { digits := [9], action := a, bar := bar }) } }

/-- A seizure denied with the queue full, and with one entry free. -/
theorem witness_Seizure_dropped :
    let s (n : Nat) := queued n { billed (hotel guest) with checkouts := 256 }
    (s 64).link.queue.length = 64 ∧ (s 63).link.queue.length = 63 ∧ (s 63).attention ≠ 0 ∧ (s 64).resetLow = false ∧
      ((s 64).trunk 0).meter = none ∧ (s 64).lookup 101 = some 5 ∧ ((s 64).room 5).barred = false ∧
      256 < (s 64).charges.length + (s 64).openMeters + (s 64).checkouts + 1 := by
  decide +kernel

theorem nine_entry {bar : BitVec 16} {a : Action} {s : State} (hs : s.tariff.entries = Vector.replicate 512 none)
    {j : Fin 512} {e : DigitEntry} (h : (nine bar a s).tariff.entries[j] = some e) : e = { digits := [9], action := a, bar := bar } := by
  simp only [nine, hs, Fin.getElem_fin] at h
  rw [Vector.getElem_set] at h
  split at h <;> simp_all

theorem nine_match {bar : BitVec 16} {a : Action} {s : State} (hs : s.tariff.entries = Vector.replicate 512 none) :
    LongestMatch (nine bar a s) [9, 1] { digits := [9], action := a, bar := bar } where
  held := ⟨0, by simp [nine]⟩
  leads := by simp
  longest j e' h _ := by rw [nine_entry hs h]

/-- No entry of an empty prefix table is a longest match. -/
theorem no_match {s : State} (hs : s.tariff.entries = Vector.replicate 512 none) (ds : List Nat) (e : DigitEntry) :
    ¬LongestMatch s ds e := by
  rintro ⟨⟨i, h⟩, -, -⟩
  simp [hs] at h

/-- One digit and twenty; a meter past DIALLING; a match that bars class 0, and no match. -/
theorem witness_DigitsDialled :
    let s := metered guest ringing
    let y : Meter := { ringing with digits := ([] ++ [9, 1]).take 20, timer := some 30 }
    (s.resetLow = false ∧ s.active = true ∧ 1 ≤ [9, 1].length ∧ [9, 1].length ≤ 20 ∧ (∀ d ∈ [9, 1], d ≤ 9) ∧
      (s.trunk 3).meter = some 0 ∧ s.meter 0 = some ringing ∧ ringing.state = .dialling) ∧
    (∀ m x, ((metered guest { ringing with state := .cut }).trunk 3).meter = some m →
      (metered guest { ringing with state := .cut }).meter m = some x → x.state ≠ .dialling) ∧
    (∀ e, ¬LongestMatch s y.digits e) ∧
    ((∃ e, LongestMatch (nine 0xFFFF .free s) y.digits e) ∧
      (∀ e, LongestMatch (nine 0xFFFF .free s) y.digits e →
        e.bar.getLsbD ((nine 0xFFFF .free s).room 5).cls.val = true) ∧ (nine 0xFFFF .free s).link.queue.length < 64) := by
  refine ⟨by decide, ?_, ?_, ⟨_, nine_match rfl⟩, ?_, by decide⟩
  · intro m x h hx
    have hm : m = 0 := by
      have : ((metered guest { ringing with state := .cut }).trunk 3).meter = some 0 := by decide
      rw [this] at h; exact (Option.some.inj h).symm
    subst hm
    have : (metered guest { ringing with state := .cut }).meter 0 = some { ringing with state := .cut } := by decide
    rw [this] at hx
    rw [← Option.some.inj hx]; decide
  · exact fun e => no_match rfl _ e
  · rintro e ⟨⟨j, h⟩, -, -⟩
    rw [nine_entry rfl h]; decide

/-- A timed and a reported answer; the default entry barring; a FREE and a METER action; a barred room and one that is not; a
P0 of 0. -/
theorem witness_CallsConnected :
    let s := metered guest { ringing with timer := some 0 }
    let x : Meter := { ringing with timer := some 0 }
    let barring : State := { s with tariff := { s.tariff with defaultBar := 0xFFFF } }
    let paid : State := { s with tariff := { s.tariff with defaultAction := .meter 0 } }
    (s.resetLow = false ∧ s.meter 0 = some x ∧ x.state = .dialling ∧ s.link.queue.length < 64 ∧ x.timer = some 0 ∧
      s.active = true ∧ (s.trunk x.trunk).meter = some 0) ∧
    ((∀ e, ¬LongestMatch barring x.digits e) ∧ barring.tariff.defaultBar.getLsbD (barring.room 5).cls.val = true) ∧
    ((∀ e, ¬LongestMatch s x.digits e) ∧ s.tariff.defaultBar.getLsbD (s.room 5).cls.val = false ∧
      s.tariff.defaultAction = .free) ∧
    ((∀ e, ¬LongestMatch paid x.digits e) ∧ paid.tariff.defaultBar.getLsbD (paid.room 5).cls.val = false ∧
      paid.tariff.defaultAction = .meter 0 ∧ (paid.room 5).barred = false ∧ (paid.bandPeriod 0 paid.periodInForce).p0 ≠ 0 ∧
      ((metered { guest with barred := true } x).room 5).barred = true ∧
      ({ p0 := 0, c0 := 0, u := 60, cu := 0, cmin := 0 } : BandPeriod).p0 = 0) := by
  refine ⟨by decide, ⟨fun e => no_match rfl _ e, by decide⟩, ⟨fun e => no_match rfl _ e, by decide, rfl⟩,
    fun e => no_match rfl _ e, by decide⟩

/-- A meter in CONNECTED. -/
def talking : Meter := { ringing with state := .connected, answered := true, band := some 0, period := some 0,
                                      answer := some (0, 0), timer := none, countdown := some 0 }

theorem witness_UnitBoundaries :
    let s := metered guest talking
    (s.resetLow = false ∧ s.meter 0 = some talking ∧ talking.state = .connected ∧ talking.countdown = some 0 ∧
      talking.band = some 0 ∧ (s.room talking.room).barred = false) ∧
    (((metered { guest with barred := true } talking).room talking.room).barred = true ∧
      (metered { guest with barred := true } talking).link.queue.length < 64) ∧
    (metered guest { talking with countdown := some 1 }).meter 0 = some { talking with countdown := some 1 } := by
  decide

/-- A trunk with no meter; a meter connected, one cut after an answer and one in DIALLING; the last meter of a checkout. -/
theorem witness_CallsCleared :
    let s := metered guest talking
    let leaving := metered { guest with occupancy := .checkoutPending } talking
    (s.resetLow = false ∧ s.active = true ∧ (s.trunk 0).meter = none) ∧
    ((s.trunk 3).meter = some 0 ∧ s.meter 0 = some talking ∧ talking.trunk = 3 ∧ s.charges.length < 222 ∧
      (s.room 5).occupancy ≠ .checkoutPending) ∧
    ((leaving.room 5).occupancy = .checkoutPending ∧ (leaving.room 5).openMeters = 1 ∧ (leaving.trunk 3).meter = some 0) ∧
    ((metered guest ringing).meter 0 = some ringing ∧ ringing.state = .dialling) := by
  decide

/-- The last meter of a checkout with 222 records in the charge queue: the CALL record brings 223, the FINAL record 224. -/
theorem witness_CallsCleared_high :
    let final : ChargeRecord := .final { room := 5, extension := 101, balance := 0, inDay := 0, inSecond := 0, outDay := 0,
                                         outSecond := 0 }
    let s : State := { metered { guest with occupancy := .checkoutPending } talking with
                       charges := List.replicate 222 final }
    s.charges.length = 222 ∧ s.link.queue.length < 64 ∧ s.resetLow = false ∧ s.active = true ∧
      (s.trunk 3).meter = some 0 ∧ s.meter 0 = some talking ∧ talking.trunk = 3 ∧ talking.state = .connected ∧
      (s.room 5).occupancy = .checkoutPending ∧ (s.room 5).openMeters = 1 := by
  decide +kernel

/-- A room whose lamp is lit, with its count one below the class threshold. -/
def lit : Room := { guest with lamp := { LampRecord.reset with ordered := some .slow, failures := 1 } }

theorem witness_HookAndSenseEvents :
    ((hotel guest).resetLow = false ∧ 999999 ≤ 999999 ∧ (hotel guest).lookup 999999 = none ∧ (hotel guest).lookup 101 = some 5) ∧
    (((hotel lit).room 5).lamp.ordered = some .slow ∧
      ((hotel lit).classOf 5).faultThreshold ≤ min (((hotel lit).room 5).lamp.failures + 1) 8 ∧
      ((hotel lit).room 5).lamp.fault = false ∧ (hotel lit).link.queue.length < 64) ∧
    (¬((hotel { lit with lamp := { lit.lamp with failures := 0 } }).classOf 5).faultThreshold ≤
      min (((hotel { lit with lamp := { lit.lamp with failures := 0 } }).room 5).lamp.failures + 1) 8) ∧
    ((hotel guest).room 5).lamp.ordered = none := by
  decide

/-- `hotel x` with a sweep begun and room 5 in the lamp order queue. -/
def swept (x : Room) (q : List RoomIx) : State :=
  { hotel x with lamps := { service.lamps with due := true, queue := q } }

/-- A room due an order. -/
def dueOrder : Room := { guest with lamp := { LampRecord.reset with queued := true, target := some .slow } }

theorem hotel_room (x : Room) (r : RoomIx) : (hotel x).room r = if r = 5 then x else Room.reset := by
  simp only [hotel, service, State.room, State.reset, Fin.getElem_fin]
  rw [Vector.getElem_set]
  by_cases h : r = 5
  · subst h; rfl
  · have : (5 : Nat) ≠ r.val := fun h' => h (Fin.ext h'.symm)
    simp [h]
    intro h'; exact absurd h' this

theorem swept_shut (x : Room) (q : List RoomIx) (hx : x.lamp.shut = false) (ho : x.lamp.offHook = false)
    (hf : x.lamp.fault = false) (hm : x.lamp.maint = false) (r : RoomIx) :
    ((swept x q).room r).lamp.shut =
      if ((swept x q).room r).lamp.offHook ∨ ((swept x q).room r).lamp.fault ∨ ((swept x q).room r).lamp.maint then true
      else ((swept x q).classOf r).lampManual && ((swept x q).room r).lamp.shut := by
  have : (swept x q).room r = if r = 5 then x else Room.reset := hotel_room x r
  by_cases h : r = 5 <;> simp_all [Room.reset, LampRecord.reset]

theorem witness_SweepsOrderLamps :
    let s := swept dueOrder [5]
    (service.resetLow = false ∧ service.lamps.due = false) ∧
    (s.resetLow = false ∧ s.lamps.due = true ∧ s.lamps.queue.Nodup ∧ (s.lamps.sweeps + 1) % 4294967296 % s.lamps.senseInterval ≠ 0 ∧
      s.lamps.queue.length ≤ 14 ∧ s.link.queue.length ≤ 32 ∧ (queued 32 s).link.queue.length ≤ 32) ∧
    (∀ r, (s.room r).lamp.shut = if (s.room r).lamp.offHook ∨ (s.room r).lamp.fault ∨ (s.room r).lamp.maint then true
      else (s.classOf r).lampManual && (s.room r).lamp.shut) ∧
    (32 < (queued 33 s).link.queue.length ∧ (queued 33 s).lamps.queue ≠ [] ∧
      ∀ r ∈ (queued 33 s).lamps.queue, ((s.room r).lamp.target ≠ none ∧ (s.room r).lamp.target ≠ (s.room r).lamp.ordered) ∧
        (s.room r).lamp.orderSweep = none) := by
  refine ⟨by decide, ?_, swept_shut _ _ rfl rfl rfl rfl, ?_⟩ <;> decide +kernel

theorem witness_SenseQueriesWalkTheTable :
    let s : State := { swept lit [] with lamps := { (swept lit []).lamps with sweeps := 1 } }
    (s.resetLow = false ∧ s.lamps.due = true ∧ s.lamps.queue = [] ∧ (s.lamps.sweeps + 1) % 4294967296 % s.lamps.senseInterval = 0 ∧
      (s.room 5).loaded = true ∧ (s.room 5).lamp.absent = false ∧ (s.room 5).lamp.ordered = some .slow ∧
      s.link.queue.length ≤ 32 ∧ 32 < (queued 33 s).link.queue.length) ∧
    (∀ r, (s.room r).lamp.shut = if (s.room r).lamp.offHook ∨ (s.room r).lamp.fault ∨ (s.room r).lamp.maint then true
      else (s.classOf r).lampManual && (s.room r).lamp.shut) ∧
    ∀ r, ((swept { lit with loaded := false } []).room r).loaded = false := by
  refine ⟨by decide +kernel, swept_shut lit [] rfl rfl rfl rfl, ?_⟩
  intro r
  have : (swept { lit with loaded := false } []).room r = if r = 5 then { lit with loaded := false } else Room.reset :=
    hotel_room _ r
  rw [this]; split <;> rfl

/-- A sweep with a lamp to be shut and one to be restarted; and a sense turn with an order in the same sweep. -/
theorem witness_SweepsOrderLamps_shut :
    let off : Room := { lit with lamp := { lit.lamp with offHook := true } }
    let s : State := { swept dueOrder [5] with lamps := { (swept dueOrder [5]).lamps with sweeps := 1 } }
    ((swept off []).resetLow = false ∧ (swept off []).lamps.due = true ∧ ((swept off []).room 5).lamp.shut = false ∧
      ((swept off []).room 5).lamp.offHook = true ∧
      ((swept { lit with lamp := { lit.lamp with shut := true } } []).room 5).lamp.shut = true) ∧
    ((s.lamps.sweeps + 1) % 4294967296 % s.lamps.senseInterval = 0 ∧ s.lamps.queue.Nodup ∧ s.lamps.queue = [5]) := by
  decide

/-- A lamp in service; one off-hook in a class with MANUAL restart, and with AUTO; MOUNTING for LAMP_RESYNC. -/
theorem witness_LampCommands :
    let offHook := { guest with lamp := { LampRecord.reset with offHook := true, shut := true } }
    let manual : State := { hotel offHook with classes := Vector.replicate 16 { ClassRecord.reset with lampManual := true } }
    ((hotel offHook).ready ∧ manual.ready) ∧
    ((hotel offHook).service ≠ .mounting ∧ field16 0x00 0x05 = (5 : RoomIx).val ∧ ((hotel offHook).room 5).loaded = true ∧
      (0x00 : Octet).toNat ≤ 1 ∧ (0x01 : Octet).toNat ≤ 1 ∧ ((hotel offHook).classOf 5).lampManual = false ∧
      (manual.classOf 5).lampManual = true ∧ (manual.room 5).lamp.offHook = true) ∧
    ({ service with service := .mounting }.ready ∧ { service with service := .mounting }.service = .mounting) := by
  refine ⟨⟨hotel_ready _, rfl, rfl, by decide⟩, by decide, ⟨⟨rfl, rfl, by decide⟩, rfl⟩⟩

/-! ## Witnesses: the voice channels and speech -/

/-- `s` with channel 3 as given, bound to slot 7 when the record holds it. -/
def voice (x : Channel) (s : State) : State :=
  { s with channels := s.channels.set 3 x, highway := { s.highway with bindings := s.highway.bindings.set 7 (some 3) } }

/-- A channel of a caller on slot 7 for room 5, in state `st`. -/
def caller (st : ChanState) : Channel :=
  { Channel.reset with state := st, kind := some .deposit, slot := some 7, extension := some 101, room := some 5,
                       callerPresent := true }

theorem witness_DivertsRefused :
    let mapped : State := { service with trunks := service.trunks.set 1 { Trunk.reset with slot := some 7 } }
    let busy : State := { service with channels := Vector.replicate 32 (caller .greet) }
    (service.resetLow = false ∧ State.reset.service ≠ .inService ∧ service.service = .inService) ∧
    (125 < (0x7E : Octet).toNat ∧
      (voice (caller .greet) service).highway.bindings[(7 : Fin 126)] ≠ none ∧ (mapped.trunk 1).slot = some 7) ∧
    (¬(125 < (0x7D : Octet).toNat ∨ ∃ k : Fin 126, k.val = (0x7D : Octet).toNat ∧
      (busy.highway.bindings[k] ≠ none ∨ ∃ t : TrunkIx, (busy.trunk t).slot = some k)) ∧
      ∀ c, (busy.chan c).state ≠ .free) ∧
    ((queued 63 service).link.queue.length < 64 ∧ ¬(queued 64 service).link.queue.length < 64) := by
  refine ⟨by decide, by decide, ⟨?_, ?_⟩, by simp [queued]⟩
  · rintro (h | ⟨k, -, h | ⟨t, h⟩⟩)
    · revert h; decide
    · exact h (service_binding k)
    · have : service.trunk t = Trunk.reset := service_trunk t
      have h' : (service.trunk t).slot = some k := h
      rw [this] at h'; simp [Trunk.reset] at h'
  · intro c; simp [State.chan, caller]

/-- Slot 125, the largest extension and the first channel, every prompt in the directory; and room 5 with a full mailbox. -/
theorem witness_DivertsGranted :
    let s := prompted (hotel guest)
    (s.resetLow = false ∧ s.service = .inService ∧ (s.chan 0).state = .free ∧ s.link.queue.length < 64 ∧ 999999 ≤ 999999 ∧
      s.lookup 999999 = none ∧ s.lookup 101 = some 5) ∧
    (s.highway.bindings[(125 : Fin 126)] = none ∧ (∀ t : TrunkIx, (s.trunk t).slot ≠ some 125) ∧
      (∀ c' : ChannelIx, c' < 0 → (s.chan c').state ≠ .free) ∧ ∀ id : PromptId, s.store.prompts[id] ≠ none) := by
  refine ⟨by decide, service_binding _, ?_, ?_, ?_⟩
  · intro t
    show (service.trunk t).slot ≠ some 125
    rw [service_trunk]; simp [Trunk.reset]
  · intro c' h; simp at h
  · intro id; simp [prompted]

/-- Diverts with prompts missing: every one for a closing list and for GREET, with room in the store and the next serial. -/
theorem witness_DivertsGranted_missing :
    let s : State := { hotel guest with store := { service.store with free := List.range 16 } }
    s.link.queue.length < 63 ∧ (∀ id : PromptId, s.missing (.prompt id) = true) ∧ s.lookup 102 = none ∧
      [pNotInService, pGoodbye].dropWhile s.missing = [] ∧ s.lookup 101 = some 5 ∧ (s.room 5).occupancy = .occupied ∧
      ¬(8192 ≤ s.store.messages.length ∨ s.store.free.length < s.store.reserve) ∧
      (pGreeting :: spoken 101 ++ [pTone]).dropWhile s.missing = [] ∧ s.store.nextSerial ≠ 4294967295 := by
  decide +kernel

/-- A retrieval whose announcement has no prompt at all, with one NEW message that is not urgent. -/
theorem witness_DivertsGranted_announce :
    let m : Message := { heard with state := .new }
    let s := mailed m
    let box : State := { s with rooms := s.rooms.set 5 { s.room 5 with newCount := 1 } }
    box.message 9 = some m ∧ m.urgent = false ∧ (box.room 5).newCount = 1 ∧ (box.room 5).mailbox = [9] ∧
      ([pYouHave] ++ spokenCount 1 ++ [pNewMessages] ++ spokenCount 0 ++ [pKeptMessages]).dropWhile box.missing = [] ∧
      box.Chooses (granted 7 101 (some 5) .retrieve) [9] (some 9) false := by
  refine ⟨by decide, rfl, by decide, by decide, by decide +kernel, rfl, ⟨by intro l h; simp [granted, Channel.reset] at h, ?_⟩, ?_⟩
  · exact ⟨_, by rfl, rfl⟩
  · exact ⟨[], [], rfl, by simp⟩

/-- A ring with two programs outstanding and a page being filled. -/
def draining : Ring :=
  { Ring.reset with recorded := [{ number := 0, data := List.replicate 512 0, status := .programming 64 0 0 },
                                 { number := 1, data := List.replicate 512 0, status := .requested 64 1 1 },
                                 { number := 2, data := [0x01], status := .filling }] }

/-- Channel 3 with its ring and its encoder. -/
def recording (st : ChanState) (g : Ring) (e : Encoder) : State :=
  let s := voice { caller st with current := some 9 } (hotel guest)
  { s with rings := s.rings.set 3 g, coder := { s.coder with encoders := s.coder.encoders.set 3 e } }

/-- The channel of a caller on slot 7 who hears message `m` of room 5 in state `st`, every prompt in the directory. -/
def listener (st : ChanState) (m : Message) : State :=
  prompted (voice { caller st with kind := some .retrieve, current := some m.serial, reading := true } (mailed m))

/-- `s` in SUSPENDING. -/
def suspending (s : State) : State := { s with service := .suspending }

/-- A slot above 125; a FREE channel; a caller in FLUSH, RECORD, GREET and CLOSING; and a reader in REPLAY and LISTEN, in service and in
SUSPENDING. -/
theorem witness_SlotsCleared :
    let s := recording .record draining (encoderStarted 120 8)
    (service.resetLow = false ∧ service.service ≠ .suspending ∧ service.highway.bindings[(7 : Fin 126)] = none ∧
      125 < (126 : Octet).toNat) ∧
    (s.resetLow = false ∧ s.service ≠ .suspending ∧ s.highway.bindings[(7 : Fin 126)] = some 3 ∧ (s.chan 3).slot = some 7 ∧
      (s.chan 3).state = .record ∧ 2 ≤ (s.ring 3).outPrograms ∧ (s.ring 3).recorded ≠ []) ∧
    (((voice (caller .flush) service).chan 3).state = .flush ∧ (voice (caller .flush) service).highway.bindings[(7 : Fin 126)] = some 3 ∧
      ((voice (caller .flush) service).chan 3).slot = some 7) ∧
    (((voice (caller .greet) service).chan 3).state = .greet ∧ ((voice (caller .greet) service).chan 3).reading = false ∧
      ((voice (caller .greet) service).chan 3).slot = some 7) ∧
    (let r := suspending (listener .listen { heard with readers := 1 })
     r.resetLow = false ∧ r.highway.bindings[(7 : Fin 126)] = some 3 ∧ (r.chan 3).slot = some 7 ∧
       (r.chan 3).state = .listen ∧ (r.chan 3).reading = true ∧ (r.chan 3).current = some 9 ∧
       r.message 9 = some { heard with readers := 1 } ∧ heard.state ≠ .deleting ∧
       (∀ m ∈ r.store.messages, m.blank14 = true ∧ m.blank15 = true) ∧
       ((listener .replay heard).chan 3).state = .replay ∧ ((voice (caller .closing) service).chan 3).state = .closing) := by
  decide +kernel

/-- A channel in each state that takes keys, the play list of GREET at TONE and before it, and a reader of a HEARD message. -/
theorem witness_KeysTaken :
    let at' (x : Channel) := prompted (voice x (mailed { heard with readers := 1 }))
    let reader := { caller .listen with current := some 9, reading := true, kind := some .retrieve }
    (service.highway.bindings[(0 : Fin 126)] = none ∧ (at' reader).highway.bindings[(7 : Fin 126)] = some 3 ∧
      (at' reader).resetLow = false ∧ (at' reader).service ≠ .suspending) ∧
    (∀ id : PromptId, (at' reader).store.prompts[id] ≠ none) ∧
    (((at' (caller .closing)).chan 3).state = .closing ∧ ((at' (caller .flush)).chan 3).state = .flush) ∧
    (((at' { caller .greet with playList := [pTone] }).chan 3).playList.head? = some pTone ∧
      ((at' { caller .greet with playList := [pGreeting] }).chan 3).playList.head? ≠ some pTone) ∧
    (((recording .record draining (encoderStarted 120 8)).chan 3).current = some 9 ∧
      2 ≤ ((recording .record draining (encoderStarted 120 8)).ring 3).outPrograms ∧
      ((recording .record draining (encoderStarted 120 8)).ring 3).recorded ≠ []) ∧
    (((at' reader).chan 3).state = .listen ∧ ((at' { reader with state := .replay }).chan 3).state = .replay ∧
      ((at' reader).chan 3).current = some 9 ∧ ((at' reader).chan 3).reading = true ∧
      (at' reader).message 9 = some { heard with readers := 1 } ∧ heard.state ≠ .deleting) ∧
    (Key.digit 4 = .digit 4 ∧ 3 < (4 : Fin 10)) := by
  refine ⟨by decide, ?_, by decide +kernel⟩
  intro id; simp [prompted]

/-- A choice among the messages of a mailbox: a NEW one; past the last NEW one the first HEARD one; in the KEPT phase the next
HEARD one, and none. -/
theorem witness_Chooses :
    let new : Message := { heard with state := .new }
    let at' (m : Message) (x : Channel) := prompted (voice { x with state := .announce } (mailed m))
    (at' new (caller .announce)).Chooses (caller .announce) [9] (some 9) false ∧
    (at' heard (caller .announce)).Chooses (caller .announce) [9] (some 9) true ∧
    (at' heard (caller .announce)).Chooses { caller .announce with kept := true, last := some 8 } [9] (some 9) true ∧
    (at' heard (caller .announce)).Chooses { caller .announce with kept := true, last := some 9 } [9] none true ∧
    ((at' new (caller .announce)).chan 3).state = .announce ∧ ((at' new (caller .announce)).chan 3).room = some 5 ∧
    ((at' new (caller .announce)).room 5).mailbox = [9] := by
  have hm : ∀ (m : Message) (x : Channel) (n : Nat), m.serial = 9 →
      (prompted (voice { x with state := .announce } (mailed m))).message n = if n = 9 then some m else none := by
    intro m x n h
    show (List.find? (fun y : Message => decide (y.serial = n)) [m]) = _
    by_cases hn : n = 9
    · simp [h, hn]
    · simp [h, hn, Ne.symm hn]
  refine ⟨⟨rfl, ⟨by simp [caller, Channel.reset], _, by rw [hm _ _ _ rfl]; rfl, rfl⟩, [], [], rfl, by simp⟩,
    .inr ⟨rfl, ?_, ⟨by simp, _, by rw [hm _ _ _ rfl]; rfl, rfl⟩, [], [], rfl, by simp⟩,
    .inl ⟨rfl, ⟨by simp, _, by rw [hm _ _ _ rfl]; rfl, rfl⟩, [], [], rfl, by simp⟩,
    ⟨rfl, .inl ⟨rfl, ?_⟩⟩, by decide, by decide, by decide⟩
  · rintro k ⟨⟨-, m, h, hs⟩, -⟩
    rw [hm _ _ _ rfl] at h
    split at h <;> simp at h
    subst h; simp [heard] at hs
  · rintro k ⟨⟨h1, m, h, -⟩, -⟩
    rw [hm _ _ _ rfl] at h
    have := h1 9 rfl
    split at h <;> simp at h
    omega

/-- What keys 2 and 3 and `#` ask of a reader of a NEW and of a HEARD message; after key 2 no message is left, or one is. -/
theorem witness_KeysTaken_reader :
    let new : Message := { heard with state := .new, readers := 1 }
    let s := listener .replay new
    (∀ m ∈ s.store.messages, m.blank14 = true ∧ m.blank15 = true) ∧ s.link.queue.length < 64 ∧ s.message 9 = some new ∧
      (s.chan 3).room = some 5 ∧ (s.chan 3).state = .replay ∧ (s.chan 3).current = some 9 ∧
      (let left := ((s.withChan 3 { s.chan 3 with timer := none }).madeHeard 9).leaves 3
       (left.chan 3).room = some 5 ∧ (left.room 5).mailbox = [9] ∧ left.choice 3 = (some 9, true)) ∧
      (let kept := s.withChan 3 { s.chan 3 with kept := true, last := some 9 }
       let left := ((kept.withChan 3 { kept.chan 3 with timer := none }).madeHeard 9).leaves 3
       left.choice 3 = (none, true)) := by
  decide +kernel

/-- Keys that meet an empty prompt directory: `#` in GREET with a serial left and with none, a key in ANNOUNCE with no message
left, and the keys 2, 3 and `#` in LISTEN. -/
theorem witness_KeysTaken_missing :
    let bare (s : State) : State := { s with store := { s.store with prompts := Vector.replicate 32 none } }
    let greet := bare (voice { caller .greet with playList := [pGreeting, pTone] } (mailed heard))
    let done := bare (voice { caller .announce with kept := true, last := some 9 } (mailed heard))
    let listens := bare (listener .listen { heard with readers := 1 })
    (125 < (126 : Octet).toNat ∧ greet.highway.bindings[(7 : Fin 126)] = some 3 ∧ (greet.chan 3).state = .greet ∧
      (greet.chan 3).playList.head? ≠ some pTone ∧ greet.missing pTone = true ∧ (greet.chan 3).room = some 5 ∧
      greet.link.queue.length < 63 ∧ greet.store.messages.length < 8192 ∧ greet.store.nextSerial ≠ 4294967295 ∧
      (greet.chan 3).reading = false) ∧
    (let full : State := { greet with store := { greet.store with nextSerial := 4294967295 } }
     full.store.nextSerial = 4294967295 ∧ (full.chan 3).reading = false) ∧
    ((done.chan 3).state = .announce ∧ (done.chan 3).reading = false ∧ done.choice 3 = (none, true)) ∧
    (listens.link.queue.length < 63 ∧ listens.missing pDeleted = true ∧ (listens.chan 3).room = some 5 ∧
      (∀ m ∈ listens.store.messages, m.blank14 = true ∧ m.blank15 = true) ∧
      (let idle := listens.withChan 3 { listens.chan 3 with timer := none }
       ((idle.madeHeard 9).leaves 3).choice 3 = (some 9, true) ∧
       (let left := (evaluateLamp 5 (idle.deletes 9)).leaves 3
        (State.plays 3 [pDeleted] (left.withChan 3 { left.chan 3 with state := .announce })).choice 3 = (none, true)))) := by
  decide +kernel

/-- Key 2 on a NEW message whose page 14 is not blank. -/
theorem witness_KeysTaken_failed :
    let m : Message := { heard with state := .new, readers := 1, blank14 := false }
    let s := listener .listen m
    s.message 9 = some m ∧ m.state = .new ∧ m.blank14 = false ∧ s.link.queue.length < 64 ∧ (s.chan 3).room = some 5 ∧
      (let marked := (s.withChan 3 { s.chan 3 with timer := none }).madeHeard 9
       let left := (State.placed { marked with store := { marked.store with marks := s.store.marks } } .flashFault).leaves 3
       left.choice 3 = (some 9, true)) := by
  decide +kernel

/-- An encoder at the end of a frame, with its peak at the threshold and just above it; the frame within the ring's room, and
refused by a ring that has ended. -/
theorem witness_SpeechFramesEnd :
    let e : Encoder := { encoderStarted 120 8 with samples := 160, nibbles := List.replicate 160 7, peak := 65 }
    let s := recording .record draining e
    (s.resetLow = false ∧ s.service ≠ .suspending ∧ (s.chan 3).state = .record ∧ (s.encoder 3).nibbles.length = 160 ∧
      160 ≤ (s.encoder 3).samples ∧ (s.encoder 3).state = .running ∧
      ¬(s.coder.threshold ≠ 0 ∧ (s.encoder 3).peak ≤ s.coder.threshold) ∧ (s.encoder 3).pendingSilence = 0 ∧
      2 ≤ (s.ring 3).outPrograms ∧ (s.ring 3).ended = false ∧ (s.encoder 3).voiceFrame.length ≤ (s.ring 3).room) ∧
    ((recording .record { draining with ended := true } e).ring 3).ended = true ∧
    (64 ≠ 0 ∧ ({ e with peak := 64 } : Encoder).peak ≤ s.coder.threshold) ∧
    ({ e with samples := 159 } : Encoder).samples < 160 := by
  decide +kernel

/-- A recording at its length limit, and one frame short of it at its no-voice limit and below it. -/
theorem witness_SpeechFramesEnd_limits :
    let at' (n k : Nat) := recording .record draining { encoderStarted 120 8 with frames := n, pendingSilence := k }
    ((at' 6000 0).resetLow = false ∧ ((at' 6000 0).chan 3).state = .record ∧ ((at' 6000 0).encoder 3).state = .running ∧
      2 ≤ ((at' 6000 0).ring 3).outPrograms ∧ ((at' 6000 0).ring 3).recorded ≠ [] ∧
      ((at' 6000 0).encoder 3).lengthLimit ≤ ((at' 6000 0).encoder 3).frames) ∧
    (((at' 5999 400).encoder 3).frames < ((at' 5999 400).encoder 3).lengthLimit ∧
      ((at' 5999 400).encoder 3).noVoiceLimit ≠ 0 ∧
      ((at' 5999 400).encoder 3).noVoiceLimit ≤ ((at' 5999 400).encoder 3).pendingSilence ∧
      ((at' 5999 399).encoder 3).pendingSilence < ((at' 5999 399).encoder 3).noVoiceLimit) ∧
    ((service.chan 3).state ≠ .record ∧
      ((recording .record draining Encoder.reset).encoder 3).state ≠ .running) := by
  decide +kernel

/-- The menu timer of a reader in LISTEN at 0, at the first expiry and at a later one, and of a channel that has none. -/
theorem witness_TickAdvancesClockAndTimers_menu :
    let s (n : Nat) : State :=
      let z := listener .listen { heard with readers := 1 }
      z.withChan 3 { z.chan 3 with timer := some 0, repeats := n }
    ((s 0).resetLow = false ∧ ((s 0).chan 3).state = .listen ∧ ((s 0).chan 3).timer = some 0 ∧ ((s 0).chan 3).repeats = 0 ∧
      ((s 1).chan 3).repeats ≠ 0 ∧ ((s 1).chan 3).reading = true ∧ ((s 1).chan 3).current = some 9 ∧
      (s 1).message 9 = some { heard with readers := 1 } ∧ (∀ m ∈ (s 1).store.messages, m.blank14 = true ∧ m.blank15 = true) ∧
      ((hotel guest).chan 3).timer ≠ some 0) ∧ (s 1).prompted :=
  ⟨by decide +kernel, prompted_prompted _⟩

/-- The mailbox of room 5 with a NEW urgent message not programmed and a HEARD one with a reader, retrieved by channel 3. -/
def checkedOut : State :=
  let s := listener .replay { heard with readers := 1 }
  let new : Message := { heard with serial := 12, state := .new, urgent := true, blocks := [{ block := 80, valid := 0, retire := false }] }
  { s with rooms := s.rooms.set 5 { s.room 5 with mailbox := [9, 12], newCount := 1, urgentCount := 1 }
           store := { s.store with messages := s.store.messages ++ [new] } }

theorem witness_CheckOutClosesTheStay_messages :
    (checkedOut.ready ∧ field16 0x00 0x05 = (5 : RoomIx).val) ∧
    (checkedOut.service ≠ .mounting ∧ (checkedOut.room 5).loaded = true ∧ (checkedOut.room 5).occupancy = .occupied ∧
      checkedOut.charges.length < 223 ∧ checkedOut.charges.length + checkedOut.openMeters + checkedOut.checkouts + 1 ≤ 256 ∧
      checkedOut.link.queue.length < 63 ∧ (∀ m ∈ checkedOut.store.messages, m.blank14 = true ∧ m.blank15 = true) ∧
      (checkedOut.room 5).mailbox.Nodup ∧ (checkedOut.chan 3).slot.isSome ∧ (checkedOut.chan 3).kind = some .retrieve ∧
      (checkedOut.chan 3).room = some 5 ∧ (checkedOut.chan 3).state ≠ .record) ∧
    (∀ n ∈ (checkedOut.room 5).mailbox, ∃ m, checkedOut.message n = some m ∧ m.room = 5 ∧ (m.state = .new ∨ m.state = .heard)) ∧
    checkedOut.prompted := by
  refine ⟨⟨⟨rfl, rfl, by decide⟩, by decide⟩, by decide +kernel, ?_, fun id => ?_⟩
  rotate_left
  · show (Vector.replicate 32 (some ({ first := 0, count := 1 } : PromptEntry)))[id] ≠ none
    simp
  intro n hn
  have : n = 9 ∨ n = 12 := by simpa using (show n ∈ [9, 12] from hn)
  rcases this with rfl | rfl
  · exact ⟨{ heard with readers := 1 }, by decide, by decide, .inr rfl⟩
  · exact ⟨_, show checkedOut.message 12 = some _ by rfl, by decide, .inl rfl⟩

/-- The same stay with 223 records in the charge queue. -/
theorem witness_CheckOutClosesTheStay_high :
    let final : ChargeRecord := .final { room := 5, extension := 101, balance := 0, inDay := 0, inSecond := 0, outDay := 0,
                                         outSecond := 0 }
    let s : State := { checkedOut with charges := List.replicate 223 final }
    s.charges.length + s.openMeters + s.checkouts + 1 ≤ 256 ∧ 224 ≤ (s.charges ++ [final]).length ∧
      (s.room 5).openMeters = 0 := by
  decide +kernel

/-- A caller in GREET and one recording, with two programs outstanding, at SUSPEND. -/
theorem witness_ServiceCommands_closed :
    let s := prompted (recording .record draining (encoderStarted 120 8))
    (s.ready ∧ s.service = .inService ∧ (s.chan 3).slot.isSome) ∧
    (∀ c, (s.chan c).state = .record → 2 ≤ (s.ring c).outPrograms ∧ (s.ring c).recorded ≠ []) ∧
    (∀ m ∈ s.store.messages, m.blank14 = true ∧ m.blank15 = true) ∧ s.prompted :=
  ⟨⟨⟨rfl, rfl, by decide⟩, by decide, by decide⟩, by decide +kernel, by decide, prompted_prompted _⟩

/-- A stream page of 512 octets, and one being filled. -/
def fullPage (k : Nat) (st : RecStatus) : RecPage := { number := k, data := List.replicate 512 0, status := st }

/-- Channel 3 recording message `m` with `l` in its ring and the free list given, every prompt in the directory. -/
def storing (l : List RecPage) (ended : Bool) (m : Message) (free : List Nat) : State :=
  let s := prompted (recording .record { Ring.reset with recorded := l, ended := ended } (encoderStarted 120 8))
  { s with store := { s.store with messages := [m], free := free, mounted := true } }

/-- No request due; one due with a page left in the last block, and with a fresh block; two due; and one due when no block is
free, and when 320 blocks are held. -/
theorem witness_SpeechFramesEnd_requests :
    let s := storing [fullPage 0 .full] false taken [70]
    let two := storing [fullPage 0 .full, fullPage 1 .full] true taken [70]
    let fresh : Message := { taken with written := 16 }
    let long : Message := { taken with blocks := List.replicate 320 { block := 64, valid := 1, retire := false }, written := 16 }
    ((s.chan 3).current = some 9 ∧ s.message 9 = some taken ∧ s.link.queue.length < 63 ∧ (s.ring 3).outPrograms = 0 ∧
      1 ≤ (s.ring 3).recorded.countP (fun p => decide (p.status = .full)) ∧ ¬taken.needsBlock) ∧
    ((two.ring 3).outPrograms = 0 ∧ 2 ≤ (two.ring 3).recorded.countP (fun p => decide (p.status = .full)) ∧
      ¬2 ≤ (s.ring 3).recorded.countP (fun p => decide (p.status = .full)) ∧
      (two.requests 3 taken).message 9 = some { taken with written := 2 } ∧ ({ taken with written := 15 } : Message).written < 16) ∧
    (fresh.needsBlock ∧ (storing [fullPage 0 .full] false fresh [70]).hasBlock fresh ∧
      ¬(storing [fullPage 0 .full] false fresh []).hasBlock fresh ∧ long.needsBlock ∧
      ¬(storing [fullPage 0 .full] false long [70]).hasBlock long) ∧
    ((s.chan 3).reading = false ∧ (s.chan 3).callerPresent = true ∧ (s.chan 3).state = .record ∧
      ∀ m ∈ s.store.messages, m.blank14 = true ∧ m.blank15 = true) := by
  decide +kernel

/-- An item of channel 3 with two pages arrived, its decoder as given. -/
def hearing (st : ChanState) (l : List PlayItem) (d : Decoder) : State :=
  let s := listener st { heard with readers := 1 }
  let s := s.withChan 3 { s.chan 3 with playList := l }
  let page (k : Nat) (o : Octet) : ItemPage := { index := k, status := .arrived (List.replicate 512 o) }
  { s with
    rings := s.rings.set 3 { Ring.reset with item := l.head?, itemCount := 3, nextItem := 2, items := [page 0 0x85, page 1 0x10] }
    coder := { s.coder with decoders := s.coder.decoders.set 3 { d with extent := 1536 } } }

/-- An encoder that takes samples, at its last one and past it; a decoder in a SILENCE run and a VOICE frame, at the start of
stream frames of each tag, at an octet that has arrived and one that has not, and at its extent; and one item left or none. -/
theorem witness_BoundSlotsRecordAndPlay :
    let e (n : Nat) : Encoder := { encoderStarted 120 8 with samples := n }
    let s (st : ChanState) (l : List PlayItem) (d : Decoder) := hearing st l d
    let has (z : State) (pos : Nat) (v : Octet) := ∃ data,
      (z.ring 3).items.find? (·.index = pos / 512) = some { index := pos / 512, status := .arrived data } ∧
        data[pos % 512]? = some v
    (((recording .record Ring.reset (e 159)).chan 3).state = .record ∧
      ((recording .record Ring.reset (e 159)).ring 3).item = none ∧ (e 159).state = .running ∧ (e 159).samples < 160 ∧
      (e 159).frames < (e 159).lengthLimit ∧ (e 159).pendingSilence < (e 159).noVoiceLimit ∧ ¬(e 160).samples < 160) ∧
    ((voice (caller .listen) service).chan 3).state ≠ .record ∧ ((voice (caller .listen) service).ring 3).item = none ∧
    ((s .replay [.message 9] Decoder.reset).ring 3).item ≠ none ∧
    (has (s .replay [.message 9] Decoder.reset) 0 0x85 ∧ has (s .replay [.message 9] Decoder.reset) 511 0x85 ∧
      has (s .replay [.message 9] Decoder.reset) 512 0x10 ∧ (∀ v, ¬has (s .replay [.message 9] Decoder.reset) 1024 v)) ∧
    ((s .replay [.message 9] { Decoder.reset with inPlay := .silence 1 }).decoder 3).inPlay = .silence (0 + 1) ∧
    ((s .replay [.message 9] { Decoder.reset with inPlay := .voice 2, position := 1023 }).decoder 3).inPlay = .voice (1 + 1) ∧
    (((s .replay [.message 9] { Decoder.reset with position := 1536 }).decoder 3).extent ≤ 1536 ∧
      ((s .replay [.message 9] Decoder.reset).decoder 3).inPlay = .nothing ∧ 512 < 1536 ∧ 0 + 83 ≤ 1536) ∧
    ((s .greet [pGreeting, pTone] Decoder.reset).chan 3).playList = pGreeting :: pTone :: [] ∧
    (((s .greet [pTone] Decoder.reset).chan 3).playList.tail = [] ∧ ((s .greet [pTone] Decoder.reset).chan 3).room = some 5 ∧
      (s .greet [pTone] Decoder.reset).store.messages.length < 8192 ∧
      (s .greet [pTone] Decoder.reset).store.nextSerial ≠ 4294967295 ∧
      ((s .replay [.message 9] Decoder.reset).chan 3).current = some 9 ∧ ((s .closing [pGoodbye] Decoder.reset).chan 3).slot = some 7 ∧
      ((voice (caller .closing) service).chan 3).reading = false ∧ (queued 63 service).link.queue.length < 64) := by
  refine ⟨by decide +kernel, by decide +kernel, by decide +kernel, by decide +kernel, ⟨?_, ?_, ?_, ?_⟩, by decide +kernel, by decide +kernel,
    by decide +kernel, by decide +kernel, by decide +kernel⟩
  · exact ⟨List.replicate 512 0x85, by decide +kernel, by decide +kernel⟩
  · exact ⟨List.replicate 512 0x85, by decide +kernel, by decide +kernel⟩
  · exact ⟨List.replicate 512 0x10, by decide +kernel, by decide +kernel⟩
  · rintro v ⟨data, h, -⟩
    have : (((hearing .replay [.message 9] Decoder.reset).ring 3).items.find? (·.index = 1024 / 512)) = none := by decide +kernel
    rw [this] at h; cases h

/-- A list whose next prompt has no directory entry and whose next but one has. -/
theorem witness_BoundSlotsRecordAndPlay_missing :
    let s := hearing .closing [pNotInService, pTone, pGoodbye] { Decoder.reset with position := 1536 }
    let t : State := { s with store := { s.store with prompts := s.store.prompts.set 1 none } }
    (t.chan 3).playList.tail.dropWhile t.missing = [pGoodbye] ∧ t.link.queue.length < 64 ∧
      (t.decoder 3).extent ≤ (t.decoder 3).position := by
  decide +kernel

/-- Every entry of the table −8,192, and every one 8,191. -/
theorem witness_BoundSlotsRecordAndPlay_range :
    CodersInRange { State.reset with coder := { State.reset.coder with expansion := Vector.replicate 256 8191 } } ∧
    CodersInRange { State.reset with coder := { State.reset.coder with expansion := Vector.replicate 256 (-8192) } } := by
  refine ⟨⟨reset_codersInRange.1, fun k => ?_⟩, reset_codersInRange.1, fun k => ?_⟩ <;> simp

/-- A FREE channel, the last; a caller in GREET; a recording with its message not programmed and one being programmed; and a
reader; with room for the reports, in service and in SUSPENDING. -/
theorem witness_ChannelReset :
    (service.ready ∧ service.service ≠ .suspending) ∧ 31 < (0x20 : Octet).toNat ∧ (service.chan 31).state = .free ∧
    ((voice (caller .greet) service).ready ∧ ((voice (caller .greet) service).chan 3).state = .greet ∧
      ((voice (caller .greet) service).chan 3).reading = false ∧ ((voice (caller .greet) service).chan 3).slot = some 7 ∧
      (voice (caller .greet) service).link.queue.length < 63) ∧
    (let s := suspending (storing [fullPage 0 .full] false { taken with blocks := [] } [70])
     s.ready ∧ (s.chan 3).state = .record ∧ (s.chan 3).slot = some 7 ∧ (s.chan 3).current = some 9 ∧
       s.message 9 = some { taken with blocks := [] } ∧ taken.state = .recording ∧ s.link.queue.length < 62 ∧
       ∀ m ∈ s.store.messages, m.blank14 = true ∧ m.blank15 = true) ∧
    (let s := listener .replay { heard with readers := 1 }
     s.ready ∧ (s.chan 3).state = .replay ∧ (s.chan 3).slot = some 7 ∧ (s.chan 3).reading = true ∧
       (s.chan 3).current = some 9 ∧ s.message 9 = some { heard with readers := 1 } ∧ s.link.queue.length < 62) := by
  refine ⟨⟨service_ready, by decide⟩, by decide, by decide, ⟨⟨rfl, rfl, by decide⟩, by decide⟩,
    ⟨⟨rfl, rfl, by decide⟩, by decide +kernel⟩, ⟨rfl, rfl, by decide⟩, by decide⟩

/-! ## Witnesses: the staging rings, the flash port and the store -/

/-- Ring sizes at 2 and 16 with a sum of 256, one past it, and one of 17; codes 4 and 3; a store with and without geometry. -/
theorem witness_GeometryAndMount :
    let sizes := List.replicate 12 (2 : Octet) ++ List.replicate 11 (16 : Octet) ++ List.replicate 8 (6 : Octet) ++ [8]
    let beyond := List.replicate 12 (2 : Octet) ++ List.replicate 11 (16 : Octet) ++ List.replicate 8 (6 : Octet) ++ [9]
    let placed (g m : Bool) : State := { State.reset with store := { State.reset.store with geometrySet := g, mounted := m } }
    (State.reset.ready ∧ sizes.length = 32 ∧ (∀ z ∈ sizes, 2 ≤ z.toNat ∧ z.toNat ≤ 16) ∧ (sizes.map (·.toNat)).sum = 256 ∧
      (4 : Octet).toNat ≤ 4 ∧ (3 : Octet).toNat ≤ 3 ∧ State.reset.store.mounted = false ∧ State.reset.service = .setup) ∧
    (beyond.length = 32 ∧ ¬(beyond.map (·.toNat)).sum ≤ 256 ∧ ¬((17 : Octet).toNat ≤ 16) ∧ ¬((5 : Octet).toNat ≤ 4)) ∧
    (service.ready ∧ service.service ≠ .setup) ∧
    ((placed true true).ready ∧ (placed true true).store.mounted = true ∧ (placed true false).ready ∧
      (placed true false).store.geometrySet = true ∧ (placed true false).store.mounted = false) := by
  refine ⟨⟨⟨rfl, rfl, by decide⟩, by decide +kernel⟩, by decide +kernel, ⟨service_ready, by decide⟩, ⟨rfl, rfl, by decide⟩, rfl,
    ⟨rfl, rfl, by decide⟩, rfl, rfl⟩

/-- SETUP with a prompt area of 64 blocks, so 1,024 pages. -/
def promptSetup : State :=
  { State.reset with store := { State.reset.store with geometrySet := true, totalBlocks := 4096, promptBlocks := 64 } }

/-- `promptSetup` with a load buffer for page 1,023. -/
def buffered : State :=
  { promptSetup with store := { promptSetup.store with buffer := { LoadBuffer.reset with target := some 1023 } } }

theorem witness_PromptCommands :
    let pages := promptSetup.store.promptBlocks * 16
    (promptSetup.ready ∧ buffered.ready ∧ (promptSetup.service = .setup ∧ promptSetup.store.geometrySet = true) ∧
      ¬((State.reset.service = .setup ∨ State.reset.service = .suspended) ∧ State.reset.store.geometrySet = true)) ∧
    (pages ≤ field24 0x08 0x00 0x00 / 512 ∧ field24 0x07 0xFF 0xC8 / 512 < pages ∧ field24 0x07 0xFF 0xC8 % 512 + 56 ≤ 512 ∧
      512 < field24 0x07 0xFF 0xC9 % 512 + 56) ∧
    (31 < (0x20 : Octet).toNat ∧ field16 0xFF 0xFF = 65535 ∧ (31 : PromptId).val = (0x1F : Octet).toNat ∧
      field16 0x03 0xFF + field16 0x00 0x01 ≤ pages ∧ field16 0x04 0x00 ≠ 65535 ∧
      pages < field16 0x04 0x00 + field16 0x00 0x01) ∧
    (promptSetup.store.buffer.target = none ∧ buffered.store.buffer.target = some 1023 ∧ pages ≤ field16 0x04 0x00 ∧
      field16 0x03 0xFF < pages) := by
  refine ⟨⟨⟨rfl, rfl, by decide⟩, ⟨rfl, rfl, by decide⟩, by decide, by decide⟩, by decide, by decide, by decide⟩

/-- A ring whose item page 0 has a read requested. -/
def playing : Ring :=
  { Ring.reset with item := some (.prompt 0), itemFlash := [3], itemCount := 1, nextItem := 1,
                    items := [{ index := 0, status := .reserved }] }

/-- A ring with a program request for page 0 of block 64. -/
def requesting : Ring :=
  { Ring.reset with recorded := [{ number := 0, data := List.replicate 512 0, status := .requested 64 0 0 }] }

/-- The port IDLE with 16 free blocks. -/
def roomy : State := { hotel guest with store := { service.store with free := List.range 16, dirty := [64, 65] } }

theorem roomy_ring (c : ChannelIx) : roomy.ring c = Ring.reset := service_ring c

/-- Each source of the arbiter with the sources above it empty. -/
theorem witness_ArbiterSources :
    let readS : State := { roomy with rings := roomy.rings.set 4 playing }
    let progS : State :=
      { roomy with rings := roomy.rings.set 3 requesting, channels := roomy.channels.set 3 { caller .record with current := some 9 },
                   store := { roomy.store with messages := [taken] } }
    (State.reset.port.state ≠ .idle ∧ roomy.resetLow = false ∧ roomy.port.state = .idle) ∧
    ({ roomy with store := { roomy.store with free := List.range 15 } }.store.free.length < 16 ∧ roomy.store.dirty = 64 :: [65] ∧
      ¬(roomy.store.free.length < 16 ∧ roomy.store.dirty ≠ [])) ∧
    ((readS.ring 4).items = [] ++ { index := 0, status := .reserved } :: [] ∧
      ∀ c', (c'.val + 31 - readS.port.pointer.val) % 32 < ((4 : ChannelIx).val + 31 - readS.port.pointer.val) % 32 →
        ∀ p ∈ (readS.ring c').items, p.status ≠ .reserved) ∧
    ((∀ c, ∀ p ∈ (progS.ring c).items, p.status ≠ .reserved) ∧
      { number := 0, data := List.replicate 512 0, status := .requested 64 0 0 } ∈ (progS.ring 3).recorded ∧
      (∀ c', ∀ p' ∈ (progS.ring c').recorded, ∀ b' g' a', p'.status = .requested b' g' a' →
        c' = 3 ∧ p' = { number := 0, data := List.replicate 512 0, status := .requested 64 0 0 } ∨ 0 < a') ∧
      (progS.chan 3).current = some taken.serial ∧ progS.message taken.serial = some taken) ∧
    ((∀ c, ∀ p ∈ (roomy.ring c).items, p.status ≠ .reserved) ∧
      (∀ c, ∀ p ∈ (roomy.ring c).recorded, ∀ b g a, p.status ≠ .requested b g a) ∧
      roomy.store.marks = [] ∧ roomy.store.job = .none ∧ State.reset.service = .setup ∧ ¬(roomy.service = .setup)) ∧
    ({ (mailed heard) with store := { (mailed heard).store with marks := [(9, .heard)] } }.store.marks = (9, .heard) :: [] ∧
      (mailed heard).message 9 = some heard ∧ heard.head = some 64) := by
  refine ⟨by decide, ?_, ⟨by decide, ?_⟩, ⟨?_, by decide +kernel, ?_, by decide, by decide⟩, ⟨?_, ?_, by decide⟩, by decide⟩
  · decide
  · intro c' h p hp
    by_cases hc : c' = 4
    · subst hc; exact absurd h (Nat.lt_irrefl _)
    · have : ({ roomy with rings := roomy.rings.set 4 playing } : State).ring c' = Ring.reset := by
        have h4 : (4 : Nat) ≠ c'.val := fun h' => hc (Fin.ext h'.symm)
        simp only [State.ring, Fin.getElem_fin]
        rw [Vector.getElem_set]; simp only [h4, if_false]
        exact roomy_ring c'
      rw [this] at hp; simp [Ring.reset] at hp
  · intro c p hp
    by_cases hc : c = 3
    · subst hc; revert p; decide +kernel
    · have : ({ roomy with rings := roomy.rings.set 3 requesting } : State).ring c = Ring.reset := by
        have h4 : (3 : Nat) ≠ c.val := fun h' => hc (Fin.ext h'.symm)
        simp only [State.ring, Fin.getElem_fin]
        rw [Vector.getElem_set]; simp only [h4, if_false]
        exact roomy_ring c
      have hp' : p ∈ (({ roomy with rings := roomy.rings.set 3 requesting } : State).ring c).items := hp
      rw [this] at hp'; simp [Ring.reset] at hp'
  · intro c p hp b g a _
    by_cases hc : c = 3
    · subst hc
      have : (({ roomy with rings := roomy.rings.set 3 requesting } : State).ring 3) = requesting := rfl
      have hp' : p ∈ (({ roomy with rings := roomy.rings.set 3 requesting } : State).ring 3).recorded := hp
      rw [this] at hp'; simp only [requesting, List.mem_singleton] at hp'
      exact .inl ⟨rfl, hp'⟩
    · have : ({ roomy with rings := roomy.rings.set 3 requesting } : State).ring c = Ring.reset := by
        have h4 : (3 : Nat) ≠ c.val := fun h' => hc (Fin.ext h'.symm)
        simp only [State.ring, Fin.getElem_fin]
        rw [Vector.getElem_set]; simp only [h4, if_false]
        exact roomy_ring c
      have hp' : p ∈ (({ roomy with rings := roomy.rings.set 3 requesting } : State).ring c).recorded := hp
      rw [this] at hp'; simp [Ring.reset] at hp'
  · intro c p hp; rw [roomy_ring] at hp; simp [Ring.reset] at hp
  · intro c p hp; rw [roomy_ring] at hp; simp [Ring.reset] at hp

/-- A jobs' operation and the maintenance jobs that call for it, in SETUP. -/
def working (op : FlashOp) (j : Job) (s : State) : State :=
  { s with port := { s.port with state := .busy, op := some op }, store := { s.store with job := j } }

/-- The program in progress of `draining`'s first page, with the ring, the channel's state and the message given. -/
def programming (g : Ring) (st : ChanState) (m : List Message) : State :=
  let s := recording st g { encoderStarted 120 8 with state := .finished, voiceFrames := 25 }
  let s := { s with store := { s.store with messages := m, free := [70], mounted := true } }
  working (.ringProgram 3 9 64 0 true (List.replicate 512 0) blankSpare) .none s

/-- A ring with one page, being programmed. -/
def lastPage : Ring :=
  { Ring.reset with ended := true, recorded := [{ number := 0, data := List.replicate 512 0, status := .programming 64 0 0 }] }

/-- The state after a read has been issued for ring 3. -/
def reading (g : Ring) : State := working (.ringRead 3 0 3) .none { service with rings := service.rings.set 3 g }

theorem witness_RingCompletions :
    let s := programming lastPage .flush [taken]
    let gone : State := { s with channels := s.channels.set 3 { s.chan 3 with callerPresent := false } }
    let left := programming { Ring.reset with held := [.program] } .free []
    (s.resetLow = false ∧ s.service ≠ .suspending ∧
      s.port.op = some (.ringProgram 3 9 64 0 true (List.replicate 512 0) blankSpare) ∧ (s.ring 3).exhausted = false ∧
      .program ∉ (s.ring 3).held ∧ s.message 9 = some taken ∧ taken.blocks = [] ++ [{ block := 64, valid := 0, retire := false }] ∧
      taken.blocks.length < 320 ∧ s.store.free = 70 :: [] ∧ s.link.queue.length < 64) ∧
    ((∀ q ∈ (s.ring 3).recorded, q.status ≠ .full) ∧
      ((programming lastPage .record [taken]).chan 3).state ≠ .flush) ∧
    ((gone.ring 3).recorded.filter (!·.isProgramming) = [] ∧ (gone.ring 3).ended = true ∧ (gone.chan 3).state = .flush ∧
      (gone.chan 3).callerPresent = false ∧ (gone.chan 3).reading = false ∧ (gone.chan 3).current = some 9 ∧
      (gone.chan 3).slot = some 7 ∧ taken.room = 5 ∧ (gone.room 5).occupancy = .occupied ∧
      25 ≤ (gone.encoder 3).voiceFrames) ∧
    (.program ∈ (left.ring 3).held ∧ (left.ring 3).recorded = [] ∧ (left.ring 3).nextItem = (left.ring 3).itemCount ∧
      left.message 9 = none ∧ left.link.queue.length < 64) ∧
    (let r := reading { playing with items := [{ index := 0, status := .reading }] }
     r.resetLow = false ∧ r.port.op = some (.ringRead 3 0 3) ∧ .read ∉ (r.ring 3).held ∧
       (r.ring 3).nextItem = (r.ring 3).itemCount) ∧
    .read ∈ ((reading { Ring.reset with held := [.read] }).ring 3).held := by
  decide +kernel

/-- A program of an exhausted ring, with its caller present and gone; a held program whose message is DELETING; a failed program
with a later block in the list, with a block free, with none, and with no record; and a flush end with the caller present. -/
theorem witness_RingCompletions_others :
    let l := [fullPage 0 (.programming 64 0 0), fullPage 1 (.requested 64 1 1)]
    let two : Message := { taken with blocks := [{ block := 64, valid := 0, retire := false }, { block := 66, valid := 0, retire := false }] }
    let s := prompted (programming { lastPage with recorded := l, ended := false } .record [taken])
    let ex := prompted (programming { lastPage with exhausted := true } .flush [taken])
    let ex := ex.withChan 3 { ex.chan 3 with playList := [pStoreFull, pGoodbye] }
    let held := programming { Ring.reset with held := [.program] } .free [{ taken with state := .deleting }]
    ((ex.ring 3).exhausted = true ∧ .program ∉ (ex.ring 3).held ∧ ex.link.queue.length < 62 ∧ (ex.chan 3).reading = false ∧
      (ex.chan 3).callerPresent = true ∧ (ex.chan 3).playList ≠ [] ∧
      ∀ m ∈ ex.store.messages, m.blank14 = true ∧ m.blank15 = true) ∧
    ((held.ring 3).exhausted = false ∧ .program ∈ (held.ring 3).held ∧ held.message 9 = some { taken with state := .deleting } ∧
      taken.readers = 0 ∧ taken.deletedPending = false ∧ held.link.queue.length < 63) ∧
    (s.message 9 = some taken ∧ taken.blocks = [] ++ { block := 64, valid := 0, retire := false } :: [] ∧
      taken.blocks.length < 320 ∧ s.store.free = 70 :: [] ∧ s.hasBlock taken ∧
      ¬({ s with store := { s.store with free := [] } } : State).hasBlock taken ∧ (s.chan 3).state = .record) ∧
    (two.blocks = [] ++ { block := 64, valid := 0, retire := false } :: [{ block := 66, valid := 0, retire := false }] ∧
      (programming lastPage .flush []).message 9 = none) ∧
    ((∀ c n b p head data spare, service.port.op ≠ some (.ringProgram c n b p head data spare)) ∧
      ∀ c k page, service.port.op ≠ some (.ringRead c k page)) ∧
    (ex.prompted ∧ s.prompted) := by
  refine ⟨by decide +kernel, by decide +kernel, by decide +kernel, by decide +kernel, ⟨?_, ?_⟩, ?_, prompted_prompted _⟩
  · intro c n b p head data spare; simp [service, State.reset]
  · intro c k page; simp [service, State.reset]
  · intro id; simp [prompted, State.withChan]

theorem witness_ErasesAndMarksComplete :
    let s := working (.erase 64) .none { service with store := { service.store with erasing := some 64 } }
    let mk (k : MarkKind) : State :=
      { working (.mark 1038 (markSpare k 9)) .none (mailed heard) with store := { (mailed heard).store with marking := some (9, k) } }
    (s.resetLow = false ∧ s.service ≠ .suspending ∧ s.link.queue.length < 64 ∧ s.port.op = some (.erase 64)) ∧
    ((mk .heard).port.op = some (.mark 1038 (markSpare .heard 9)) ∧ (mk .heard).store.marking = some (9, .heard) ∧
      (mk .deleted).store.marking = some (9, .deleted) ∧ (mk .deleted).message 9 = some heard) ∧
    ((∀ b, service.port.op ≠ some (.erase b)) ∧ ∀ page spare, service.port.op ≠ some (.mark page spare)) := by
  refine ⟨by decide, by decide, ?_, ?_⟩
  · intro b; simp [service, State.reset]
  · intro page spare; simp [service, State.reset]

/-- A HEAD block of serial 9 for room 5. -/
def mountHead : MountHead :=
  { block := 64, info := { serial := 9, room := 5, day := 0, urgent := false, second := 0, origin := none }, heardMark := false,
    blank14 := true, deletedMark := false, blank15 := true }

/-- A mount that has read the blocks given of an area of `n` blocks. -/
def mounting (n : Nat) (m : MountJob) : State :=
  let s : State := { State.reset with
    service := .mounting
    store := { State.reset.store with geometrySet := true, totalBlocks := 64 + n, promptBlocks := 64 } }
  working (.mountRead 1024) (.mount m) s

theorem witness_MountReads :
    let empty : MountJob := { classes := [], todo := [], page14 := false, found := [] }
    let second (p : Bool) : MountJob := { classes := [.head mountHead.info], todo := [mountHead], page14 := p, found := [] }
    ((mounting 2 empty).resetLow = false ∧ (mounting 2 empty).store.job = .mount empty ∧
      (mounting 2 empty).port.op = some (.mountRead 1024) ∧ (mounting 2 empty).link.queue.length < 64 ∧
      empty.classes.length + 1 < (mounting 2 empty).store.totalBlocks - (mounting 2 empty).store.promptBlocks) ∧
    ((mounting 1 (second false)).store.totalBlocks - (mounting 1 (second false)).store.promptBlocks ≤ (second false).classes.length ∧
      (second false).todo = mountHead :: [] ∧ (second false).page14 = false ∧
      { second true with todo := [mountHead, mountHead] }.todo = mountHead :: [mountHead] ∧ [mountHead] ≠ []) ∧
    (empty.classes.length + 1 = (mounting 1 empty).store.totalBlocks - (mounting 1 empty).store.promptBlocks ∧
      empty.todo = [] ∧ empty.found = [] ∧
      ∀ k ∈ empty.classes ++ [classifySpare (Vector.replicate 16 (0xFF : Octet)).toList], k = .free ∨ k = .dirty) ∧
    ((mounting 1 (second true)).store.totalBlocks - (mounting 1 (second true)).store.promptBlocks = (second true).classes.length ∧
      (second true).todo = [mountHead] ∧ (second true).page14 = true ∧ (second true).found = [] ∧
      isMark .deleted mountHead.info.serial (Vector.replicate 16 (0xFF : Octet)).toList = false) := by
  decide +kernel

/-- The last read of the first step with and without a HEAD block, and the last read of all, in both forms. -/
theorem witness_MountReads_ends :
    let first : MountJob := { classes := [.head mountHead.info], todo := [], page14 := false, found := [] }
    let last : MountJob := { classes := [.head mountHead.info, .cont 9 1], todo := [mountHead], page14 := true, found := [mountHead] }
    (first.classes.length + 1 = (mounting 2 first).store.totalBlocks - (mounting 2 first).store.promptBlocks ∧
      (mounting 2 first).store.job = .mount first) ∧
    ((mounting 2 last).store.totalBlocks - (mounting 2 last).store.promptBlocks ≤ last.classes.length ∧
      last.todo = mountHead :: [] ∧ last.page14 = true ∧ (mounting 2 last).link.queue.length < 64) ∧
    ∀ page, service.port.op ≠ some (.mountRead page) := by
  refine ⟨by decide, by decide, ?_⟩
  intro page; simp [service, State.reset]

theorem witness_PromptCompletions :
    let h : Held := ⟨0x54, 0x21, [], .working⟩
    let s (op : FlashOp) (j : Job) := working op j (holding .working 0x54 [] promptSetup)
    ((s (.promptErase 0) (.promptErase 0 0 [])).resetLow = false ∧ (s (.promptErase 0) (.promptErase 0 0 [])).link.holder = some h ∧
      (s (.promptErase 0) (.promptErase 0 0 [])).link.queue.length < 63 ∧
      (s (.promptErase 0) (.promptErase 0 0 [])).port.op = some (.promptErase 0) ∧
      (s (.promptErase 0) (.promptErase 0 0 [])).store.job = .promptErase 0 0 [] ∧ 62 + 1 < promptSetup.store.promptBlocks ∧
      promptSetup.store.promptBlocks ≤ 63 + 1) ∧
    ((s (.promptProgram 0 [] []) (.promptCommit 0)).port.op = some (.promptProgram 0 [] []) ∧
      (s (.promptRead 0) (.promptVerify 0)).port.op = some (.promptRead 0) ∧
      (s (.promptRead 0) (.promptVerify 0)).store.job = .promptVerify 0 ∧
      (s (.promptRead 0) (.promptBlank 0)).store.job = .promptBlank 0 ∧
      (s (.promptReadSpare 0) (.promptBlankSpare 0 true)).port.op = some (.promptReadSpare 0) ∧
      (s (.promptReadSpare 0) (.promptBlankSpare 0 true)).store.job = .promptBlankSpare 0 true) := by
  decide

theorem witness_TimeoutAndRecovery :
    let s := working (.erase 64) .none { service with store := { service.store with erasing := some 64 } }
    (service.resetLow = false ∧ service.port.op = none) ∧
    (s.resetLow = false ∧ s.service ≠ .suspending ∧ s.port.op = some (.erase 64)) :=
  ⟨⟨rfl, rfl⟩, rfl, by decide, rfl⟩

/-! ## Witnesses: the invariants -/

theorem reset_statusLegal : StatusLegal State.reset where
  attention := by decide
  missing := by decide
  present h := by revert h; decide
  frames := by decide
  seconds := by decide
  weekday := by decide
  day := by decide

theorem witness_EveryStepKeepsTheStatusLegal :
    QueueBounded State.reset ∧ StatusLegal State.reset ∧ step State.reset = .next State.reset :=
  ⟨by show 0 ≤ 64; decide, reset_statusLegal, rfl⟩

theorem witness_EveryStepKeepsBalancesInRange : BalancesInRange State.reset ∧ step State.reset = .next State.reset := by
  refine ⟨fun r => ?_, rfl⟩
  simp [State.room, State.reset, Room.reset]

theorem witness_EveryStepKeepsChargesAdmitted : ChargesAdmitted State.reset ∧ step State.reset = .next State.reset := by
  refine ⟨⟨?_, ?_⟩, rfl⟩
  · show 0 = (Vector.replicate 2048 Room.reset).toList.countP _
    rw [Vector.toList_replicate, List.countP_replicate]; rfl
  · simp [State.openMeters, State.reset]

theorem witness_EveryStepKeepsCodersInRange : CodersInRange State.reset ∧ step State.reset = .next State.reset :=
  ⟨reset_codersInRange, rfl⟩

theorem witness_EveryStepKeepsBindingsOneToOne : BindingsOneToOne State.reset ∧ step State.reset = .next State.reset := by
  refine ⟨⟨fun k c => ?_, fun c _ => ?_, fun k t h => ?_⟩, rfl⟩
  · simp [State.chan, State.reset, Channel.reset]
  · simp [State.chan, State.reset, Channel.reset]
  · simp [State.reset] at h

theorem witness_EveryStepKeepsLampQueue : LampQueueAgrees State.reset ∧ step State.reset = .next State.reset := by
  refine ⟨⟨?_, fun r => ?_⟩, rfl⟩
  · simp [State.reset, LampControl.reset]
  · simp [State.room, State.reset, Room.reset, LampRecord.reset, LampControl.reset]

end Sys2Proof.Tests
end

section
/-! SUPPORT. SET_CLOCK (R6): what its owner answers in range and out of range, and what the command then does to the device. -/

namespace Sys2Proof.Machine

/-- R6's range of seconds-of-day and day-of-week. -/
theorem workSetClock_inRange {s2 s1 s0 w : Octet} (hs : field24 s2 s1 s0 ≤ 86399) (hw : w.toNat ≤ 6)
    (d1 d0 : Octet) (s : State) :
    workSetClock [s2, s1, s0, w, d1, d0] s =
      .done .ok [] (setClock (field24 s2 s1 s0) w.toNat (field16 d1 d0) s) :=
  if_pos ⟨Nat.lt_succ_of_le hs, hw⟩

theorem workSetClock_outOfRange {s2 s1 s0 w : Octet} (h : 86399 < field24 s2 s1 s0 ∨ 6 < w.toNat)
    (d1 d0 : Octet) (s : State) : workSetClock [s2, s1, s0, w, d1, d0] s = .refuse .badArgument s := by
  have hn : ¬ (field24 s2 s1 s0 < Config.secondsPerDay ∧ w.toNat ≤ 6) := by
    simp only [Config.secondsPerDay]; omega
  exact if_neg hn

/-- While RESET is high, SET_CLOCK is offered to the command holder (R177, R187). -/
theorem exec_setClock_taken {s : State} (h : s.resetLow = false) (tag : Octet) (fields : List Octet) :
    exec (.setClock tag fields) s = .next (holderTake 0x44 tag fields (workSetClock fields) s) :=
  event_taken h

/-- Settles O9: out of range the holder answers a refusal; in range the owner writes the clock and the attention set, which
lie outside the link, so the reply is the only other change. -/
theorem setClockLoadsTheClock : Obligations.SetClockLoadsTheClock := by
  intro tag s2 s1 s0 w d1 d0 s hready
  have ⟨hreset, _, _⟩ := hready
  rw [exec_setClock_taken hreset]
  refine ⟨fun hout => ?outOfRange, fun hs hw => ?inRange⟩
  case outOfRange => rw [holderTake_refuse hready (workSetClock_outOfRange hout ..)]
  case inRange =>
    rw [holderTake_effect hready (workSetClock_inRange hs hw ..) (by simp)]
    rfl

end Sys2Proof.Machine
end

section
/-! SUPPORT. CHECK_IN (R28): what its owner answers for a loaded room in each occupancy, and what the command then does. -/

namespace Sys2Proof.Machine

/-- CHECK_IN of a loaded room with a limit in range passes the room checks, so that the stay alone decides (R28). -/
theorem workCheckIn_passed {a b l2 l1 l0 : Octet} {s : State} {r : RoomIx} (hm : s.service ≠ .mounting)
    (hr : field16 a b = r.val) (hlimit : field24 l2 l1 l0 ≤ 9999999) (hl : (s.room r).loaded = true) :
    workCheckIn [a, b, l2, l1, l0] s =
      if (s.room r).occupancy ≠ .vacant then .refuse .badState s
      else if 0 < (s.room r).recordings then .refuse .busy s
      else .done .ok [] (evaluateRoom r (s.updRoom r (roomOpened (field24 l2 l1 l0) s.clock))) := by
  have hok : decide (field24 l2 l1 l0 ≤ Config.maxBalance) = true := decide_eq_true hlimit
  simp only [workCheckIn, hok]
  exact checkedRoom_passed hm hr fun _ => hl

/-- While RESET is high, CHECK_IN is offered to the command holder (R177, R187). -/
theorem exec_checkIn_taken {s : State} (h : s.resetLow = false) (tag : Octet) (fields : List Octet) :
    exec (.checkIn tag fields) s = .next (holderTake 0x47 tag fields (workCheckIn fields) s) :=
  event_taken h

/-- Settles O15: the owner sees the room as it stood, because the holder lies outside the rooms; it refuses a room that is not
VACANT, then one with a recording, and otherwise writes the room record and re-evaluates it, which leaves the link alone. -/
theorem checkInOpensTheStay : Obligations.CheckInOpensTheStay := by
  intro tag a b l2 l1 l0 s r hready hmount hroom hlimit hloaded
  have ⟨hreset, _, _⟩ := hready
  have hwork := workCheckIn_passed (s := s.held 0x47 tag [a, b, l2, l1, l0]) hmount hroom hlimit hloaded
  rw [exec_checkIn_taken hreset]
  refine ⟨fun hocc => ?notVacant, fun hvac hrec => ?recording, fun hvac hrec => ?opened⟩
  case notVacant => rw [holderTake_refuse hready (hwork.trans (if_pos hocc))]
  case recording =>
    rw [holderTake_refuse hready (hwork.trans ((if_neg (not_not_intro hvac)).trans (if_pos hrec)))]
  case opened =>
    have hnone : ¬ 0 < (s.room r).recordings := by omega
    rw [holderTake_effect hready (hwork.trans ((if_neg (not_not_intro hvac)).trans (if_neg hnone))) (by simp)]
    rfl

end Sys2Proof.Machine
end

section
/-! SUPPORT. LOAD_EXPANSION (R68): what a load writes in the expansion table and what it leaves, what its owner answers for a
load of a lawful length, and what the command then does. -/

namespace Sys2Proof.Machine

/-! ## Entries written one after another -/

/-- Octets that make no pair name no entry. -/
theorem writeEntries_short {l : List Octet} (h : ∀ a b rest, l = a :: b :: rest → False) {i : Nat} {c : Coder} :
    writeEntries i l c = c :=
  writeEntries.eq_2 i l c h

/-- A load writes the expansion table and the loaded map of the coder alone. -/
theorem writeEntries_frame (i : Nat) (l : List Octet) (c : Coder) :
    writeEntries i l c =
      { c with expansion := (writeEntries i l c).expansion, loaded := (writeEntries i l c).loaded } := by
  induction i, l, c using writeEntries.induct with
  | case1 i a b l c ih => rw [writeEntries]; exact ih
  | case2 l i c hshort => rw [writeEntries_short hshort]

/-- An entry before the first named or after the last one stays. -/
theorem writeEntries_unnamed {i : Nat} {l : List Octet} {j : Fin 256} (c : Coder)
    (hj : j.val < i ∨ i + l.length / 2 ≤ j.val) :
    (writeEntries i l c).expansion[j] = c.expansion[j] ∧ (writeEntries i l c).loaded[j] = c.loaded[j] := by
  induction i, l, c using writeEntries.induct with
  | case1 i a b l c ih =>
    simp only [List.length_cons] at hj
    have hne : i ≠ j.val := by omega
    obtain ⟨hexp, hload⟩ := ih (by omega)
    rw [writeEntries, hexp, hload]
    simp [hne]
  | case2 l i c hshort => rw [writeEntries_short hshort]; exact ⟨rfl, rfl⟩

/-- The entry at the index a load begins with takes its first two octets: the entries after it leave it as it is. -/
theorem writeEntries_first (a b : Octet) (l : List Octet) (c : Coder) (j : Fin 256) :
    (writeEntries j.val (a :: b :: l) c).expansion[j] = clampLinear (fieldInt16 a b) ∧
      (writeEntries j.val (a :: b :: l) c).loaded[j] = true := by
  obtain ⟨hexp, hload⟩ := writeEntries_unnamed (i := j.val + 1) (l := l) (j := j)
    { c with expansion := c.expansion.setIfInBounds j.val (clampLinear (fieldInt16 a b))
             loaded := c.loaded.setIfInBounds j.val true } (.inl (Nat.lt_succ_self _))
  rw [writeEntries, hexp, hload]
  simp

/-- Each entry named takes the pair of octets at its place, clamped, and is marked loaded. -/
theorem writeEntries_named {i : Nat} {l : List Octet} {j : Fin 256} (c : Coder) (hi : i ≤ j.val)
    (hj : j.val < i + l.length / 2) :
    (writeEntries i l c).expansion[j] =
        clampLinear (fieldInt16 (l.getD (2 * (j.val - i)) 0) (l.getD (2 * (j.val - i) + 1) 0)) ∧
      (writeEntries i l c).loaded[j] = true := by
  induction i, l, c using writeEntries.induct with
  | case1 i a b l c ih =>
    simp only [List.length_cons] at hj
    rcases hi.eq_or_lt with rfl | hlt
    · simpa using writeEntries_first a b l c j
    · have hplace : 2 * (j.val - i) = 2 * (j.val - (i + 1)) + 2 := by omega
      rw [hplace, writeEntries]
      exact ih hlt (by omega)
  | case2 l i c hshort =>
    rcases l with _ | ⟨a, _ | ⟨b, l⟩⟩
    · exact absurd hj (Nat.not_lt.mpr hi)
    · simp only [List.length_singleton] at hj
      omega
    · exact (hshort a b l rfl).elim

/-! ## The command -/

/-- A load of 1–28 whole entries passes the length check, so that the service state and the index range decide (R68). -/
theorem workLoadExpansion_passed {l : List Octet} (heven : l.length % 2 = 0) (hmin : 2 ≤ l.length) (hmax : l.length ≤ 56)
    (i : Octet) (s : State) :
    workLoadExpansion (i :: l) s =
      if s.service ≠ .setup then .refuse .badState s
      else if 256 < i.toNat + l.length / 2 then .refuse .badArgument s
      else .done .ok [] { s with coder := writeEntries i.toNat l s.coder } :=
  if_neg (by omega)

/-- While RESET is high, LOAD_EXPANSION is offered to the command holder (R177, R187). -/
theorem exec_loadExpansion_taken {s : State} (h : s.resetLow = false) (tag : Octet) (fields : List Octet) :
    exec (.loadExpansion tag fields) s = .next (holderTake 0x50 tag fields (workLoadExpansion fields) s) :=
  event_taken h

/-- Settles O24: the owner refuses outside SETUP, then past index 255; otherwise it writes the coder, which lies outside the
link, and each entry of the table is one the load names or one it leaves. -/
theorem expansionLoad : Obligations.ExpansionLoad := by
  intro tag i l s hready heven hmin hmax
  have ⟨hreset, _, _⟩ := hready
  have hwork := workLoadExpansion_passed heven hmin hmax i (s.held 0x50 tag (i :: l))
  rw [exec_loadExpansion_taken hreset]
  refine ⟨fun hstate => ?notSetup, fun hsetup hpast => ?pastTheEnd, fun hsetup hfits => ?loaded⟩
  case notSetup => rw [holderTake_refuse hready (hwork.trans (if_pos hstate))]
  case pastTheEnd =>
    rw [holderTake_refuse hready (hwork.trans ((if_neg (not_not_intro hsetup)).trans (if_pos hpast)))]
  case loaded =>
    have hdone := hwork.trans ((if_neg (not_not_intro hsetup)).trans (if_neg (Nat.not_lt.mpr hfits)))
    refine ⟨{ s with coder := writeEntries i.toNat l s.coder, link := s.link.replied tag .ok [] }, ?_, ?_, fun j => ?_⟩
    · rw [holderTake_effect hready hdone rfl]
      rfl
    · exact congrArg (fun c => { s with coder := c, link := s.link.replied tag .ok [] })
        (writeEntries_frame i.toNat l s.coder)
    · split
      case isTrue hnamed =>
        obtain ⟨hlow, hhigh⟩ := hnamed
        simpa only [clampLinear_eq] using writeEntries_named s.coder hlow hhigh
      case isFalse hother => exact writeEntries_unnamed s.coder (by omega)

end Sys2Proof.Machine
end

section
/-! SUPPORT. A room's evaluation (R128–R130, R171): what each part answers, and what an evaluation makes of a room just
written and of the lamp order queue. -/

namespace Sys2Proof.Machine

/-! ## The parts of an evaluation -/

/-- R128, its last condition read as a proposition. -/
theorem desiredLamp_eq (x : Room) :
    desiredLamp x =
      if x.occupancy ≠ .occupied then .off else if 0 < x.urgentCount then .fast else if 0 < x.newCount then .slow
      else if x.desk = true ∨ x.barred = true then .steady else .off := by
  simp only [desiredLamp, Bool.or_eq_true]

/-- R129, its first condition read as a proposition. -/
theorem targetLamp_eq (hold : Bool) (x : Room) (desired : Lamp) :
    targetLamp hold x desired =
      if x.loaded = false ∨ x.lamp.absent = true then none
      else if x.lamp.shut then some (if hold then x.lamp.ordered.getD .off else .off)
      else some desired := by
  simp only [targetLamp, Bool.or_eq_true, Bool.not_eq_true', apply_ite some]

/-- Only a room that is not loaded, or whose lamp is absent, has no target (R129). -/
theorem targetLamp_isSome (hold : Bool) (x : Room) (desired : Lamp) :
    (targetLamp hold x desired).isSome = (x.loaded && !x.lamp.absent) := by
  rw [targetLamp_eq]
  cases hloaded : x.loaded with
  | false => simp
  | true =>
    cases habsent : x.lamp.absent with
    | true => simp
    | false => cases hshut : x.lamp.shut <;> simp

theorem orderDue_eq (l : LampRecord) : orderDue l = decide (l.target ≠ none ∧ l.target ≠ l.ordered) := by
  rw [orderDue]
  cases l.target with
  | none => rfl
  | some t => simp [bne, beq_eq_decide]

/-- A lamp last ordered UNKNOWN is due an order whenever it has a target (R130). -/
theorem orderDue_unordered {l : LampRecord} (h : l.ordered = none) : orderDue l = l.target.isSome := by
  rw [orderDue, h]
  cases l.target <;> rfl

/-- R171, the restart condition read as a conjunction. -/
theorem barredAfter_eq (limit exposure : Nat) (manual barred : Bool) :
    barredAfter limit exposure manual barred =
      if limit ≠ 0 ∧ limit ≤ exposure then true else manual && barred := by
  cases manual <;> rfl

/-! ## The evaluation of a room just written -/

theorem State.setRoom_setRoom (s : State) (r : RoomIx) (x y : Room) : (s.setRoom r x).setRoom r y = s.setRoom r y := by
  simp only [State.setRoom, Vector.set_set]

theorem State.classOf_setRoom (s : State) (r : RoomIx) (x : Room) : (s.setRoom r x).classOf r = s.classes[x.cls] := by
  simp only [State.classOf, State.room_setRoom_same, State.setRoom_classes]

/-- The target evaluation of a room whose record has just been written reads nothing of the old record, and the room joins
the lamp order queue when it was not queued and is due an order (R130). -/
theorem evaluateLamp_setRoom {s : State} {x y : Room} (hy : lampEvaluated (s.classes[x.cls]).shutdownHold x = y)
    (r : RoomIx) :
    evaluateLamp r (s.setRoom r x) =
      { s.setRoom r y with lamps := { s.lamps with
          queue := if x.lamp.queued = false ∧ y.lamp.queued = true then s.lamps.queue ++ [r] else s.lamps.queue } } := by
  simp only [evaluateLamp, State.classOf_setRoom, State.room_setRoom_same, State.setRoom_setRoom, State.setRoom_lamps, hy,
    Bool.and_eq_true, Bool.not_eq_true', and_comm]

/-- Settles O13: the barring evaluation writes the room record, the target evaluation then reads the record so written, and
each part answers as its own equation says. -/
theorem roomEvaluationRules : Obligations.RoomEvaluationRules := by
  intro r s x exposure barred desired target due
  have hbarring : evaluateBarring r s = s.setRoom r { x with barred := barred } := by
    rw [evaluateBarring, State.updRoom, barredAfter_eq]
    rfl
  have hdesired : desiredLamp { x with barred := barred } = desired := desiredLamp_eq _
  have htarget : targetLamp (s.classOf r).shutdownHold { x with barred := barred } desired = target := targetLamp_eq ..
  have hroom : lampEvaluated (s.classOf r).shutdownHold { x with barred := barred } =
      { x with barred := barred
               lamp := { x.lamp with desired := desired, target := target, queued := x.lamp.queued || due } } := by
    simp only [lampEvaluated, hdesired, htarget, orderDue_eq]
    rfl
  have hjoins : x.lamp.queued = false ∧ (x.lamp.queued || due) = true ↔ x.lamp.queued = false ∧ due = true :=
    and_congr_right fun hout => by rw [hout, Bool.false_or]
  rw [evaluateRoom, hbarring, evaluateLamp_setRoom hroom]
  simp only [hjoins]
  rfl

end Sys2Proof.Machine
end

section
/-! SUPPORT. The lamp commands (R139–R141): what the owners of LAMP_FORCE and LAMP_RESUME answer for a loaded room, what a
resync makes of the rooms and of the lamp order queue, and what each command then does. -/

namespace Sys2Proof.Machine

/-! ## LAMP_FORCE and LAMP_RESUME -/

theorem octet_eq_one_iff (f : Octet) : f = 1 ↔ f.toNat = 1 := BitVec.toNat_inj.symm

/-- LAMP_FORCE of a loaded room with a flag in range passes the room checks (R139). -/
theorem workLampForce_passed {a b f : Octet} {s : State} {r : RoomIx} (hm : s.service ≠ .mounting)
    (hr : field16 a b = r.val) (hf : f.toNat ≤ 1) (hl : (s.room r).loaded = true) :
    workLampForce [a, b, f] s = .done .ok [] (s.updLamp r fun l => { l with maint := decide (f.toNat = 1) }) := by
  have hflag : (f == 1) = decide (f.toNat = 1) := by
    rw [beq_eq_decide]
    exact decide_eq_decide.mpr (octet_eq_one_iff f)
  simp only [workLampForce, decide_eq_true hf, hflag]
  exact checkedRoom_passed hm hr fun _ => hl

/-- LAMP_RESUME of a loaded room passes the room checks, so that the restart and the hook alone decide (R140). -/
theorem workLampResume_passed {a b : Octet} {s : State} {r : RoomIx} (hm : s.service ≠ .mounting)
    (hr : field16 a b = r.val) (hl : (s.room r).loaded = true) :
    workLampResume [a, b] s =
      if (s.classOf r).lampManual = true ∧ (s.room r).lamp.offHook = true then .refuse .busy s
      else .done .ok [] (evaluateLamp r (s.updLamp r lampResumed)) := by
  rw [workLampResume]
  exact checkedRoom_passed hm hr fun _ => hl

/-- With MAINT and FAULT clear, off-hook is the one source left to keep the lamp shut (R140, step 2). -/
theorem lampResumed_eq (l : LampRecord) :
    lampResumed l = { l with maint := false, fault := false, failures := 0, absent := false
                             shut := if l.offHook = true then l.shut else false } := by
  have hshut : (l.shut && l.offHook) = if l.offHook = true then l.shut else false := by cases l.offHook <;> simp
  rw [lampResumed, hshut]

/-! ## LAMP_RESYNC -/

theorem getElem_mapVector {α β : Type} {n : Nat} (f : α → β) (v : Vector α n) (i : Fin n) :
    (mapVector f v)[i] = f v[i] := by
  simp [mapVector]

/-- LAMP_RESYNC is judged by the service state alone (R141). -/
theorem workLampResync_eq (s : State) :
    workLampResync [] s = if s.service = .mounting then .refuse .badState s else .done .ok [] (lampResync s) := rfl

/-- A room record whose last ordered state is UNKNOWN. -/
def Room.unordered (x : Room) : Room := { x with lamp := { x.lamp with ordered := none } }

/-- `s` with every room's last ordered state UNKNOWN (R141). -/
def State.unordered (s : State) : State := { s with rooms := mapVector Room.unordered s.rooms }

theorem lampResync_eq (s : State) :
    lampResync s = (List.finRange 2048).foldl (fun s r => evaluateLamp r s) s.unordered := rfl

@[simp] theorem State.room_unordered (s : State) (r : RoomIx) : s.unordered.room r = (s.room r).unordered :=
  getElem_mapVector ..

/-- An evaluation reads of the rooms only the room evaluated, so that the other rooms' last ordered states do not matter. -/
theorem evaluateLamp_unordered_room (r : RoomIx) (s : State) :
    (evaluateLamp r s.unordered).room r = (evaluateLamp r (s.setRoom r (s.room r).unordered)).room r := by
  simp only [evaluateLamp_room, if_true, State.room_unordered, State.room_setRoom_same, State.classOf]
  rfl

/-- A room last ordered UNKNOWN joins the lamp order queue when it is loaded, present and not queued (R129, R130). -/
theorem lampEvaluated_joins_unordered (hold : Bool) (x : Room) :
    ((lampEvaluated hold x.unordered).lamp.queued && !x.unordered.lamp.queued) =
      (x.loaded && !x.lamp.absent && !x.lamp.queued) := by
  have hdue : (lampEvaluated hold x.unordered).lamp.queued = (x.lamp.queued || (x.loaded && !x.lamp.absent)) := by
    simp only [lampEvaluated]
    rw [orderDue_unordered rfl, targetLamp_isSome]
    rfl
  rw [hdue]
  change ((x.lamp.queued || _) && !x.lamp.queued) = _
  cases x.lamp.queued <;> simp

theorem evaluateLamps_link (l : List RoomIx) (s : State) (k : Link) :
    l.foldl (fun s r => evaluateLamp r s) { s with link := k } =
      { l.foldl (fun s r => evaluateLamp r s) s with link := k } :=
  List.foldl_hom (fun z : State => { z with link := k }) fun z r => evaluateLamp_link r z k

theorem lampResync_link (s : State) (k : Link) : lampResync { s with link := k } = { lampResync s with link := k } := by
  rw [lampResync_eq, lampResync_eq]
  exact evaluateLamps_link _ s.unordered k

/-- A resync writes the rooms and the lamp order queue alone (R141). -/
theorem lampResync_spec (s : State) :
    lampResync s = { s with rooms := (lampResync s).rooms, lamps := { s.lamps with queue := (lampResync s).lamps.queue } } ∧
      (∀ r, (lampResync s).room r = (evaluateLamp r (s.setRoom r (s.room r).unordered)).room r) ∧
      (lampResync s).lamps.queue = s.lamps.queue ++ (List.finRange 2048).filter fun r =>
        (s.room r).loaded && !(s.room r).lamp.absent && !(s.room r).lamp.queued := by
  obtain ⟨heq, hrooms⟩ := evaluateLamps_spec (List.finRange 2048) (List.nodup_finRange _) s.unordered
  rw [← lampResync_eq] at heq hrooms
  have hqueue := congrArg (·.lamps.queue) heq
  refine ⟨heq.trans ?_, fun r => ?_, hqueue.trans ?_⟩
  · exact congrArg (fun q => { s with rooms := (lampResync s).rooms, lamps := { s.lamps with queue := q } }) hqueue.symm
  · rw [hrooms, if_pos (List.mem_finRange r), evaluateLamp_unordered_room]
  · refine congrArg (s.lamps.queue ++ ·) (List.filter_congr fun r _ => ?_)
    rw [evaluateLamp_room, if_pos rfl, State.room_unordered, lampEvaluated_joins_unordered]

/-! ## The commands -/

/-- While RESET is high, LAMP_FORCE is offered to the command holder (R177, R187). -/
theorem exec_lampForce_taken {s : State} (h : s.resetLow = false) (tag : Octet) (fields : List Octet) :
    exec (.lampForce tag fields) s = .next (holderTake 0x5A tag fields (workLampForce fields) s) :=
  event_taken h

/-- While RESET is high, LAMP_RESUME is offered to the command holder (R177, R187). -/
theorem exec_lampResume_taken {s : State} (h : s.resetLow = false) (tag : Octet) (fields : List Octet) :
    exec (.lampResume tag fields) s = .next (holderTake 0x5B tag fields (workLampResume fields) s) :=
  event_taken h

/-- While RESET is high, LAMP_RESYNC is offered to the command holder (R177, R187). -/
theorem exec_lampResync_taken {s : State} (h : s.resetLow = false) (tag : Octet) (fields : List Octet) :
    exec (.lampResync tag fields) s = .next (holderTake 0x5C tag fields (workLampResync fields) s) :=
  event_taken h

/-- LAMP_FORCE writes the MAINT source of its room (R139). -/
theorem exec_lampForce {tag a b f : Octet} {s : State} {r : RoomIx} (hready : s.ready) (hm : s.service ≠ .mounting)
    (hr : field16 a b = r.val) (hl : (s.room r).loaded = true) (hf : f.toNat ≤ 1) :
    exec (.lampForce tag [a, b, f]) s =
      .next { s.updLamp r fun l => { l with maint := decide (f.toNat = 1) } with link := s.link.replied tag .ok [] } := by
  have ⟨hreset, _, _⟩ := hready
  have hwork := workLampForce_passed (s := s.held 0x5A tag [a, b, f]) hm hr hf hl
  rw [exec_lampForce_taken hreset, holderTake_effect hready hwork rfl]
  rfl

/-- Outside MOUNTING, LAMP_RESYNC has the resync and the reply as its whole effect (R141). -/
theorem exec_lampResync {tag : Octet} {s : State} (hready : s.ready) (hm : s.service ≠ .mounting) :
    exec (.lampResync tag []) s = .next { lampResync s with link := s.link.replied tag .ok [] } := by
  have ⟨hreset, _, _⟩ := hready
  have hwork := (workLampResync_eq (s.held 0x5C tag [])).trans (if_neg hm)
  rw [exec_lampResync_taken hreset, holderTake_effect hready hwork (by simp), State.held, lampResync_link]

/-- Settles O38: past the room checks LAMP_FORCE writes one lamp field and LAMP_RESUME one lamp record before its evaluation;
LAMP_RESYNC evaluates every room once from a state in which every room is last ordered UNKNOWN, so that the rooms that join
the queue are those with a target and not queued. All three leave the link to the holder's reply. -/
theorem lampCommands : Obligations.LampCommands := by
  refine ⟨fun tag a b f s r hready hmount hroom hloaded => ?ofRoom, fun tag s hready => ?resync⟩
  case ofRoom =>
    have ⟨hreset, _, _⟩ := hready
    have hresume := workLampResume_passed (s := s.held 0x5B tag [a, b]) hmount hroom hloaded
    refine ⟨exec_lampForce hready hmount hroom hloaded, fun hmanual hoff => ?refused, fun hfree => ?resumed⟩
    case refused =>
      rw [exec_lampResume_taken hreset, holderTake_refuse hready (hresume.trans (if_pos ⟨hmanual, hoff⟩))]
    case resumed =>
      have hgo : ¬ ((s.classOf r).lampManual = true ∧ (s.room r).lamp.offHook = true) := by
        rcases hfree with h | h <;> simp [h]
      rw [exec_lampResume_taken hreset, holderTake_effect hready (hresume.trans (if_neg hgo)) (by simp),
        ← lampResumed_eq]
      rfl
  case resync =>
    have ⟨hreset, _, _⟩ := hready
    refine ⟨fun hmount => ?mounting, fun hmount => ?resynced⟩
    case mounting =>
      have hwork := (workLampResync_eq (s.held 0x5C tag [])).trans (if_pos hmount)
      rw [exec_lampResync_taken hreset, holderTake_refuse hready hwork]
    case resynced =>
      obtain ⟨heq, hrooms, hqueue⟩ := lampResync_spec s
      have hexec := exec_lampResync (tag := tag) hready hmount
      -- The resynced state is given a name of its own: the kernel is not to evaluate 2,048 rooms to compare its fields.
      obtain ⟨t, ht⟩ : ∃ t, lampResync s = t := ⟨_, rfl⟩
      rw [ht] at heq hrooms hqueue hexec
      exact ⟨_, hexec, congrArg (fun z : State => { z with link := s.link.replied tag .ok [] }) heq, hrooms, hqueue⟩

end Sys2Proof.Machine
end

section
/-! SUPPORT. The account commands (R38, R173–R175): what a command with one ground of refusal does, what the owners answer
for a loaded room, and what each command then does. -/

namespace Sys2Proof.Machine

/-- While RESET is high, a command whose owner has one ground of refusal, and otherwise changes only what lies outside the
link, is refused on that ground or has that change and the reply as its whole effect (R177, R178). -/
theorem event_refuse_or_effect {s z : State} {kind tag : Octet} {fields : List Octet} {owner : State → Work} {st : Status}
    {ground : Prop} [Decidable ground] (hready : s.ready)
    (ho : owner (s.held kind tag fields) = if ground then .refuse st (s.held kind tag fields) else .done .ok [] z)
    (hl : z.link = (s.held kind tag fields).link) :
    event (holderTake kind tag fields owner) s =
      .next (if ground then s.refused tag st else { z with link := s.link.replied tag .ok [] }) := by
  have ⟨hreset, _, _⟩ := hready
  rw [event_taken hreset]
  split
  case isTrue h => rw [holderTake_refuse hready (ho.trans (if_pos h))]
  case isFalse h => rw [holderTake_effect hready (ho.trans (if_neg h)) hl]

/-! ## The owners, past the room checks -/

/-- SET_CREDIT of a loaded room with a limit in range passes the room checks (R173). -/
theorem workSetCredit_passed {a b l2 l1 l0 : Octet} {s : State} {r : RoomIx} (hm : s.service ≠ .mounting)
    (hr : field16 a b = r.val) (hlimit : field24 l2 l1 l0 ≤ 9999999) (hl : (s.room r).loaded = true) :
    workSetCredit [a, b, l2, l1, l0] s =
      if (s.room r).occupancy = .vacant then .refuse .badState s
      else .done .ok [] (evaluateRoom r (s.updRoom r fun x => { x with creditLimit := field24 l2 l1 l0 })) := by
  have hok : decide (field24 l2 l1 l0 ≤ Config.maxBalance) = true := decide_eq_true hlimit
  simp only [workSetCredit, hok]
  exact checkedRoom_passed hm hr fun _ => hl

/-- POST_PAYMENT of a loaded room with an amount in range passes the room checks (R174). -/
theorem workPostPayment_passed {a b m2 m1 m0 : Octet} {s : State} {r : RoomIx} (hm : s.service ≠ .mounting)
    (hr : field16 a b = r.val) (hamount : field24 m2 m1 m0 ≤ 9999999) (hl : (s.room r).loaded = true) :
    workPostPayment [a, b, m2, m1, m0] s =
      if (s.room r).occupancy = .vacant then .refuse .badState s
      else .done .ok [] (evaluateRoom r (s.updRoom r fun x => { x with balance := x.balance - field24 m2 m1 m0 })) := by
  have hok : decide (field24 m2 m1 m0 ≤ Config.maxBalance) = true := decide_eq_true hamount
  simp only [workPostPayment, hok]
  exact checkedRoom_passed hm hr fun _ => hl

/-- UNBAR of a loaded room passes the room checks, so that the exposure alone decides (R175). -/
theorem workUnbar_passed {a b : Octet} {s : State} {r : RoomIx} (hm : s.service ≠ .mounting)
    (hr : field16 a b = r.val) (hl : (s.room r).loaded = true) :
    workUnbar [a, b] s =
      if (s.room r).creditLimit ≠ 0 ∧ (s.room r).creditLimit ≤ s.exposure r then .refuse .busy s
      else .done .ok [] (evaluateLamp r (s.updRoom r fun x => { x with barred := false })) := by
  rw [workUnbar]
  exact checkedRoom_passed hm hr fun _ => hl

/-- DESK_FLAG of a loaded room with a flag in range passes the room checks (R38). -/
theorem workDeskFlag_passed {a b f : Octet} {s : State} {r : RoomIx} (hm : s.service ≠ .mounting)
    (hr : field16 a b = r.val) (hf : f.toNat ≤ 1) (hl : (s.room r).loaded = true) :
    workDeskFlag [a, b, f] s =
      if (s.room r).occupancy ≠ .occupied then .refuse .badState s
      else .done .ok [] (evaluateLamp r (s.updRoom r fun x => { x with desk := decide (f = 1) })) := by
  simp only [workDeskFlag, decide_eq_true hf, beq_eq_decide]
  exact checkedRoom_passed hm hr fun _ => hl

/-! ## The commands -/

/-- SET_CREDIT writes the credit limit of a room that is not VACANT (R173). -/
theorem exec_setCredit {tag a b l2 l1 l0 : Octet} {s : State} {r : RoomIx} (hready : s.ready) (hm : s.service ≠ .mounting)
    (hr : field16 a b = r.val) (hl : (s.room r).loaded = true) (hlimit : field24 l2 l1 l0 ≤ 9999999) :
    exec (.setCredit tag [a, b, l2, l1, l0]) s =
      .next (if (s.room r).occupancy = .vacant then s.refused tag .badState
        else { evaluateRoom r (s.setRoom r { s.room r with creditLimit := field24 l2 l1 l0 }) with
               link := s.link.replied tag .ok [] }) := by
  have hwork := workSetCredit_passed (s := s.held 0x49 tag [a, b, l2, l1, l0]) hm hr hlimit hl
  exact (event_refuse_or_effect hready hwork (by simp) :)

/-- POST_PAYMENT lowers the balance of a room that is not VACANT, and the model's subtraction holds it at 0 (R174). -/
theorem exec_postPayment {tag a b m2 m1 m0 : Octet} {s : State} {r : RoomIx} (hready : s.ready) (hm : s.service ≠ .mounting)
    (hr : field16 a b = r.val) (hl : (s.room r).loaded = true) (hamount : field24 m2 m1 m0 ≤ 9999999) :
    exec (.postPayment tag [a, b, m2, m1, m0]) s =
      .next (if (s.room r).occupancy = .vacant then s.refused tag .badState
        else { evaluateRoom r (s.setRoom r { s.room r with balance := (s.room r).balance - field24 m2 m1 m0 }) with
               link := s.link.replied tag .ok [] }) := by
  have hwork := workPostPayment_passed (s := s.held 0x4A tag [a, b, m2, m1, m0]) hm hr hamount hl
  exact (event_refuse_or_effect hready hwork (by simp) :)

/-- UNBAR clears credit-barred unless the exposure meets the limit; the holder lies outside what the exposure reads (R175). -/
theorem exec_unbar {tag a b : Octet} {s : State} {r : RoomIx} (hready : s.ready) (hm : s.service ≠ .mounting)
    (hr : field16 a b = r.val) (hl : (s.room r).loaded = true) :
    exec (.unbar tag [a, b]) s =
      .next (if (s.room r).creditLimit ≠ 0 ∧ (s.room r).creditLimit ≤ s.exposure r then s.refused tag .busy
        else { evaluateLamp r (s.setRoom r { s.room r with barred := false }) with
               link := s.link.replied tag .ok [] }) := by
  have hwork := workUnbar_passed (s := s.held 0x4B tag [a, b]) hm hr hl
  exact (event_refuse_or_effect hready hwork (by simp) :)

/-- DESK_FLAG writes the desk flag of an OCCUPIED room (R38). -/
theorem exec_deskFlag {tag a b f : Octet} {s : State} {r : RoomIx} (hready : s.ready) (hm : s.service ≠ .mounting)
    (hr : field16 a b = r.val) (hl : (s.room r).loaded = true) (hf : f.toNat ≤ 1) :
    exec (.deskFlag tag [a, b, f]) s =
      .next (if (s.room r).occupancy ≠ .occupied then s.refused tag .badState
        else { evaluateLamp r (s.setRoom r { s.room r with desk := decide (f = 1) }) with
               link := s.link.replied tag .ok [] }) := by
  have hwork := workDeskFlag_passed (s := s.held 0x4C tag [a, b, f]) hm hr hf hl
  exact (event_refuse_or_effect hready hwork (by simp) :)

/-- Settles O17: past the room checks each command has one ground of refusal, which the holder leaves as it stood; otherwise it
writes one field of the room record and hands the room over. The payment's "held at 0" is the truncation of the subtraction. -/
theorem accountCommands : Obligations.AccountCommands := by
  intro tag a b o2 o1 o0 s r hready hmount hroom hloaded
  have hcredit := exec_setCredit (tag := tag) (l2 := o2) (l1 := o1) (l0 := o0) hready hmount hroom hloaded
  have hpayment := exec_postPayment (tag := tag) (m2 := o2) (m1 := o1) (m0 := o0) hready hmount hroom hloaded
  have hunbar := exec_unbar (tag := tag) hready hmount hroom hloaded
  have hdesk := exec_deskFlag (tag := tag) (f := o0) hready hmount hroom hloaded
  refine ⟨fun hrange hvac => ⟨?creditVacant, ?paymentVacant⟩, fun hrange hstay => ⟨?credit, ?payment⟩,
    fun hmet => ?limitMet, fun hunmet => ?unbarred, fun hflag hocc => ?notOccupied, fun hflag hocc => ?flagged⟩
  case creditVacant => rw [hcredit hrange, if_pos hvac]
  case paymentVacant => rw [hpayment hrange, if_pos hvac]
  case credit => rw [hcredit hrange, if_neg hstay]
  case payment =>
    have hheld : (s.room r).balance - field24 o2 o1 o0 =
        if (s.room r).balance ≤ field24 o2 o1 o0 then 0 else (s.room r).balance - field24 o2 o1 o0 := by
      split <;> omega
    rw [hpayment hrange, if_neg hstay, ← hheld]
  case limitMet => rw [hunbar, if_pos hmet]
  case unbarred =>
    have hbelow : ¬ ((s.room r).creditLimit ≠ 0 ∧ (s.room r).creditLimit ≤ s.exposure r) := by omega
    rw [hunbar, if_neg hbelow]
  case notOccupied => rw [hdesk hflag, if_pos hocc]
  case flagged => rw [hdesk hflag, if_neg (not_not_intro hocc)]

end Sys2Proof.Machine
end

section
/-! SUPPORT. CLEAR_ATTENTION (R185): what its owner makes of the attention set and of the outbound queue, and what the
command then does, its reply entering the queue or waiting for an entry. -/

namespace Sys2Proof.Machine

/-- A command whose owner ends its work at once, no entry being free for its reply: it waits in stage OFFERING (R179). -/
theorem holderTake_waits {s z : State} {kind tag : Octet} {fields : List Octet} {owner : State → Work} {st : Status}
    {data : List Octet} (hs : s.link.holder = none) (ho : owner (s.held kind tag fields) = .done st data z)
    (hz : z.link.holder = some ⟨kind, tag, fields, .working⟩) (hq : 64 ≤ z.link.queue.length) :
    holderTake kind tag fields owner s =
      { z with link := { z.link with holder := some ⟨kind, tag, fields, .offering st data⟩ } } := by
  have hdone : owner { s with link := { s.link with holder := some ⟨kind, tag, fields, .working⟩ } } = .done st data z := ho
  simp only [holderTake, hs, hdone, buildReply_eq hz, if_neg (Nat.not_lt.mpr hq)]

/-- The kinds left by a mask decide whether a frame is offered, and the queue whether it enters or is dropped (R185, R15). -/
theorem clearAttention_eq (mask : BitVec 16) (s : State) :
    clearAttention mask s =
      if s.attention &&& ~~~maskKinds mask = 0 then { s with attention := s.attention &&& ~~~maskKinds mask }
      else if s.link.queue.length < 64 then
        { s with attention := s.attention &&& ~~~maskKinds mask
                 link := { s.link with queue := s.link.queue ++ [.attention] } }
      else { s with attention := (s.attention &&& ~~~maskKinds mask) ||| attentionBit .outboundFull } := by
  rw [clearAttention, offerNotice_eq]
  rfl

/-- While RESET is high, CLEAR_ATTENTION is offered to the command holder (R177, R187). -/
theorem exec_clearAttention_taken {s : State} (h : s.resetLow = false) (tag : Octet) (fields : List Octet) :
    exec (.clearAttention tag fields) s = .next (holderTake 0x43 tag fields (workClearAttention fields) s) :=
  event_taken h

/-- Settles O26: the owner sees the set and the queue as they stood, because the holder lies outside both. With kinds left
its frame takes one entry ahead of the reply, so a queue of 63 has room for the frame alone; a full queue takes neither. -/
theorem clearAttentionRemovesKinds : Obligations.ClearAttentionRemovesKinds := by
  intro tag m1 m0 s hreset hholder mask left waits
  have hclear := clearAttention_eq (m1 ++ m0) (s.held 0x43 tag [m1, m0])
  have hwork {z : State} (hz : clearAttention (m1 ++ m0) (s.held 0x43 tag [m1, m0]) = z) :
      workClearAttention [m1, m0] (s.held 0x43 tag [m1, m0]) = .done .ok [] z := congrArg (Work.done .ok []) hz
  have hlength : (s.link.queue ++ [OutFrame.attention]).length = s.link.queue.length + 1 := List.length_append
  rw [exec_clearAttention_taken hreset]
  refine ⟨fun hfree hnone => ?emptied, fun hfree hleft => ?bothEnter, fun hone hleft => ?frameEnters, fun hfull => ?full⟩
  case emptied =>
    rw [holderTake_effect ⟨hreset, hholder, hfree⟩ (hwork (hclear.trans (if_pos hnone))) rfl]
    rfl
  case bothEnter =>
    have hentry : s.link.queue.length < 64 := by omega
    have hoffered := hclear.trans ((if_neg hleft).trans (if_pos hentry))
    rw [holderTake_done hholder (hwork hoffered) rfl (hlength.trans_lt (Nat.succ_lt_succ hfree))]
    simp [State.answered, State.held, ← hholder, left, mask, maskKinds]
  case frameEnters =>
    have hentry : s.link.queue.length < 64 := by omega
    have hoffered := hclear.trans ((if_neg hleft).trans (if_pos hentry))
    rw [holderTake_waits hholder (hwork hoffered) rfl (hlength.trans (congrArg (· + 1) hone)).ge]
    rfl
  case full =>
    by_cases hnone : left = 0
    · rw [holderTake_waits hholder (hwork (hclear.trans (if_pos hnone))) rfl hfull, if_pos hnone]
      rfl
    · have hdropped := hclear.trans ((if_neg hnone).trans (if_neg (Nat.not_lt.mpr hfull)))
      rw [holderTake_waits hholder (hwork hdropped) rfl hfull, if_neg hnone]
      rfl

end Sys2Proof.Machine
end


section
-- The proofs are elaborated one after another: the waiting threads would take the memory that the check allows.
set_option Elab.async false
/-! SUPPORT. What every operation keeps: the waiting commands and the seven invariants, said once for each operation of the
model as `Keeps`, so that a step is shown to keep them all together. -/

namespace Sys2Proof.Machine

/-! ## The relation -/

/-- The quantisers and the expansion table of a coder lie in their ranges (R71). -/
def Coder.inRange (k : Coder) : Prop :=
  (∀ c : ChannelIx, k.encoders[c].quant.inRange ∧ k.encoders[c].start.inRange ∧ k.decoders[c].quant.inRange) ∧
    ∀ j : Fin 256, -8192 ≤ k.expansion[j] ∧ k.expansion[j] ≤ 8191

theorem codersInRange_iff (s : State) : CodersInRange s ↔ s.coder.inRange := Iff.rfl

/-- `t` meets each invariant that `s` met. A field left out of it is one that the operation does not touch. -/
structure InvariantsKept (s t : State) : Prop where
  queue : QueueBounded s → QueueBounded t := by exact fun h => h
  status : StatusLegal s → StatusLegal t := by
    exact fun h => ⟨h.attention, h.missing, h.present, h.frames, h.seconds, h.weekday, h.day⟩
  balances : BalancesInRange s → BalancesInRange t := by exact fun h => h
  charges : ChargesAdmitted s → ChargesAdmitted t := by exact fun h => ⟨h.counted, h.sum⟩
  coders : CodersInRange s → CodersInRange t := by exact fun h => h
  bindings : BindingsOneToOne s → BindingsOneToOne t := by exact fun h => ⟨h.bound, h.free, h.unmapped⟩
  lamps : LampQueueAgrees s → LampQueueAgrees t := by exact fun h => ⟨h.once, h.queued⟩

theorem InvariantsKept.trans {s t u : State} (h : InvariantsKept s t) (k : InvariantsKept t u) : InvariantsKept s u where
  queue q := k.queue (h.queue q)
  status q := k.status (h.status q)
  balances q := k.balances (h.balances q)
  charges q := k.charges (h.charges q)
  coders q := k.coders (h.coders q)
  bindings q := k.bindings (h.bindings q)
  lamps q := k.lamps (h.lamps q)

/-- Besides, the waiting commands are the same. -/
structure Keeps (s t : State) : Prop extends InvariantsKept s t where
  pending : t.pending = s.pending := by rfl

theorem Keeps.refl (s : State) : Keeps s s := {}

theorem Keeps.trans {s t u : State} (h : Keeps s t) (k : Keeps t u) : Keeps s u :=
  { h.toInvariantsKept.trans k.toInvariantsKept with pending := k.pending.trans h.pending }

section
variable {s z : State}

/-! ## Fields that no invariant reads -/

theorem Keeps.store (h : Keeps s z) (x : Store) : Keeps s { z with store := x } := h.trans {}
theorem Keeps.port (h : Keeps s z) (x : Port) : Keeps s { z with port := x } := h.trans {}
theorem Keeps.rings (h : Keeps s z) (x : Vector Ring 32) : Keeps s { z with rings := x } := h.trans {}
theorem Keeps.service (h : Keeps s z) (x : Service) : Keeps s { z with service := x } := h.trans {}
theorem Keeps.tariff (h : Keeps s z) (x : Tariff) : Keeps s { z with tariff := x } := h.trans {}
theorem Keeps.directory (h : Keeps s z) (x : List (Nat × RoomIx)) : Keeps s { z with directory := x } := h.trans {}
theorem Keeps.classes (h : Keeps s z) (x : Vector ClassRecord 16) : Keeps s { z with classes := x } := h.trans {}

/-! ## Fields written within their ranges -/

theorem Keeps.link (h : Keeps s z) (l : Link) (hl : z.link.queue.length ≤ 64 → l.queue.length ≤ 64) :
    Keeps s { z with link := l } :=
  h.trans { queue := hl }

theorem Keeps.attention (h : Keeps s z) (a : BitVec 16) (ha : z.attention &&& 0xE000 = 0 → a &&& 0xE000 = 0) :
    Keeps s { z with attention := a } :=
  h.trans { status := fun q => ⟨ha q.attention, q.missing, q.present, q.frames, q.seconds, q.weekday, q.day⟩ }

theorem Keeps.coder (h : Keeps s z) (k : Coder) (hk : z.coder.inRange → k.inRange) : Keeps s { z with coder := k } :=
  h.trans { coders := hk }

/-- A clock stays in range. -/
structure ClockKept (c d : Clock) : Prop where
  frames : c.frames ≤ 8000 → d.frames ≤ 8000
  seconds : c.seconds < 86400 → d.seconds < 86400
  weekday : c.weekday < 7 → d.weekday < 7
  day : c.day < 65536 → d.day < 65536

theorem Keeps.clock (h : Keeps s z) (c : Clock) (hc : ClockKept z.clock c) : Keeps s { z with clock := c } :=
  h.trans
    { status := fun q => ⟨q.attention, q.missing, q.present, hc.frames q.frames, hc.seconds q.seconds,
        hc.weekday q.weekday, hc.day q.day⟩ }

/-- The highway written with its bindings as they stand and the missing-sync count in range (R7). -/
theorem Keeps.highway (h : Keeps s z) (x : Highway) (hb : x.bindings = z.highway.bindings)
    (hm : z.highway.missing ≤ 16 → (z.highway.presence = .present → z.highway.missing ≤ 15) →
      x.missing ≤ 16 ∧ (x.presence = .present → x.missing ≤ 15)) :
    Keeps s { z with highway := x } :=
  h.trans
    { status := fun q =>
        have ⟨hmissing, hpresent⟩ := hm q.missing q.present
        ⟨q.attention, hmissing, hpresent, q.frames, q.seconds, q.weekday, q.day⟩
      bindings := fun q =>
        ⟨fun k c => by rw [hb]; exact q.bound k c, q.free, fun k t => by rw [hb]; exact q.unmapped k t⟩ }

/-! ## Room records and the lamp order queue -/

/-- A room record written with its balance in range and its place in CHECKOUT_PENDING as it was. -/
structure AccountKept (x y : Room) : Prop where
  balance : x.balance ≤ 9999999 → y.balance ≤ 9999999 := by exact fun h => h
  pending : y.occupancy = .checkoutPending ↔ x.occupancy = .checkoutPending := by exact Iff.rfl

/-- Besides, its queued field is the same. -/
structure RoomKept (x y : Room) : Prop extends AccountKept x y where
  queued : y.lamp.queued = x.lamp.queued := by rfl

theorem countP_eq_of_forall {α : Type} {n : Nat} {p : α → Bool} {v w : Vector α n} (h : ∀ i : Fin n, p w[i] = p v[i]) :
    w.toList.countP p = v.toList.countP p := by
  have hmap : w.toList.map p = v.toList.map p := by
    refine List.ext_getElem (by simp) fun i hi _ => ?_
    simpa using h ⟨i, by simpa using hi⟩
  have hcount (u : Vector α n) : u.toList.countP p = (u.toList.map p).countP id := by
    rw [List.countP_map]; rfl
  rw [hcount, hcount, hmap]

/-- Every write of the rooms and of the lamp order queue that leaves the accounts and their agreement alone. -/
theorem Keeps.roomsAndLamps (h : Keeps s z) (v : Vector Room 2048) (x : LampControl)
    (hv : ∀ r : RoomIx, AccountKept z.rooms[r] v[r])
    (hx : LampQueueAgrees z → x.queue.Nodup ∧ ∀ r : RoomIx, v[r].lamp.queued = true ↔ r ∈ x.queue) :
    Keeps s { z with rooms := v, lamps := x } :=
  h.trans
    { balances := fun q r => (hv r).balance (q r)
      charges := fun q => by
        have hcount : State.pendingRooms { z with rooms := v, lamps := x } = z.pendingRooms :=
          countP_eq_of_forall fun r => decide_eq_decide.mpr (hv r).pending
        exact ⟨q.counted.trans hcount.symm, q.sum⟩
      lamps := fun q => ⟨(hx q).1, (hx q).2⟩ }

theorem Keeps.rooms (h : Keeps s z) (v : Vector Room 2048) (hv : ∀ r : RoomIx, RoomKept z.rooms[r] v[r]) :
    Keeps s { z with rooms := v } :=
  h.roomsAndLamps v z.lamps (fun r => (hv r).toAccountKept)
    fun q => ⟨q.once, fun r => by
      rw [(hv r).queued]
      exact q.queued r⟩

theorem Keeps.lampControl (h : Keeps s z) (x : LampControl) (hx : x.queue = z.lamps.queue := by rfl) :
    Keeps s { z with lamps := x } :=
  h.roomsAndLamps z.rooms x (fun _ => {}) fun q => by rw [hx]; exact ⟨q.once, q.queued⟩

/-- A property of a room's record before and after one record is replaced. -/
theorem State.forall_setRoom {P : RoomIx → Room → Room → Prop} {r : RoomIx} {x : Room} (hx : P r (z.room r) x)
    (ho : ∀ r', r' ≠ r → P r' (z.room r') (z.room r')) (r' : RoomIx) : P r' (z.room r') ((z.setRoom r x).room r') := by
  rw [State.room_setRoom]
  split
  case isTrue e => exact e ▸ hx
  case isFalse e => exact ho r' (Ne.symm e)

theorem Keeps.setRoom (h : Keeps s z) (r : RoomIx) (x : Room) (hx : RoomKept (z.room r) x) : Keeps s (z.setRoom r x) :=
  h.rooms _ (State.forall_setRoom (P := fun _ => RoomKept) hx fun _ _ => {})

theorem Keeps.updRoom (h : Keeps s z) (r : RoomIx) (f : Room → Room)
    (hf : ∀ x, RoomKept x (f x) := by exact fun _ => {}) :
    Keeps s (z.updRoom r f) := h.setRoom r _ (hf _)

theorem Keeps.updLamp (h : Keeps s z) (r : RoomIx) (f : LampRecord → LampRecord)
    (hf : ∀ l, (f l).queued = l.queued := by exact fun _ => rfl) :
    Keeps s (z.updLamp r f) := h.updRoom r _ fun x => { queued := hf x.lamp }

/-- A room joins the tail of the lamp order queue just when its queued field becomes yes (R130). -/
theorem Keeps.evaluateLamp (h : Keeps s z) (r : RoomIx) : Keeps s (evaluateLamp r z) := by
  refine h.roomsAndLamps _ _ (State.forall_setRoom (P := fun _ => AccountKept) {} fun _ _ => {}) fun q => ?_
  have hmem := q.queued r
  dsimp only
  generalize hx : lampEvaluated (z.classOf r).shutdownHold (z.room r) = x
  have hstays : (z.room r).lamp.queued = true → x.lamp.queued = true := by
    rw [← hx]; exact fun e => by simp [lampEvaluated, e]
  have hother (r' : RoomIx) (l : List RoomIx) (hl : r' ≠ r → (r' ∈ l ↔ r' ∈ z.lamps.queue)) (hr : x.lamp.queued = true ↔ r ∈ l) :
      ((z.setRoom r x).room r').lamp.queued = true ↔ r' ∈ l := by
    rw [State.room_setRoom]
    split
    case isTrue e => exact e ▸ hr
    case isFalse e => exact (q.queued r').trans (hl (Ne.symm e)).symm
  by_cases hjoin : x.lamp.queued && !(z.room r).lamp.queued
  · have ⟨hin, hout⟩ : x.lamp.queued = true ∧ (z.room r).lamp.queued = false := by simpa using hjoin
    have hr : r ∉ z.lamps.queue := by rw [← hmem, hout]; simp
    rw [if_pos hjoin]
    exact ⟨by rw [← List.concat_eq_append]; exact q.once.concat hr,
      fun r' => hother r' _ (by simp +contextual) (by simp [hin])⟩
  · rw [if_neg hjoin]
    refine ⟨q.once, fun r' => hother r' _ (fun _ => Iff.rfl) ?_⟩
    rw [← hmem]
    exact ⟨fun hin => by simpa [hin] using hjoin, hstays⟩

theorem Keeps.evaluateRoom (h : Keeps s z) (r : RoomIx) : Keeps s (evaluateRoom r z) :=
  (h.updRoom r _).evaluateLamp r

theorem Keeps.foldl {α : Type} (f : State → α → State) (hf : ∀ a {z : State}, Keeps s z → Keeps s (f z a)) (l : List α)
    (h : Keeps s z) : Keeps s (l.foldl f z) := by
  induction l generalizing z with
  | nil => exact h
  | cons a l ih => exact ih (hf a h)

/-! ## The attention set and the outbound queue -/

theorem attentionBit_legal (k : Attention) : attentionBit k &&& 0xE000 = 0 := by cases k <;> decide

theorem attentionJoin_legal {a : BitVec 16} (h : a &&& 0xE000 = 0) (k : Attention) : attentionJoin a k &&& 0xE000 = 0 := by
  rw [attentionJoin, BitVec.and_comm, BitVec.and_or_distrib_left, BitVec.and_comm, h, BitVec.and_comm, attentionBit_legal]
  rfl

theorem attentionRemove_legal {a : BitVec 16} (h : a &&& 0xE000 = 0) (mask : BitVec 16) :
    attentionRemove a mask &&& 0xE000 = 0 := by
  rw [attentionRemove, BitVec.and_assoc, BitVec.and_comm (~~~mask), ← BitVec.and_assoc, h]
  exact BitVec.zero_and

/-- Frames that find their entries free leave the queue within its 64. -/
theorem Keeps.frames (h : Keeps s z) (l : List OutFrame) (hl : l.length ≤ z.freeEntries) (x : Option Held) :
    Keeps s { z with link := { z.link with queue := z.link.queue ++ l, holder := x } } :=
  h.link _ fun hq => by
    simp only [State.freeEntries, Config.outboundEntries] at hl
    simp only [List.length_append]
    omega

theorem Keeps.push (h : Keeps s z) (f : OutFrame) (hf : 1 ≤ z.freeEntries) : Keeps s (z.push f) :=
  h.frames [f] hf z.link.holder

theorem Keeps.holder (h : Keeps s z) (x : Option Held) : Keeps s { z with link := { z.link with holder := x } } :=
  h.link _ id

theorem Keeps.place (h : Keeps s z) (k : Attention) : Keeps s (place k z) := by
  unfold Machine.place
  split
  · exact h
  split
  · exact h.attention _ (attentionJoin_legal · k)
  split
  case isTrue hf => exact (h.attention _ fun _ => attentionBit_legal k).push .attention hf
  case isFalse => exact h.attention _ fun _ => attentionJoin_legal (attentionBit_legal k) _

theorem Keeps.offerNotice (h : Keeps s z) (f : OutFrame) : Keeps s (offerNotice f z) := by
  unfold Machine.offerNotice
  split
  case isTrue hf => exact h.push f hf
  case isFalse => exact h.place _

theorem Keeps.buildReply (h : Keeps s z) (st : Status) (data : List Octet) : Keeps s (buildReply st data z) := by
  unfold Machine.buildReply
  split
  · exact h
  split
  case isTrue hf => exact h.frames [_] hf none
  case isFalse => exact h.holder _

theorem Keeps.drainTest (h : Keeps s z) : Keeps s (drainTest z) := by
  unfold Machine.drainTest
  split
  · exact h.service _
  · exact h

/-! ## Meters, charges and stays -/

/-- Every write of the meters and of the charge queue that leaves the admission sum within 256 (R165). -/
theorem Keeps.billed (h : Keeps s z) (v : Vector (Option Meter) 64) (l : List ChargeRecord)
    (hn : z.admissionSum ≤ 256 → l.length + v.toList.countP Option.isSome + z.checkouts ≤ 256) :
    Keeps s { z with meters := v, charges := l } :=
  h.trans { charges := fun q => ⟨q.counted, hn q.sum⟩ }

theorem countP_set_vector {α : Type} {n : Nat} (p : α → Bool) (v : Vector α n) (i : Fin n) (a : α) :
    (v.set i a).toList.countP p + (if p v[i] then 1 else 0) = v.toList.countP p + if p a then 1 else 0 := by
  have hlen : i.val < v.toList.length := by simp
  have hset : (v.set i a).toList = v.toList.set i a := Vector.toList_set ..
  have hget : v.toList[i.val] = v[i] := by simp
  have hpos : (if p v[i] then 1 else 0) ≤ v.toList.countP p := by
    split
    case isTrue hp => exact List.countP_pos_iff.mpr ⟨v[i], by simp, hp⟩
    case isFalse => exact Nat.zero_le _
  rw [hset, List.countP_set hlen, hget]
  omega

theorem State.openMeters_setMeter (z : State) (m : MeterIx) (x : Option Meter) :
    (z.setMeter m x).openMeters + (if (z.meter m).isSome then 1 else 0) = z.openMeters + if x.isSome then 1 else 0 :=
  countP_set_vector Option.isSome z.meters m x

theorem State.pendingRooms_setRoom (z : State) (r : RoomIx) (x : Room) :
    (z.setRoom r x).pendingRooms + (if (z.room r).occupancy = .checkoutPending then 1 else 0) =
      z.pendingRooms + if x.occupancy = .checkoutPending then 1 else 0 := by
  have hset := countP_set_vector (fun y : Room => y.occupancy = .checkoutPending) z.rooms r x
  simp only [decide_eq_true_eq] at hset
  exact hset

theorem Keeps.setMeter (h : Keeps s z) (m : MeterIx) (x : Meter) (hm : (z.meter m).isSome = true) :
    Keeps s (z.setMeter m (some x)) :=
  h.billed _ z.charges fun hn => by
    have hopen := z.openMeters_setMeter m (some x)
    simp only [hm, Option.isSome_some, if_true] at hopen
    have : (z.setMeter m (some x)).openMeters = z.openMeters := by omega
    rw [State.openMeters, State.setMeter] at this
    rw [this]
    exact hn

theorem Keeps.mapMeters (h : Keeps s z) (f : Meter → Meter) : Keeps s { z with meters := mapVector (Option.map f) z.meters } :=
  h.billed _ z.charges fun hn => by
    rw [countP_eq_of_forall (v := z.meters) fun m => by rw [getElem_mapVector]; simp]
    exact hn

/-- A room's stay opened or ended, with the count of the rooms in CHECKOUT_PENDING and the charge queue. -/
theorem Keeps.stay (h : Keeps s z) (r : RoomIx) (x : Room) (n : Nat) (l : List ChargeRecord)
    (hb : (z.room r).balance ≤ 9999999 → x.balance ≤ 9999999) (hq : x.lamp.queued = (z.room r).lamp.queued)
    (hn : z.checkouts = z.pendingRooms → z.admissionSum ≤ 256 →
      n = (z.setRoom r x).pendingRooms ∧ l.length + z.openMeters + n ≤ 256) :
    Keeps s { z.setRoom r x with checkouts := n, charges := l } := by
  -- the balances and the lamps do not see the occupancy
  have hkept : Keeps z (z.setRoom r { x with occupancy := (z.room r).occupancy }) :=
    (Keeps.refl z).setRoom r _ { balance := hb, queued := hq }
  have hroom (r' : RoomIx) : ((z.setRoom r x).room r').balance = ((z.setRoom r { x with occupancy := (z.room r).occupancy }).room r').balance ∧
      ((z.setRoom r x).room r').lamp = ((z.setRoom r { x with occupancy := (z.room r).occupancy }).room r').lamp := by
    simp only [State.room_setRoom]
    split <;> exact ⟨rfl, rfl⟩
  refine h.trans
    { balances := fun q r' => ?_
      charges := fun q => have ⟨hcount, hsum⟩ := hn q.counted q.sum; ⟨hcount, hsum⟩
      lamps := fun q => ⟨q.once, fun r' => ?_⟩ }
  · exact (hroom r').1.trans_le (hkept.balances q r')
  · exact (congrArg (·.queued = true) (hroom r').2).to_iff.trans ((hkept.lamps q).queued r')

/-! ## Coders, channels and trunks -/

theorem Keeps.updEncoder (h : Keeps s z) (c : ChannelIx) (f : Encoder → Encoder)
    (hf : ∀ e, e.quant.inRange → e.start.inRange → (f e).quant.inRange ∧ (f e).start.inRange := by
      exact fun _ hq hs => ⟨hq, hs⟩) :
    Keeps s (z.updEncoder c f) :=
  h.coder _ fun ⟨hc, ht⟩ => ⟨fun c' => by
    have hd : (z.updEncoder c f).decoder c' = z.decoder c' := z.decoder_updEncoder c c' f
    obtain ⟨hquant, hstart, hdec⟩ := hc c'
    have he : ((z.updEncoder c f).encoder c').quant.inRange ∧ ((z.updEncoder c f).encoder c').start.inRange := by
      rw [State.encoder_updEncoder]
      split
      case isTrue e => exact hf _ (e ▸ hquant) (e ▸ hstart)
      case isFalse => exact ⟨hquant, hstart⟩
    exact ⟨he.1, he.2, hdec⟩, ht⟩

theorem Keeps.updDecoder (h : Keeps s z) (c : ChannelIx) (f : Decoder → Decoder)
    (hf : (z.decoder c).quant.inRange → (f (z.decoder c)).quant.inRange) : Keeps s (z.updDecoder c f) :=
  h.coder _ fun ⟨hc, ht⟩ => ⟨fun c' => by
    obtain ⟨hquant, hstart, hdec⟩ := hc c'
    have hd : ((z.updDecoder c f).decoder c').quant.inRange := by
      rw [State.decoder_updDecoder]
      split
      case isTrue e => exact hf (e ▸ hdec)
      case isFalse => exact hdec
    exact ⟨hquant, hstart, hd⟩, ht⟩

theorem Keeps.channels (h : Keeps s z) (v : Vector Channel 32)
    (hv : ∀ c : ChannelIx, v[c].slot = z.channels[c].slot ∧ (v[c].state = .free → z.channels[c].state = .free)) :
    Keeps s { z with channels := v } :=
  h.trans
    { bindings := fun q =>
        ⟨fun k c => (q.bound k c).trans (congrArg (· = some k) (hv c).1.symm).to_iff,
          fun c hfree => (hv c).1.trans (q.free c ((hv c).2 hfree)), q.unmapped⟩ }

theorem Keeps.updChan (h : Keeps s z) (c : ChannelIx) (f : Channel → Channel) (hslot : ∀ x, (f x).slot = x.slot := by exact fun _ => rfl)
    (hstate : ∀ x, (f x).state = .free → x.state = .free := by intro x; simp) : Keeps s (z.updChan c f) :=
  h.channels _ fun c' => by
    change ((z.updChan c f).chan c').slot = (z.chan c').slot ∧ (((z.updChan c f).chan c').state = .free → (z.chan c').state = .free)
    rw [State.chan_updChan]
    split
    case isTrue e => exact e ▸ ⟨hslot _, hstate _⟩
    case isFalse => exact ⟨rfl, id⟩

theorem Keeps.updTrunk (h : Keeps s z) (t : TrunkIx) (f : Trunk → Trunk)
    (hf : ∀ k, (f (z.trunk t)).slot = some k → (z.trunk t).slot = some k ∨ z.highway.bindings[k] = none := by
      exact fun _ h => .inl h) :
    Keeps s (z.updTrunk t f) :=
  h.trans
    { bindings := fun q => ⟨q.bound, q.free, fun k t' hk => by
        rw [State.trunk_updTrunk]
        split
        case isTrue e => exact fun hslot => (hf k hslot).elim (fun hold => q.unmapped k t hk hold) hk
        case isFalse => exact q.unmapped k t' hk⟩ }
end

end Sys2Proof.Machine
end


section
-- The proofs are elaborated one after another: the waiting threads would take the memory that the check allows.
set_option Elab.async false
/-! SUPPORT. What the operations of the rooms, the meters and the lamps keep (`Keeps`). -/

namespace Sys2Proof.Machine

section
variable {s z : State}

/-! ## Charges and checkouts -/

/-- The place that a placement writes is the link and the attention set, which a record of a room or a meter does not see. -/
theorem place_updRoom (k : Attention) (z : State) (r : RoomIx) (f : Room → Room) :
    place k (z.updRoom r f) = (place k z).updRoom r f := by
  unfold place
  repeat' split
  all_goals first | rfl | contradiction

theorem place_setMeter (k : Attention) (z : State) (m : MeterIx) (x : Option Meter) :
    place k (z.setMeter m x) = (place k z).setMeter m x := by
  unfold place
  repeat' split
  all_goals first | rfl | contradiction

theorem place_updChan (k : Attention) (z : State) (c : ChannelIx) (f : Channel → Channel) :
    place k (z.updChan c f) = (place k z).updChan c f := by
  unfold place
  repeat' split
  all_goals first | rfl | contradiction

theorem appendCharge_updRoom (l : ChargeRecord) (z : State) (r : RoomIx) (f : Room → Room) :
    appendCharge l (z.updRoom r f) = (appendCharge l z).updRoom r f := by
  unfold appendCharge
  rw [apply_ite (State.updRoom · r f), ← place_updRoom]
  rfl

theorem appendCharge_setMeter (l : ChargeRecord) (z : State) (m : MeterIx) (x : Option Meter) :
    appendCharge l (z.setMeter m x) = (appendCharge l z).setMeter m x := by
  unfold appendCharge
  rw [apply_ite (State.setMeter · m x), ← place_setMeter]
  rfl

/-- A record that finds its place in the charge queue. -/
theorem Keeps.appendCharge {l : ChargeRecord} (h : Keeps s { z with charges := z.charges ++ [l] }) :
    Keeps s (appendCharge l z) := by
  unfold Machine.appendCharge
  dsimp only
  split
  · exact h.place _
  · exact h

/-- The FINAL record takes the place that the room in CHECKOUT_PENDING held (R30, R165). -/
theorem Keeps.checkoutTest (h : Keeps s z) (r : RoomIx) : Keeps s (checkoutTest r z) := by
  unfold Machine.checkoutTest
  split
  case isTrue hp =>
    dsimp only
    rw [← appendCharge_updRoom]
    refine (Keeps.appendCharge ?_).evaluateRoom r
    refine h.stay r (vacated (z.room r)) (z.checkouts - 1) (z.charges ++ [_]) (fun _ => Nat.zero_le _) rfl fun hc hs => ?_
    have hcount := z.pendingRooms_setRoom r (vacated (z.room r))
    simp only [hp.1, if_true, vacated, reduceCtorEq, if_false] at hcount ⊢
    simp only [State.admissionSum] at hs
    simp only [List.length_append, List.length_singleton]
    constructor <;> omega
  case isFalse => exact h

theorem Keeps.beginCheckout (h : Keeps s z) {r : RoomIx} (ho : (z.room r).occupancy = .occupied) (ha : z.admits = true) :
    Keeps s (beginCheckout r z) := by
  let x : Room := { z.room r with occupancy := .checkoutPending, outTime := some (z.clock.day, z.clock.seconds) }
  refine h.stay r x (z.checkouts + 1) z.charges id rfl fun hc _ => ?_
  have hcount : (z.setRoom r x).pendingRooms + 0 = z.pendingRooms + 1 := by
    simpa only [ho, x, reduceCtorEq, if_false, if_true] using z.pendingRooms_setRoom r x
  have hsum : z.admissionSum + 1 ≤ 256 := of_decide_eq_true ha
  simp only [State.admissionSum] at hsum
  constructor <;> omega

/-! ## Denials, cuts and units -/

theorem Keeps.mute (h : Keeps s z) (t : TrunkIx) (b : Bool) : Keeps s (z.updTrunk t fun x => { x with mute := b }) :=
  h.updTrunk t _

theorem Keeps.deny (h : Keeps s z) (t : TrunkIx) (r : RoomIx) (why : Denial) : Keeps s (deny t r why z) :=
  ((h.mute t true).updRoom r _).offerNotice _

theorem Keeps.digitCut (h : Keeps s z) {m : MeterIx} (hm : (z.meter m).isSome = true) (x : Meter) :
    Keeps s (digitCut m x z) :=
  (h.setMeter m _ hm).deny ..

theorem Keeps.creditCut (h : Keeps s z) {m : MeterIx} (hm : (z.meter m).isSome = true) (x : Meter) :
    Keeps s (creditCut m x z) :=
  (h.setMeter m _ hm).deny ..

theorem Keeps.boundary (h : Keeps s z) (m : MeterIx) : Keeps s (boundary m z) := by
  unfold Machine.boundary
  split
  · exact h
  case h_2 x hx =>
    have hm : (z.meter m).isSome = true := by rw [hx]; rfl
    dsimp only
    split
    · exact h.creditCut hm _
    split
    · exact h
    · exact (h.setMeter m _ hm).evaluateRoom _

theorem Keeps.answer (h : Keeps s z) {m : MeterIx} (hm : (z.meter m).isSome = true) (timed : Bool) (a : Action) (x : Meter) :
    Keeps s (answer m timed a x z) := by
  unfold Machine.answer
  dsimp only
  split
  · exact h.setMeter m _ hm
  split
  · exact h.creditCut hm _
  split
  · exact ((h.setMeter m _ hm).evaluateRoom _).boundary m
  · exact (h.setMeter m _ hm).evaluateRoom _

theorem Keeps.connect (h : Keeps s z) (m : MeterIx) (timed : Bool) : Keeps s (connect m timed z) := by
  unfold Machine.connect
  split
  · exact h
  case h_2 x hx =>
    have hm : (z.meter m).isSome = true := by rw [hx]; rfl
    split
    · exact h.answer hm ..
    split
    · exact h.digitCut hm _
    · exact h.answer hm ..

/-! ## Clearing and seizing -/

/-- The CALL record of a priced close takes the place of its meter (R158, R165). -/
theorem Keeps.freeMeter_pricedClose (h : Keeps s z) {m : MeterIx} (hm : (z.meter m).isSome = true) (x : Meter) :
    Keeps s (freeMeter m x (pricedClose x z)) := by
  let l := callRecord x z.clock (z.classOf x.room) (z.cminOf x)
  have happend : Keeps s (Machine.appendCharge (.call l) (z.setMeter m none)) := by
    refine Keeps.appendCharge (h.billed _ (z.charges ++ [_]) fun hn => ?_)
    have hopen := z.openMeters_setMeter m none
    simp only [hm, if_true, Option.isSome_none, Bool.false_eq_true, if_false] at hopen
    simp only [State.openMeters, State.setMeter] at hopen
    simp only [State.admissionSum, State.openMeters] at hn
    simp only [State.setMeter, List.length_append, List.length_singleton]
    omega
  rw [appendCharge_setMeter] at happend
  have hbalance := happend.updRoom x.room (fun y => { y with balance := min (y.balance + l.final) Config.maxBalance })
    fun _ => { balance := fun _ => Nat.min_le_right .. }
  exact (hbalance.updTrunk x.trunk _).updRoom x.room _

theorem Keeps.freeMeter (h : Keeps s z) {m : MeterIx} (hm : (z.meter m).isSome = true) (x : Meter) :
    Keeps s (freeMeter m x z) := by
  refine ((Keeps.updTrunk (z := z.setMeter m none) (h.billed _ z.charges fun hn => ?_) x.trunk _)).updRoom x.room _
  have hopen := z.openMeters_setMeter m none
  simp only [hm, if_true, Option.isSome_none, Bool.false_eq_true, if_false] at hopen
  simp only [State.openMeters, State.setMeter] at hopen
  simp only [State.admissionSum, State.openMeters] at hn
  omega

theorem Keeps.closeMeter (h : Keeps s z) (m : MeterIx) : Keeps s (closeMeter m z) := by
  unfold Machine.closeMeter
  split
  · exact h
  case h_2 x hx =>
    have hm : (z.meter m).isSome = true := by rw [hx]; rfl
    dsimp only
    split
    · exact ((h.freeMeter_pricedClose hm x).evaluateRoom _).checkoutTest _
    · exact ((h.freeMeter hm x).evaluateRoom _).checkoutTest _

theorem Keeps.clearTrunk (h : Keeps s z) (t : TrunkIx) : Keeps s (clearTrunk t z) := by
  unfold Machine.clearTrunk
  dsimp only
  split
  · exact (h.mute t false).closeMeter _
  · exact h.mute t false

theorem Keeps.takeCleared (h : Keeps s z) (t : TrunkIx) : Keeps s (takeCleared t z) := by
  unfold Machine.takeCleared
  split
  · exact h.clearTrunk t
  · exact h

theorem State.freeMeterIx_free {z : State} {m : MeterIx} (h : z.freeMeterIx = some m) : z.meter m = none := by
  simp only [State.freeMeterIx, Option.map_eq_some_iff] at h
  obtain ⟨i, hi, rfl⟩ := h
  obtain ⟨hlt, hnone, -⟩ := List.findIdx?_eq_some_iff_getElem.mp hi
  have hlt' : i < 64 := by simpa using hlt
  simpa [State.meter, Fin.ofNat, Nat.mod_eq_of_lt hlt'] using hnone

theorem Keeps.allocateMeter (h : Keeps s z) {m : MeterIx} (hm : z.meter m = none) (ha : z.admits = true) (t : TrunkIx)
    (r : RoomIx) (x : Nat) : Keeps s (allocateMeter m t r x z) := by
  refine ((Keeps.updTrunk (z := z.setMeter m (some _)) (h.billed _ z.charges fun _ => ?_) t _)).updRoom r _
  have hopen := z.openMeters_setMeter m (some (allocated t r x (z.classOf r).timedAnswer))
  simp only [hm, Option.isSome_none, Option.isSome_some, if_true, Bool.false_eq_true, if_false] at hopen
  have hsum : z.admissionSum + 1 ≤ 256 := of_decide_eq_true ha
  simp only [State.openMeters, State.setMeter] at hopen
  simp only [State.admissionSum, State.openMeters] at hsum
  omega

theorem Keeps.seizeRoom (h : Keeps s z) (t : TrunkIx) (r : RoomIx) (x : Nat) : Keeps s (seizeRoom t r x z) := by
  unfold Machine.seizeRoom
  split
  · exact h.deny ..
  split
  · exact h.deny ..
  case h_2 m hm =>
    split
    case isTrue ha => exact h.allocateMeter (State.freeMeterIx_free hm) ha ..
    case isFalse => exact (h.deny ..).place _

theorem Keeps.closeOld (h : Keeps s z) (t : TrunkIx) : Keeps s (closeOld t z) := by
  unfold Machine.closeOld
  split
  · exact h
  split
  · exact h
  case h_2 m _ _ x hx => exact (h.setMeter m _ (by rw [hx]; rfl)).clearTrunk t

theorem Keeps.takeSeize (h : Keeps s z) (t : TrunkIx) (x : Nat) : Keeps s (takeSeize t x z) := by
  unfold Machine.takeSeize
  split
  case isFalse => exact h
  unfold seize
  dsimp only
  have hcleared := (h.closeOld t).mute t false
  split
  · exact hcleared
  split
  · exact hcleared.deny ..
  split
  · exact hcleared.seizeRoom ..
  · exact hcleared

theorem State.dialling_meter {z : State} {t : TrunkIx} {m : MeterIx} {x : Meter} (h : z.dialling t = some (m, x)) :
    z.meter m = some x := by
  simp only [State.dialling] at h
  split at h
  · contradiction
  split at h
  case h_2 => contradiction
  case h_1 m' _ x' hx =>
    split at h
    · cases h; exact hx
    · contradiction

theorem Keeps.takeDigit (h : Keeps s z) (t : TrunkIx) (ds : List Nat) : Keeps s (takeDigit t ds z) := by
  unfold Machine.takeDigit
  split
  case isFalse => exact h
  split
  case h_2 => exact h
  case h_1 m x hx =>
    have hm : (z.meter m).isSome = true := by rw [State.dialling_meter hx]; rfl
    unfold dial
    dsimp only
    split
    · split
      · exact h.digitCut hm _
      · exact h.setMeter m _ hm
    · exact h.setMeter m _ hm

theorem Keeps.takeAnswered (h : Keeps s z) (t : TrunkIx) : Keeps s (takeAnswered t z) := by
  unfold Machine.takeAnswered
  repeat' split
  · exact h.connect ..
  · exact h
  · exact h

theorem Keeps.timedExpiry (h : Keeps s z) (m : MeterIx) : Keeps s (timedExpiry m z) := by
  unfold Machine.timedExpiry
  repeat' split
  · exact h.connect ..
  · exact h
  · exact h

theorem Keeps.boundaryDue (h : Keeps s z) (m : MeterIx) : Keeps s (boundaryDue m z) := by
  unfold Machine.boundaryDue
  repeat' split
  · exact h.boundary _
  · exact h
  · exact h

/-! ## Lamps -/

theorem Keeps.takeHook (h : Keeps s z) (x : Nat) (off : Bool) : Keeps s (takeHook x off z) := by
  unfold Machine.takeHook
  repeat' split
  · exact h
  · exact h.updLamp _ _
  · exact h

theorem Keeps.senseFailed (h : Keeps s z) (r : RoomIx) : Keeps s (senseFailed r z) := by
  unfold Machine.senseFailed
  dsimp only
  repeat' split
  · exact (h.updLamp r _).place _
  · exact h.updLamp r _
  · exact h

/-- An absent lamp leaves the lamp order queue with its queued field (R138). -/
theorem Keeps.lampAbsent (h : Keeps s z) (r : RoomIx) : Keeps s (lampAbsent r z) := by
  refine h.roomsAndLamps _ _ (State.forall_setRoom (P := fun _ => AccountKept) {} fun _ _ => {}) fun q =>
    ⟨q.once.filter _, fun r' => ?_⟩
  change ((z.setRoom r _).room r').lamp.queued = true ↔ _
  rw [State.room_setRoom]
  split
  case isTrue e => simp [e]
  case isFalse e => simpa [Ne.symm e] using q.queued r'

theorem Keeps.takeSense (h : Keeps s z) (x : Nat) (k : Sense) : Keeps s (takeSense x k z) := by
  unfold Machine.takeSense
  split
  · exact h
  split
  · exact h.updLamp _ _
  · exact h.senseFailed _
  · exact h.senseFailed _
  · exact h.lampAbsent _

theorem Keeps.shutTest (h : Keeps s z) : Keeps s (shutTest z) :=
  Keeps.foldl _ (fun r {_} h => (h.updLamp r _).evaluateLamp r) _ h

end

end Sys2Proof.Machine
end


section
-- The proofs are elaborated one after another: the waiting threads would take the memory that the check allows.
set_option Elab.async false
/-! SUPPORT. What the sweeps, the message store, the rings and the channels keep (`Keeps`). -/

namespace Sys2Proof.Machine

section
variable {s z : State}

/-! ## Sweeps -/

/-- The order of the lamp order queue does not matter to the invariants. -/
theorem Keeps.permuted {q q' : List RoomIx} (h : Keeps s (z.withLampQueue q)) (hq : q.Perm q') :
    Keeps s (z.withLampQueue q') :=
  h.roomsAndLamps z.rooms { z.lamps with queue := q' } (fun _ => {}) fun a =>
    ⟨hq.nodup_iff.mp a.once, fun r => (a.queued r).trans hq.mem_iff⟩

/-- A room leaves the lamp order queue and its queued field becomes no. -/
theorem Keeps.dequeued {q : List RoomIx} {r : RoomIx} (h : Keeps s (z.withLampQueue (r :: q)))
    (f : LampRecord → LampRecord) (hf : (f (z.room r).lamp).queued = false) :
    Keeps s ((z.updLamp r f).withLampQueue q) := by
  refine h.roomsAndLamps _ { z.lamps with queue := q }
    (State.forall_setRoom (P := fun _ => AccountKept) (z := z) (x := { z.room r with lamp := f (z.room r).lamp }) {} fun _ _ => {})
    fun a => ?_
  obtain ⟨hout, honce⟩ := List.nodup_cons.mp a.once
  refine ⟨honce, fun r' => ?_⟩
  change ((z.updLamp r f).room r').lamp.queued = true ↔ _
  rw [State.room_updLamp]
  split
  case isTrue e => simp only [hf, ← e, hout, Bool.false_eq_true]
  case isFalse e => exact (a.queued r').trans (List.mem_cons.trans (or_iff_right (Ne.symm e)))

/-- The rooms of a frame leave the lamp order queue as their orders are recorded. -/
theorem Keeps.ordersRecorded (f : LampRecord → LampRecord) (hf : ∀ l, (f l).queued = false) {frame q : List RoomIx}
    (h : Keeps s (z.withLampQueue (frame ++ q))) :
    Keeps s ((frame.foldl (fun y r => y.updLamp r f) z).withLampQueue q) := by
  induction frame generalizing z with
  | nil => exact h
  | cons r frame ih => exact ih (h.dequeued f (hf _))

theorem Keeps.ordersAdmitted {number : Nat} {frame q : List RoomIx} (h : Keeps s (z.withLampQueue (frame ++ q)))
    (hf : lampAdmitted z = true) : Keeps s ((ordersAdmitted number frame z).withLampQueue q) :=
  Keeps.ordersRecorded _ (fun _ => rfl)
    (h.push (.lampOrder (frame.map z.orderOf)) (le_trans (by decide) (of_decide_eq_true hf)))

/-- The rooms not yet taken, those held off and those of the frame being built are together the rooms of the queue. -/
theorem Keeps.buildOrders {number left : Nat} {rest off frame : List RoomIx}
    (h : Keeps s (z.withLampQueue (rest ++ off ++ frame))) : Keeps s (buildOrders number rest off frame left z).1 := by
  induction rest generalizing off frame left z with
  | nil =>
    unfold Machine.buildOrders
    split
    case isTrue e => simpa only [e, List.append_nil, List.nil_append] using h
    split
    case isTrue ha => exact Keeps.ordersAdmitted (h.permuted List.perm_append_comm) ha
    case isFalse => exact h.permuted List.perm_append_comm
  | cons r rest ih =>
    have hlast : (r :: rest ++ off ++ frame).Perm (frame ++ [r] ++ (rest ++ off)) := by
      rw [List.append_assoc, List.append_assoc, List.cons_append, ← List.append_assoc]
      exact (List.perm_append_comm (l₁ := r :: (rest ++ off))).trans (by simp)
    unfold Machine.buildOrders
    dsimp only
    split
    · exact ih (h.dequeued _ rfl)
    split
    · exact ih (h.permuted (by simpa using (List.perm_middle (a := r) (l₁ := rest ++ off)).symm))
    split
    · exact ih (h.permuted (hlast.trans (by simpa using List.perm_append_comm (l₁ := frame ++ [r]) (l₂ := rest ++ off))))
    split
    case isTrue ha =>
      have hadmitted := (h.permuted hlast).ordersAdmitted (number := number) ha
      split
      · exact hadmitted
      · exact ih (by simpa using hadmitted)
    case isFalse => exact h.permuted (hlast.trans (by simp))

theorem Keeps.senseQuery (h : Keeps s z) : Keeps s (senseQuery z) := by
  unfold Machine.senseQuery
  split
  · exact h
  split
  case isTrue ha => exact (h.push _ (le_trans (by decide) (of_decide_eq_true ha))).lampControl _
  case isFalse => exact h

theorem Keeps.takeSweep (h : Keeps s z) : Keeps s (takeSweep z) := by
  unfold Machine.takeSweep
  split
  case isFalse => exact h
  have hbuilt {y : State} (n : Nat) (hy : Keeps s y) :
      Keeps s (Machine.buildOrders n y.lamps.queue [] [] Config.sweepFrames y).1 :=
    Keeps.buildOrders (by simp only [List.append_nil]; exact hy.lampControl y.lamps)
  have hshut : Keeps s (Machine.shutTest { z with lamps := { z.lamps with due := false, sweeps := (z.lamps.sweeps + 1) % Config.sweepModulus } }) :=
    (h.lampControl _).shutTest
  unfold sweepWork
  dsimp only
  split
  · exact (hbuilt _ hshut).senseQuery
  · exact hbuilt _ hshut

theorem Keeps.lampTick (h : Keeps s z) : Keeps s (lampTick z) := by
  unfold Machine.lampTick
  repeat' split
  · exact h.lampControl _
  · exact h.lampControl _
  · exact h

theorem Keeps.lampResync (h : Keeps s z) : Keeps s (lampResync z) := by
  have hunordered : Keeps s z.unordered :=
    h.rooms _ fun r => by rw [getElem_mapVector]; exact {}
  exact Keeps.foldl _ (fun r {_} h => h.evaluateLamp r) _ hunordered

/-! ## The message store -/

theorem Keeps.storeLowTest (h : Keeps s z) : Keeps s (storeLowTest z) := by
  unfold Machine.storeLowTest
  exact iteInduction (fun _ => h.place _) fun _ => h

theorem Keeps.reclaim (h : Keeps s z) (n : Nat) : Keeps s (reclaim n z) := by
  unfold Machine.reclaim
  split
  · exact h
  · exact (h.store _).storeLowTest

theorem Keeps.updMessage (h : Keeps s z) (n : Nat) (f : Message → Message) : Keeps s (z.updMessage n f) := h.store _

theorem Keeps.markFailed (h : Keeps s z) (k : MarkKind) (n : Nat) : Keeps s (markFailed k n z) := by
  cases k
  · exact h.place _
  · exact (h.place _).reclaim n

theorem Keeps.queueMark (h : Keeps s z) (k : MarkKind) (n : Nat) : Keeps s (queueMark k n z) := by
  unfold Machine.queueMark
  split
  · exact h
  · exact iteInduction (fun _ => h.store _) fun _ => h.markFailed k n

theorem Keeps.settle (h : Keeps s z) (n : Nat) : Keeps s (settle n z) := by
  unfold Machine.settle
  repeat' split
  · exact h
  · exact (h.updMessage n _).queueMark _ n
  · exact h

theorem messageLeft_kept (m : Message) (x : Room) : RoomKept x (messageLeft m x) := by
  unfold messageLeft
  split <;> exact {}

theorem Keeps.deletePath (h : Keeps s z) (n : Nat) : Keeps s (deletePath n z) := by
  unfold Machine.deletePath
  split
  · exact h
  case h_2 m _ =>
    split
    · exact h
    have hleft := (h.updRoom m.room (messageLeft m) (messageLeft_kept m)).store { z.store with marks := z.store.marks.filter (· ≠ (n, .heard)) }
    dsimp only
    split
    · exact hleft.reclaim n
    · exact (hleft.updMessage n _).settle n

theorem Keeps.makeHeard (h : Keeps s z) (n : Nat) : Keeps s (makeHeard n z) := by
  unfold Machine.makeHeard
  split
  · exact h
  · exact iteInduction (fun _ => (((h.updMessage n _).updRoom _ _).evaluateLamp _).queueMark _ n) fun _ => h

theorem Keeps.createMessage (h : Keeps s z) (r : RoomIx) : Keeps s (createMessage r z) := by
  unfold Machine.createMessage
  exact (h.store _).updRoom r _

theorem Keeps.commit (h : Keeps s z) (n voiceFrames : Nat) : Keeps s (commit n voiceFrames z) := by
  unfold Machine.commit
  repeat' split
  · exact h
  · exact h.deletePath n
  · exact ((h.updMessage n _).updRoom _ _).evaluateLamp _

theorem Keeps.allocate (h : Keeps s z) (n given : Nat) : Keeps s (allocate n given z) := by
  unfold Machine.allocate
  split
  · exact h
  · exact ((h.store _).updMessage n _).storeLowTest

theorem Keeps.givePage (h : Keeps s z) (n : Nat) : Keeps s (givePage n z).2 := by
  unfold Machine.givePage
  repeat' split
  all_goals first | exact h | exact h.updMessage n _ | exact h.allocate n 1

theorem Keeps.blockRetired (h : Keeps s z) (n b : Nat) : Keeps s (blockRetired n b z) := (h.updMessage n _).place _

/-! ## Play lists -/

theorem Keeps.updRing (h : Keeps s z) (c : ChannelIx) (f : Ring → Ring) : Keeps s (z.updRing c f) := h.rings _

theorem Quantiser.reset_inRange : Quantiser.reset.inRange := ⟨by decide, by decide, by decide⟩

theorem Keeps.takeItem (h : Keeps s z) (c : ChannelIx) (i : PlayItem) (l : List Nat) : Keeps s (takeItem c i l z) :=
  (h.updRing c _).updDecoder c _ fun _ => Quantiser.reset_inRange

theorem Keeps.startList (h : Keeps s z) (c : ChannelIx) (l : List PlayItem) : Keeps s (startList c l z) := by
  induction l generalizing z with
  | nil => exact h.updChan c _
  | cons i rest ih =>
    cases i with
    | message n => exact (h.updChan c _).takeItem ..
    | prompt id =>
      rw [Machine.startList]
      split
      · exact ih (h.place _)
      · exact (h.updChan c _).takeItem ..

theorem Keeps.setList (h : Keeps s z) (c : ChannelIx) (l : List PlayItem) : Keeps s (setList c l z) :=
  (h.updRing c _).startList c l

/-! ## Leaving, freeing and closing -/

theorem Keeps.leaveMessage (h : Keeps s z) (c : ChannelIx) : Keeps s (leaveMessage c z) := by
  have hleft : Keeps s (z.updChan c fun x => { x with reading := false, current := none }) := h.updChan c _
  unfold Machine.leaveMessage
  dsimp only
  split
  · exact (hleft.updMessage _ _).settle _
  · exact hleft

/-- A channel record written without its slot, when it holds none. -/
theorem Keeps.unslotted (h : Keeps s z) {c : ChannelIx} (hc : (z.chan c).slot = none) (f : Channel → Channel)
    (hf : (f (z.chan c)).slot = none) : Keeps s (z.updChan c f) := by
  have hslot (c' : ChannelIx) : ((z.updChan c f).chan c').slot = (z.chan c').slot := by
    rw [State.chan_updChan]
    split
    case isTrue e => rw [← e, hc, hf]
    case isFalse => rfl
  refine h.trans { bindings := fun q => ⟨fun k c' => (hslot c').symm ▸ q.bound k c', fun c' hfree => ?_, q.unmapped⟩ }
  rw [hslot]
  rw [State.chan_updChan] at hfree
  split at hfree
  case isTrue e => exact e ▸ hc
  case isFalse => exact q.free c' hfree

/-- A channel that enters FREE gives up its slot, and the slot its channel (R42). -/
theorem Keeps.unbound (h : Keeps s z) {c : ChannelIx} {k : Fin 126} (hc : (z.chan c).slot = some k) (f : Channel → Channel)
    (hf : (f (z.chan c)).slot = none) : Keeps s ((z.updChan c f).bind k none) := by
  have hchan (c' : ChannelIx) : ((z.updChan c f).bind k none).chan c' = if c = c' then f (z.chan c) else z.chan c' := by
    rw [State.chan_bind, State.chan_updChan]
  have hbind (k' : Fin 126) : ((z.updChan c f).bind k none).highway.bindings[k'] =
      if k = k' then none else z.highway.bindings[k'] := State.bindings_bind z k k' none
  refine h.trans { bindings := fun q => ⟨fun k' c' => ?_, fun c' hfree => ?_, fun k' t => ?_⟩ }
  · have hold := q.bound k c
    have hthis := q.bound k' c'
    rw [hchan, hbind]
    split <;> split
    · simp [hf]
    case isTrue.isFalse ek ec => subst ek; rw [← hthis, hold.mpr hc]; simpa using ec
    case isFalse.isTrue ek ec => subst ec; rw [hthis, hc, hf]; simpa using ek
    · exact hthis
  · rw [hchan] at hfree ⊢
    split
    · exact hf
    case isFalse e => rw [if_neg e] at hfree; exact q.free c' hfree
  · rw [hbind]
    split
    · exact fun e => absurd rfl e
    · exact q.unmapped k' t

theorem leaveMessage_slot (c : ChannelIx) (z : State) : ((leaveMessage c z).chan c).slot = (z.chan c).slot := by
  unfold leaveMessage
  dsimp only
  split <;> simp [State.chan, State.updChan]

theorem Keeps.enterFree (h : Keeps s z) (c : ChannelIx) : Keeps s (enterFree c z) := by
  have hleft := (h.leaveMessage c).updRing c Ring.leave
  have hslot : ((Machine.leaveItem c (Machine.leaveMessage c z)).chan c).slot = (z.chan c).slot := leaveMessage_slot c z
  unfold Machine.enterFree
  dsimp only
  split
  case h_1 k hk => exact hleft.unbound (hslot.trans hk) _ rfl
  case h_2 hk => exact hleft.unslotted (hslot.trans hk) _ rfl

theorem Keeps.closingEnd (h : Keeps s z) (c : ChannelIx) : Keeps s (closingEnd c z) := by
  unfold Machine.closingEnd
  split
  · exact (h.offerNotice _).enterFree c
  · exact h.enterFree c

/-- Only the state in which the list starts matters, so that a channel just granted may be given here. -/
theorem Keeps.enterClosing {c : ChannelIx} (h : Keeps s (z.updChan c fun x => { x with state := .closing }))
    (l : List PlayItem) : Keeps s (enterClosing c l z) := by
  unfold Machine.enterClosing
  dsimp only
  split
  · exact (h.setList c l).closingEnd c
  · exact h.setList c l

end

end Sys2Proof.Machine
end


section
-- The proofs are elaborated one after another: the waiting threads would take the memory that the check allows.
set_option Elab.async false
/-! SUPPORT. What the recordings, the retrievals and the dialogues of the channels keep (`Keeps`). -/

namespace Sys2Proof.Machine

section
variable {s z : State}

/-! ## Recording -/

theorem Keeps.flushEnd (h : Keeps s z) (c : ChannelIx) : Keeps s (flushEnd c z) := by
  have hidle {y : State} (hy : Keeps s y) : Keeps s ((y.updEncoder c fun e => { e with state := .idle }).updChan c
      fun x => { x with current := none }) := (hy.updEncoder c _).updChan c _
  unfold Machine.flushEnd
  dsimp only
  split <;> split
  · exact Keeps.enterClosing ((hidle (h.commit ..)).updChan c _) _
  · exact Keeps.enterClosing ((hidle h).updChan c _) _
  · exact (hidle (h.commit ..)).enterFree c
  · exact (hidle h).enterFree c

theorem Keeps.flushTest (h : Keeps s z) (c : ChannelIx) : Keeps s (flushTest c z) := by
  unfold Machine.flushTest
  split
  · exact h.flushEnd c
  · exact h

theorem Keeps.exhaust (h : Keeps s z) (c : ChannelIx) : Keeps s (exhaust c z) := by
  have hended {y : State} (hy : Keeps s y) (l : List PlayItem) : Keeps s (Machine.flushTest c
      (if ((y.updRing c fun r => { r.discard with ended := true, exhausted := true }).chan c).state = .record then
        ((y.updRing c fun r => { r.discard with ended := true, exhausted := true }).updEncoder c Encoder.finish).updChan c
          fun x => { x with state := .flush, playList := l }
       else y.updRing c fun r => { r.discard with ended := true, exhausted := true })) :=
    (iteInduction (motive := Keeps s) (fun _ => ((hy.updRing c _).updEncoder c _).updChan c _)
      fun _ => hy.updRing c _).flushTest c
  unfold Machine.exhaust
  dsimp only
  cases z.store.free.isEmpty
  · exact hended h _
  · exact hended (h.place _) _

theorem Keeps.raiseProgram (h : Keeps s z) (c : ChannelIx) : Keeps s (raiseProgram c z) := by
  unfold Machine.raiseProgram
  split
  case isFalse => exact h
  have hgiven := h.givePage (((z.chan c).current).getD 0)
  split
  case h_1 b p z' e => rw [e] at hgiven; exact (hgiven.updRing c _).port _
  case h_2 z' e => rw [e] at hgiven; exact hgiven.exhaust c

theorem Keeps.raisePrograms (h : Keeps s z) (c : ChannelIx) : Keeps s (raisePrograms c z) :=
  (h.raiseProgram c).raiseProgram c

theorem Keeps.recordingEnd (h : Keeps s z) (c : ChannelIx) (l : List PlayItem) (gone : Bool) :
    Keeps s (recordingEnd c l gone z) :=
  ((((h.updEncoder c _).updRing c _).updChan c _).raisePrograms c).flushTest c

theorem Keeps.offerStream (h : Keeps s z) (c : ChannelIx) (voice : Bool) (l : List Octet) :
    Keeps s (offerStream c voice l z) := by
  unfold Machine.offerStream
  split
  case isFalse => exact h
  have hadded := h.updRing c fun r => l.foldl Ring.add r
  exact Keeps.raisePrograms (iteInduction (motive := Keeps s) (fun _ => hadded.updEncoder c _) fun _ => hadded) c

/-! ## Retrieval -/

theorem Keeps.startMenuTimer (h : Keeps s z) (c : ChannelIx) : Keeps s (startMenuTimer c z) := by
  unfold Machine.startMenuTimer
  split
  · exact h.updChan c _
  · exact h

theorem Keeps.playMenu (h : Keeps s z) (c : ChannelIx) : Keeps s (playMenu c z) := by
  unfold Machine.playMenu
  dsimp only
  split
  · exact (h.setList c _).startMenuTimer c
  · exact h.setList c _

theorem Keeps.replayEnd (h : Keeps s z) (c : ChannelIx) : Keeps s (replayEnd c z) := by
  unfold Machine.replayEnd
  dsimp only
  split
  · exact ((h.makeHeard _).updChan c _).playMenu c
  · exact (h.updChan c _).playMenu c

theorem Keeps.chooseNext (h : Keeps s z) (c : ChannelIx) : Keeps s (chooseNext c z) := by
  unfold Machine.chooseNext
  split
  · dsimp only
    have hread {y : State} (l : List PlayItem) (hy : Keeps s y) :
        Keeps s (if ((Machine.setList c l y).chan c).playList = [] then Machine.replayEnd c (Machine.setList c l y) else Machine.setList c l y) :=
      iteInduction (fun _ => (hy.setList c l).replayEnd c) fun _ => hy.setList c l
    exact hread _ ((h.updChan c _).updMessage _ _)
  · exact Keeps.enterClosing ((h.updChan c _).updChan c _) _

theorem Keeps.enterAnnounce {c : ChannelIx} (h : Keeps s (z.updChan c fun x => { x with state := .announce }))
    (l : List PlayItem) : Keeps s (enterAnnounce c l z) := by
  unfold Machine.enterAnnounce
  dsimp only
  split
  · exact (h.setList c l).chooseNext c
  · exact h.setList c l

/-! ## Deposit -/

theorem Keeps.enterRecord (h : Keeps s z) (c : ChannelIx) (r : RoomIx) : Keeps s (enterRecord c r z) := by
  unfold Machine.enterRecord
  exact (((h.createMessage r).updChan c _).updEncoder c _ (by
    exact fun _ _ _ => ⟨Quantiser.reset_inRange, Quantiser.reset_inRange⟩)).updRing c _

theorem Keeps.toneEnd (h : Keeps s z) (c : ChannelIx) : Keeps s (toneEnd c z) := by
  unfold Machine.toneEnd
  repeat' split
  · exact (h.updRing c _).enterRecord c _
  · exact Keeps.enterClosing ((h.place _).updChan c _) _
  · exact h

theorem Keeps.enterGreet {c : ChannelIx} (h : Keeps s (z.updChan c fun x => { x with state := .greet }))
    (l : List PlayItem) : Keeps s (enterGreet c l z) := by
  unfold Machine.enterGreet
  dsimp only
  split
  · exact (h.setList c l).toneEnd c
  · exact h.setList c l

/-! ## Items that end -/

theorem Keeps.listEmptied (h : Keeps s z) (c : ChannelIx) : Keeps s (listEmptied c z) := by
  unfold Machine.listEmptied
  split
  · exact h.toneEnd c
  · exact h.chooseNext c
  · exact h.replayEnd c
  · exact h.startMenuTimer c
  · exact h.closingEnd c
  all_goals exact h

theorem Keeps.itemEnd (h : Keeps s z) (c : ChannelIx) : Keeps s (itemEnd c z) := by
  unfold Machine.itemEnd
  dsimp only
  split
  · exact (h.setList c _).listEmptied c
  · exact h.setList c _

/-! ## Diverts -/

/-- Every dialogue begins by giving the granted channel a state in use. -/
theorem Keeps.startDialogue {c : ChannelIx}
    (h : ∀ st : ChanState, st ≠ .free → Keeps s (z.updChan c fun x => { x with state := st })) (p : Purpose) :
    Keeps s (startDialogue c p z) := by
  have hclosing (l : List PlayItem) : Keeps s (Machine.enterClosing c l z) := Keeps.enterClosing (h _ (by decide)) l
  cases p with
  | deposit =>
    change Keeps s (startDeposit c z)
    unfold startDeposit
    repeat' split
    · exact hclosing _
    · exact hclosing _
    · exact hclosing _
    · refine Keeps.enterClosing ?_ _
      rw [← place_updChan]
      exact (h _ (by decide)).place _
    · exact Keeps.enterGreet (h _ (by decide)) _
  | retrieve =>
    change Keeps s (startRetrieve c z)
    unfold startRetrieve
    dsimp only
    repeat' split
    any_goals exact hclosing _
    all_goals exact Keeps.enterAnnounce (h _ (by decide)) _
  | notice =>
    change Keeps s (startNotice c z)
    unfold startNotice
    split <;> exact hclosing _

theorem State.freeChannel_free {z : State} {c : ChannelIx} (h : z.freeChannel = some c) : (z.chan c).state = .free := by
  simp only [State.freeChannel, Option.map_eq_some_iff] at h
  obtain ⟨i, hi, rfl⟩ := h
  obtain ⟨hlt, hfree, -⟩ := List.findIdx?_eq_some_iff_getElem.mp hi
  have hlt' : i < 32 := by simpa using hlt
  simpa [State.chan, Fin.ofNat, Nat.mod_eq_of_lt hlt'] using hfree

theorem State.slotMapped_eq_false {z : State} {k : Fin 126} (h : ¬z.slotMapped k = true) (t : TrunkIx) :
    (z.trunk t).slot ≠ some k := fun e => h (List.any_eq_true.mpr ⟨z.trunk t, by simp [State.trunk], by simpa using e⟩)

/-- A FREE channel bound to a slot that is free of channels and trunks, once it has a state in use (R41, R43). -/
theorem Keeps.granted (h : Keeps s z) {c : ChannelIx} {k : Fin 126} (hc : (z.chan c).state = .free)
    (hk : z.highway.bindings[k] = none) (hm : ∀ t, (z.trunk t).slot ≠ some k) (f : Channel → Channel)
    (hslot : (f (z.chan c)).slot = some k) (hf : (f (z.chan c)).state ≠ .free) :
    Keeps s ((z.updChan c f).bind k (some c)) := by
  have hchan (c' : ChannelIx) : ((z.updChan c f).bind k (some c)).chan c' = if c = c' then f (z.chan c) else z.chan c' := by
    rw [State.chan_bind, State.chan_updChan]
  have hbind (k' : Fin 126) : ((z.updChan c f).bind k (some c)).highway.bindings[k'] =
      if k = k' then some c else z.highway.bindings[k'] := State.bindings_bind z k k' (some c)
  refine h.trans { bindings := fun q => ⟨fun k' c' => ?_, fun c' hfree => ?_, fun k' t => ?_⟩ }
  · have hnone := q.free c hc
    have hthis := q.bound k' c'
    rw [hchan, hbind]
    split <;> split
    case isTrue.isTrue ek ec => subst ek ec; simp [hslot]
    case isTrue.isFalse ek ec => subst ek; rw [← hthis, hk]; simpa using ec
    case isFalse.isTrue ek ec => subst ec; rw [hthis, hnone, hslot]; simpa using ek
    · exact hthis
  · rw [hchan] at hfree ⊢
    split at hfree
    · exact absurd hfree hf
    case isFalse e => rw [if_neg e]; exact q.free c' hfree
  · rw [hbind]
    split
    case isTrue e => exact fun _ => e ▸ hm t
    case isFalse => exact q.unmapped k' t

theorem State.boundTo_of_lt (z : State) {slot : Octet} (h : slot.toNat < 126) :
    z.boundTo slot = z.highway.bindings[(⟨slot.toNat, h⟩ : Fin 126)] := by
  rw [State.boundTo, dif_pos h]
  rfl

theorem State.updChan_updChan (z : State) (c : ChannelIx) (f g : Channel → Channel) :
    (z.updChan c f).updChan c g = z.updChan c fun x => g (f x) := by
  simp [State.updChan, State.chan]

theorem Keeps.takeDivert (h : Keeps s z) (slot : Octet) (x : Nat) (p : Purpose) : Keeps s (takeDivert slot x p z) := by
  unfold Machine.takeDivert
  split
  · exact h.offerNotice _
  split
  case isFalse => exact h.offerNotice _
  case isTrue hlt =>
    split
    · exact h.offerNotice _
    case isFalse hopen =>
      obtain ⟨hbound, hmapped⟩ := not_or.mp hopen
      split
      · exact h.offerNotice _
      case h_2 c hc =>
        refine Keeps.startDialogue (fun st hst => ?_) p
        have hnone : z.highway.bindings[(⟨slot.toNat, hlt⟩ : Fin 126)] = none := by
          simpa [State.boundTo_of_lt z hlt] using hbound
        have hgranted := h.granted (State.freeChannel_free hc) hnone (State.slotMapped_eq_false hmapped)
          (fun _ => { Machine.granted ⟨slot.toNat, hlt⟩ x (z.lookup x) p with state := st }) rfl hst
        rw [← State.updChan_updChan z c (fun _ => Machine.granted ⟨slot.toNat, hlt⟩ x (z.lookup x) p)
          fun x => { x with state := st }] at hgranted
        exact hgranted

end

end Sys2Proof.Machine
end


section
-- The proofs are elaborated one after another: the waiting threads would take the memory that the check allows.
set_option Elab.async false
/-! SUPPORT. What the channel events, the flash port and the maintenance jobs keep (`Keeps`). -/

namespace Sys2Proof.Machine

section
variable {s z : State}

/-! ## Keys -/

theorem Keeps.messageKey (h : Keeps s z) (c : ChannelIx) (k : Key) : Keeps s (messageKey c k z) := by
  have hidle : Keeps s (z.updChan c fun x => { x with timer := none }) := h.updChan c _
  unfold Machine.messageKey
  dsimp only
  split
  · exact h
  split
  · exact iteInduction (fun _ => ((hidle.updChan c _).setList c _).replayEnd c) fun _ => (hidle.updChan c _).setList c _
  · exact ((hidle.makeHeard _).leaveMessage c).chooseNext c
  · refine Keeps.enterAnnounce (Keeps.updChan (Keeps.leaveMessage ?_ c) c _) _
    split
    · exact iteInduction (fun _ => (hidle.deletePath _).evaluateLamp _) fun _ => hidle.deletePath _
    · exact hidle.deletePath _
  · exact Keeps.enterClosing ((hidle.leaveMessage c).updChan c _) _
  · exact h

theorem Keeps.channelKey (h : Keeps s z) (c : ChannelIx) (k : Key) : Keeps s (channelKey c k z) := by
  unfold Machine.channelKey
  dsimp only
  split
  · exact h
  · exact iteInduction (fun _ => Keeps.enterGreet (h.updChan c _) _) fun _ => h
  · split
    · split
      · exact h.updMessage _ _
      · exact h
    · exact h.recordingEnd ..
    · exact h
  · exact (h.setList c _).chooseNext c
  · exact h.messageKey c k
  · exact h.messageKey c k
  all_goals exact iteInduction (fun _ => h.updChan c _) fun _ => h

theorem Keeps.takeKey (h : Keeps s z) (slot : Octet) (k : Key) : Keeps s (takeKey slot k z) := by
  unfold Machine.takeKey
  split
  · exact h
  · exact (h.channelKey _ k).drainTest

/-! ## Clearing, closing and resetting a channel -/

theorem Keeps.slotCleared (h : Keeps s z) (c : ChannelIx) : Keeps s (slotCleared c z) := by
  unfold Machine.slotCleared
  split
  · exact h.recordingEnd ..
  · exact h.updChan c _
  · exact h
  all_goals exact h.enterFree c

theorem Keeps.takeSlotClear (h : Keeps s z) (slot : Octet) : Keeps s (takeSlotClear slot z) := by
  unfold Machine.takeSlotClear
  split
  · exact h
  · exact (h.slotCleared _).drainTest

theorem Keeps.closeRequest (h : Keeps s z) (c : ChannelIx) : Keeps s (closeRequest c z) := by
  unfold Machine.closeRequest
  split
  · exact Keeps.enterClosing (h.updChan c _) _
  · exact h.recordingEnd ..
  iterate 3 exact Keeps.enterClosing ((h.leaveMessage c).updChan c _) _
  all_goals exact h

theorem Keeps.channelReset (h : Keeps s z) (c : ChannelIx) : Keeps s (channelReset c z) := by
  have hfreed {y : State} (hy : Keeps s y) : Keeps s (Machine.enterFree c
      ((y.updRing c fun r => r.discardReset.leave).updEncoder c fun _ => Encoder.reset)) :=
    ((hy.updRing c _).updEncoder c _ (by
      exact fun _ _ _ => ⟨Quantiser.reset_inRange, Quantiser.reset_inRange⟩)).enterFree c
  have hdeleted : Keeps s (if (z.chan c).state = .record ∨ (z.chan c).state = .flush then
      (match (z.chan c).current with | some n => Machine.deletePath n z | none => z) else z) := by
    repeat' split
    · exact h.deletePath _
    · exact h
    · exact h
  unfold Machine.channelReset
  dsimp only
  split
  · exact (hfreed hdeleted).offerNotice _
  · exact hfreed hdeleted

/-! ## Menu timer and encoder steps -/

theorem Keeps.menuExpiry (h : Keeps s z) (c : ChannelIx) : Keeps s (menuExpiry c z) := by
  unfold Machine.menuExpiry
  dsimp only
  repeat' split
  · exact (h.updChan c _).playMenu c
  · exact Keeps.enterClosing (((h.updChan c _).leaveMessage c).updChan c _) _
  · exact h

theorem Keeps.speechFrameEnd (h : Keeps s z) (c : ChannelIx) : Keeps s (speechFrameEnd c z) := by
  unfold Machine.speechFrameEnd
  dsimp only
  repeat' split
  · exact h.updEncoder c _ fun _ _ hs => ⟨hs, hs⟩
  · have hvoice : Keeps s (z.updEncoder c Encoder.afterVoice) := h.updEncoder c _ fun _ hq _ => ⟨hq, hq⟩
    exact (Keeps.foldl _ (fun l {_} h => h.offerStream c false l) _ hvoice).offerStream c true _
  · exact h

theorem Keeps.maxLength (h : Keeps s z) (c : ChannelIx) : Keeps s (maxLength c z) := by
  unfold Machine.maxLength
  split
  · exact h.recordingEnd ..
  · exact h

theorem Keeps.noVoice (h : Keeps s z) (c : ChannelIx) : Keeps s (noVoice c z) := by
  unfold Machine.noVoice
  split
  · exact h.recordingEnd ..
  · exact h

/-! ## Prompt jobs and the mount -/

theorem Keeps.setJob (h : Keeps s z) (j : Job) : Keeps s (z.setJob j) := h.store _

theorem Keeps.setPrompt (h : Keeps s z) (i : PromptId) (e : Option PromptEntry) : Keeps s (z.setPrompt i e) := h.store _

theorem Keeps.jobReply (h : Keeps s z) (st : Status) (data : List Octet) : Keeps s (jobReply st data z) :=
  (h.setJob .none).buildReply st data

theorem Keeps.faultIf (h : Keeps s z) (b : Bool) : Keeps s (faultIf b z) := by
  cases b
  · exact h
  · exact h.place _

theorem Keeps.promptEraseDone (h : Keeps s z) (pass : Bool) : Keeps s (promptEraseDone pass z) := by
  unfold Machine.promptEraseDone
  split
  · exact iteInduction (fun _ => h.setJob _) fun _ => (h.faultIf _).jobReply ..
  · exact h

theorem Keeps.promptProgramDone (h : Keeps s z) (pass : Bool) : Keeps s (promptProgramDone pass z) :=
  (h.faultIf _).jobReply ..

theorem Keeps.promptPageRead (h : Keeps s z) (d : Option (Vector Octet 512)) : Keeps s (promptPageRead d z) := by
  unfold Machine.promptPageRead
  split
  · exact h.jobReply ..
  · exact (h.faultIf _).jobReply ..
  · exact h.setJob _
  · exact (h.faultIf _).jobReply ..
  · exact h

theorem Keeps.promptSpareRead (h : Keeps s z) (d : Option (Vector Octet 16)) : Keeps s (promptSpareRead d z) := by
  unfold Machine.promptSpareRead
  split
  · exact h.jobReply ..
  · exact (h.faultIf _).jobReply ..
  · exact h

theorem Keeps.mountEnd (h : Keeps s z) (m : MountJob) : Keeps s (mountEnd m z) := by
  have hentered (l : List Message) : Keeps s (enterMailboxes l z) :=
    Keeps.foldl _ (fun m {_} h => h.updRoom m.room _) l h
  have hfull (p : Prop) [Decidable p] (l : List Message) :
      Keeps s (if p then Machine.place .dirFull (enterMailboxes l z) else enterMailboxes l z) :=
    iteInduction (fun _ => (hentered l).place _) fun _ => hentered l
  unfold Machine.mountEnd
  exact ((Keeps.foldl _ (fun r {_} h => h.evaluateLamp r) _ ((hfull _ _).store _).storeLowTest).place _).service _

theorem Keeps.mountNext (h : Keeps s z) (m : MountJob) : Keeps s (mountNext m z) := by
  unfold Machine.mountNext
  split
  · exact h.setJob _
  · exact h.mountEnd m

theorem Keeps.mountReadDone (h : Keeps s z) (d : Option (Vector Octet 16)) : Keeps s (mountReadDone d z) := by
  unfold Machine.mountReadDone
  split
  · exact iteInduction (fun _ => (h.faultIf _).mountNext _) fun _ => (h.faultIf _).mountNext _
  · exact h

/-! ## The arbiter -/

theorem Keeps.issue (h : Keeps s z) (op : FlashOp) : Keeps s (issue op z) := h.port _

theorem Keeps.issueErase (h : Keeps s z) : Keeps s (issueErase z) := by
  unfold Machine.issueErase
  split
  · exact h
  · exact (h.store _).issue _

theorem Keeps.issueMark (h : Keeps s z) : Keeps s (issueMark z) := by
  unfold Machine.issueMark
  split
  · exact h
  · exact (h.store _).issue _

theorem Keeps.chooseUpkeep (h : Keeps s z) : Keeps s (chooseUpkeep z) := by
  unfold Machine.chooseUpkeep
  repeat' split
  · exact h.issueMark
  · exact h.issue _
  · exact h.issueErase

theorem Keeps.arbiterChoice (h : Keeps s z) : Keeps s (arbiterChoice z) := by
  unfold Machine.arbiterChoice
  repeat' split
  · exact h
  · exact h.issueErase
  · exact ((h.updRing _ _).port _).issue _
  · exact (h.updRing _ _).issue _
  · exact h.chooseUpkeep

/-! ## Completions -/

theorem Keeps.endOp (h : Keeps s z) (p : PortState) (l : List FlashCycle) : Keeps s (endOp p l z) := h.port _

theorem Keeps.continueIn (h : Keeps s z) (c : ChannelIx) (n b : Nat) : Keeps s (continueIn c n b z) :=
  (h.updRing c _).updMessage n _

theorem Keeps.retryProgram (h : Keeps s z) (c : ChannelIx) (n b : Nat) : Keeps s (retryProgram c n b z) := by
  unfold Machine.retryProgram
  repeat' split
  · exact h
  · exact h.continueIn ..
  · exact (h.allocate n 1).continueIn ..
  · exact (h.updRing c _).exhaust c

theorem Keeps.pagePassed (h : Keeps s z) (n b p : Nat) (head : Bool) : Keeps s (pagePassed n b p head z) := h.updMessage n _

theorem Keeps.programPassed (h : Keeps s z) (c : ChannelIx) (n b p : Nat) (head : Bool) :
    Keeps s (programPassed c n b p head z) := by
  unfold Machine.programPassed pageProgrammed
  exact (((h.pagePassed n b p head).updRing c _).raisePrograms c).flushTest c

theorem Keeps.programDone (h : Keeps s z) (pass : Bool) (c : ChannelIx) (n b p : Nat) (head : Bool) :
    Keeps s (programDone pass c n b p head z) := by
  unfold Machine.programDone
  exact iteInduction (fun _ => h.programPassed ..) fun _ => (h.blockRetired n b).retryProgram c n b

theorem Keeps.programAccepted (h : Keeps s z) (pass : Bool) (n b p : Nat) (head : Bool) :
    Keeps s (programAccepted pass n b p head z) := by
  unfold Machine.programAccepted
  split
  · cases pass
    · exact (h.blockRetired n b).settle n
    · exact (h.pagePassed ..).settle n
  · cases pass
    · exact (h.store _).place _
    · exact h

theorem Keeps.heldProgramDone (h : Keeps s z) (pass : Bool) (c : ChannelIx) (n b p : Nat) (head : Bool) :
    Keeps s (heldProgramDone pass c n b p head z) := by
  unfold Machine.heldProgramDone
  dsimp only
  split
  · exact ((h.programAccepted ..).updRing c _).raisePrograms c
  · exact ((h.programAccepted ..).updRing c _).flushTest c

theorem Keeps.promptCut (h : Keeps s z) (i : Option PlayItem) (k : Nat) : Keeps s (promptCut i k z) := by
  unfold Machine.promptCut
  split
  · exact h.setPrompt ..
  all_goals exact h

theorem Keeps.readDone (h : Keeps s z) (d : Option (List Octet)) (c : ChannelIx) (k : Nat) : Keeps s (readDone d c k z) := by
  unfold Machine.readDone
  split
  · exact h.updRing c _
  · exact (((h.updRing c _).updDecoder c _ (by exact fun hd => hd)).promptCut ..).place _

theorem Keeps.eraseDone (h : Keeps s z) (pass : Bool) (b : Nat) : Keeps s (eraseDone pass b z) := by
  cases pass
  · exact ((h.store _).place _).storeLowTest
  · exact (h.store _).storeLowTest

theorem Keeps.markDone (h : Keeps s z) (pass : Bool) : Keeps s (markDone pass z) := by
  unfold Machine.markDone
  split
  · exact h
  case h_2 n k _ =>
    have hended : Keeps s { z with store := { z.store with marking := none } } := h.store _
    cases pass
    · exact hended.markFailed k n
    · cases k
      · exact hended
      · exact hended.reclaim n

theorem Keeps.opFailed (h : Keeps s z) (op : FlashOp) : Keeps s (opFailed op z) := by
  cases op
  · exact iteInduction (fun _ => h.heldProgramDone ..) fun _ => h.programDone ..
  · exact iteInduction (fun _ => h.updRing ..) fun _ => h.readDone ..
  · exact h.eraseDone ..
  · exact h.markDone _
  · exact h.mountReadDone _
  · exact h.promptEraseDone _
  · exact h.promptProgramDone _
  · exact h.promptPageRead _
  · exact h.promptSpareRead _

theorem Keeps.takeTimeout (h : Keeps s z) : Keeps s (takeTimeout z) := by
  unfold Machine.takeTimeout
  split
  · exact ((h.endOp ..).opFailed _).drainTest
  · exact h

theorem Keeps.takeProgram (h : Keeps s z) (pass : Bool) : Keeps s (takeProgram pass z) := by
  unfold Machine.takeProgram
  split
  · exact iteInduction (fun _ => h) fun _ => ((h.endOp ..).programDone ..).drainTest
  · exact h

theorem Keeps.takeHeldProgram (h : Keeps s z) (pass : Bool) : Keeps s (takeHeldProgram pass z) := by
  unfold Machine.takeHeldProgram
  split
  · exact iteInduction (fun _ => ((h.endOp ..).heldProgramDone ..).drainTest) fun _ => h
  · exact h

theorem Keeps.takeRead (h : Keeps s z) (d : FlashRead) : Keeps s (takeRead d z) := by
  unfold Machine.takeRead
  split
  iterate 2 exact iteInduction (fun _ => h) fun _ => (h.endOp ..).readDone ..
  exact h

theorem Keeps.takeHeldRead (h : Keeps s z) (d : FlashRead) : Keeps s (takeHeldRead d z) := by
  unfold Machine.takeHeldRead
  split
  iterate 2 exact iteInduction (fun _ => (h.endOp ..).updRing ..) fun _ => h
  exact h

theorem Keeps.takeErase (h : Keeps s z) (pass : Bool) : Keeps s (takeErase pass z) := by
  unfold Machine.takeErase
  split
  · exact (h.endOp ..).eraseDone ..
  · exact h

theorem Keeps.takeMark (h : Keeps s z) (pass : Bool) : Keeps s (takeMark pass z) := by
  unfold Machine.takeMark
  split
  · exact ((h.endOp ..).markDone _).drainTest
  · exact h

theorem Keeps.takeMountRead (h : Keeps s z) (d : FlashRead) : Keeps s (takeMountRead d z) := by
  unfold Machine.takeMountRead
  split
  iterate 2 exact (h.endOp ..).mountReadDone _
  exact h

theorem Keeps.takePromptErase (h : Keeps s z) (pass : Bool) : Keeps s (takePromptErase pass z) := by
  unfold Machine.takePromptErase
  split
  · exact (h.endOp ..).promptEraseDone _
  · exact h

theorem Keeps.takePromptProgram (h : Keeps s z) (pass : Bool) : Keeps s (takePromptProgram pass z) := by
  unfold Machine.takePromptProgram
  split
  · exact (h.endOp ..).promptProgramDone _
  · exact h

theorem Keeps.takePromptRead (h : Keeps s z) (d : FlashRead) : Keeps s (takePromptRead d z) := by
  unfold Machine.takePromptRead
  split
  iterate 2 exact (h.endOp ..).promptPageRead _
  iterate 2 exact (h.endOp ..).promptSpareRead _
  exact h

theorem Keeps.takeRecoveryEnd (h : Keeps s z) : Keeps s (takeRecoveryEnd z) := by
  unfold Machine.takeRecoveryEnd
  split
  · exact h.port _
  · exact h

theorem Keeps.takeStartEnd (h : Keeps s z) : Keeps s (takeStartEnd z) := by
  unfold Machine.takeStartEnd
  split
  · exact h.port _
  · exact h

end

end Sys2Proof.Machine
end


section
-- The proofs are elaborated one after another: the waiting threads would take the memory that the check allows.
set_option Elab.async false
/-! SUPPORT. What the management commands keep (`Keeps`). -/

namespace Sys2Proof.Machine

section
variable {s z : State}

/-! ## The command holder -/

theorem Keeps.holderTake (h : Keeps s z) {kind tag : Octet} {fields : List Octet} {owner : State → Work}
    (ho : ∀ {y : State}, Keeps s y → Keeps s (owner y).after) : Keeps s (holderTake kind tag fields owner z) := by
  have howned := ho (h.holder (some ⟨kind, tag, fields, .working⟩))
  unfold Machine.holderTake
  split
  · exact h.place _
  split
  case h_1 e => rw [e] at howned; exact howned.buildReply ..
  case h_2 e => rw [e] at howned; exact howned

theorem Keeps.checkedRoom (h : Keeps s z) {query loaded : Bool} {a b : Octet} {ok : Bool} {k : RoomIx → Work}
    (hk : ∀ r, Keeps s (k r).after) : Keeps s (checkedRoom query loaded a b ok z k).after := by
  unfold Machine.checkedRoom
  repeat' split
  all_goals first | exact h | exact hk _

/-! ## The tables -/

theorem Keeps.classChanged (h : Keeps s z) (old new : ClassRecord) (r : RoomIx) : Keeps s (classChanged old new r z) := by
  have hcleared : Keeps s (if old.faultThreshold ≠ new.faultThreshold then z.updLamp r fun l => { l with failures := 0 } else z) :=
    iteInduction (fun _ => h.updLamp r _) fun _ => h
  unfold Machine.classChanged
  exact iteInduction (fun _ => hcleared.evaluateRoom r) fun _ => iteInduction (fun _ => hcleared.evaluateLamp r) fun _ => hcleared

theorem Keeps.loadClass (h : Keeps s z) (k : ClassIx) (new : ClassRecord) : Keeps s (loadClass k new z) :=
  Keeps.foldl _ (fun r {_} h => h.classChanged _ new r) _ (h.classes _)

theorem Keeps.workLoadClass (h : Keeps s z) (fields : List Octet) : Keeps s (workLoadClass fields z).after := by
  unfold Machine.workLoadClass
  split
  · dsimp only
    repeat' split
    all_goals first | exact h | exact h.loadClass ..
  · exact h

theorem Keeps.workLoadPrefix (h : Keeps s z) (fields : List Octet) : Keeps s (workLoadPrefix fields z).after := by
  unfold Machine.workLoadPrefix
  dsimp only
  repeat' split
  all_goals first | exact h | exact h.tariff _

theorem Keeps.workLoadBand (h : Keeps s z) (fields : List Octet) : Keeps s (workLoadBand fields z).after := by
  unfold Machine.workLoadBand
  dsimp only
  repeat' split
  all_goals first | exact h | exact h.tariff _

theorem Keeps.workLoadSchedule (h : Keeps s z) (fields : List Octet) : Keeps s (workLoadSchedule fields z).after := by
  unfold Machine.workLoadSchedule
  dsimp only
  repeat' split
  all_goals first | exact h | exact h.tariff _

theorem Keeps.workLoadParameters (h : Keeps s z) (fields : List Octet) : Keeps s (workLoadParameters fields z).after := by
  unfold Machine.workLoadParameters
  repeat' split
  case h_1.isFalse.isTrue => exact Keeps.storeLowTest (h.trans {})
  all_goals exact h

theorem Keeps.workLoadTable (h : Keeps s z) (fields : List Octet) : Keeps s (workLoadTable fields z).after := by
  unfold Machine.workLoadTable
  split
  · exact h
  split
  · exact h.workLoadClass _
  · exact h.workLoadPrefix _
  · exact h.workLoadBand _
  · exact h.workLoadSchedule _
  · exact h.workLoadParameters _
  · exact h

theorem Keeps.mapTrunk (h : Keeps s z) (t : TrunkIx) (slot : Option (Fin 126))
    (hk : ∀ k, slot = some k → z.highway.bindings[k] = none) : Keeps s (mapTrunk t slot z).after := by
  unfold Machine.mapTrunk
  split
  · exact h
  · exact h.updTrunk t (fun x => { x with slot := slot }) fun k hslot => .inr (hk k hslot)

theorem Keeps.workLoadTrunk (h : Keeps s z) (fields : List Octet) : Keeps s (workLoadTrunk fields z).after := by
  unfold Machine.workLoadTrunk
  split
  case h_2 => exact h
  dsimp only
  split
  · exact h
  split
  case isTrue hlt =>
    split
    · exact h
    case isFalse hbound =>
      split
      · exact h
      · refine h.mapTrunk _ _ fun k hk => ?_
        cases hk
        simpa [State.boundTo_of_lt z hlt] using hbound
  case isFalse =>
    split
    · exact h.mapTrunk _ none fun k hk => nomatch hk
    · exact h

/-! ## The expansion table, the clock and the service -/

theorem clampLinear_inRange (v : Int) : -8192 ≤ clampLinear v ∧ clampLinear v ≤ 8191 := by
  rw [clampLinear_eq]
  omega

theorem writeEntries_inRange (i : Nat) (l : List Octet) (k : Coder) (hk : k.inRange) : (writeEntries i l k).inRange := by
  induction i, l, k using writeEntries.induct with
  | case1 i a b l k ih =>
    rw [writeEntries]
    refine ih ⟨hk.1, fun j => ?_⟩
    have hset : (k.expansion.setIfInBounds i (clampLinear (fieldInt16 a b)))[j] =
        if i = j.val then clampLinear (fieldInt16 a b) else k.expansion[j] := by
      simp [Vector.getElem_setIfInBounds]
    dsimp only
    rw [hset]
    split
    · exact clampLinear_inRange _
    · exact hk.2 j
  | case2 l i k hshort => rw [writeEntries_short hshort]; exact hk

theorem Keeps.workLoadExpansion (h : Keeps s z) (fields : List Octet) : Keeps s (workLoadExpansion fields z).after := by
  unfold Machine.workLoadExpansion
  repeat' split
  case h_1.isFalse.isFalse.isFalse => exact h.coder _ (writeEntries_inRange _ _ _)
  all_goals exact h

theorem Keeps.workSetClock (h : Keeps s z) (fields : List Octet) : Keeps s (workSetClock fields z).after := by
  unfold Machine.workSetClock
  repeat' split
  case h_1.isTrue hrange =>
    obtain ⟨hseconds, hweekday⟩ := hrange
    exact h.trans
      { status := fun q => ⟨attentionRemove_legal q.attention _, q.missing, q.present, Nat.zero_le _, hseconds,
          Nat.lt_succ_of_le hweekday, field16_lt ..⟩ }
  all_goals exact h

theorem Keeps.workClearAttention (h : Keeps s z) (fields : List Octet) : Keeps s (workClearAttention fields z).after := by
  unfold Machine.workClearAttention
  split
  · have hremoved (mask : BitVec 16) : Keeps s { z with attention := attentionRemove z.attention mask } :=
      h.attention _ fun ha => attentionRemove_legal ha _
    exact iteInduction (fun _ => hremoved _) fun _ => (hremoved _).offerNotice _
  · exact h

theorem Keeps.workStartService (h : Keeps s z) (fields : List Octet) : Keeps s (workStartService fields z).after := by
  unfold Machine.workStartService
  repeat' split
  · exact (h.service .inService).coder { z.coder with silence := _ } fun hk => hk
  all_goals exact h

theorem Keeps.closeChannels (h : Keeps s z) (p : Channel → Bool) : Keeps s (closeChannels p z) :=
  Keeps.foldl _ (fun c {_} h => h.closeRequest c) _ h

theorem Keeps.workSuspend (h : Keeps s z) (fields : List Octet) : Keeps s (workSuspend fields z).after := by
  unfold Machine.workSuspend
  repeat' split
  · exact ((h.service _).closeChannels _).drainTest
  all_goals exact h

theorem Keeps.workResetChannel (h : Keeps s z) (fields : List Octet) : Keeps s (workResetChannel fields z).after := by
  unfold Machine.workResetChannel
  dsimp only
  repeat' split
  case h_1.isFalse.isFalse => exact (h.channelReset _).drainTest
  all_goals exact h

/-! ## The rooms -/

theorem Keeps.loadRoom (h : Keeps s z) (r : RoomIx) (x : Nat) (k : ClassIx) : Keeps s (loadRoom r x k z) := by
  unfold Machine.loadRoom
  exact (((h.directory _).updRoom r _).classChanged _ _ r).evaluateLamp r

theorem Keeps.deleteMailbox (h : Keeps s z) (r : RoomIx) : Keeps s (deleteMailbox r z) :=
  Keeps.foldl _ (fun n {_} h => h.deletePath n) _ h

theorem Keeps.checkOut (h : Keeps s z) {r : RoomIx} (ho : (z.room r).occupancy = .occupied) (ha : z.admits = true) :
    Keeps s (checkOut r z) := by
  unfold Machine.checkOut
  exact ((((h.beginCheckout ho ha).deleteMailbox r).closeChannels _).evaluateLamp r |>.checkoutTest r).drainTest

theorem Keeps.workLoadRoom (h : Keeps s z) (fields : List Octet) : Keeps s (workLoadRoom fields z).after := by
  unfold Machine.workLoadRoom
  split
  · refine h.checkedRoom fun r => ?_
    split
    · exact h
    · exact h.loadRoom ..
  · exact h

theorem Keeps.workCheckIn (h : Keeps s z) (fields : List Octet) : Keeps s (workCheckIn fields z).after := by
  unfold Machine.workCheckIn
  split
  · refine h.checkedRoom fun r => ?_
    split
    · exact h
    case isFalse hvacant =>
      split
      · exact h
      · exact Keeps.evaluateRoom (h.setRoom r _ { balance := fun _ => Nat.zero_le _, pending := by simp [not_not.mp hvacant, roomOpened] }) r
  · exact h

theorem Keeps.workCheckOut (h : Keeps s z) (fields : List Octet) : Keeps s (workCheckOut fields z).after := by
  unfold Machine.workCheckOut
  split
  · refine h.checkedRoom fun r => ?_
    split
    · exact h
    case isFalse ho =>
      split
      case isTrue ha => exact h.checkOut (not_not.mp ho) ha
      case isFalse => exact h.place _
  · exact h

theorem Keeps.workSetCredit (h : Keeps s z) (fields : List Octet) : Keeps s (workSetCredit fields z).after := by
  unfold Machine.workSetCredit
  split
  · refine h.checkedRoom fun r => ?_
    split
    · exact h
    · exact (h.updRoom r _).evaluateRoom r
  · exact h

theorem Keeps.workPostPayment (h : Keeps s z) (fields : List Octet) : Keeps s (workPostPayment fields z).after := by
  unfold Machine.workPostPayment
  split
  · refine h.checkedRoom fun r => ?_
    split
    · exact h
    · exact Keeps.evaluateRoom (h.updRoom r _ fun _ => { balance := (Nat.sub_le ..).trans }) r
  · exact h

theorem Keeps.workUnbar (h : Keeps s z) (fields : List Octet) : Keeps s (workUnbar fields z).after := by
  unfold Machine.workUnbar
  split
  · refine h.checkedRoom fun r => ?_
    split
    · exact h
    · exact (h.updRoom r _).evaluateLamp r
  · exact h

theorem Keeps.workDeskFlag (h : Keeps s z) (fields : List Octet) : Keeps s (workDeskFlag fields z).after := by
  unfold Machine.workDeskFlag
  split
  · refine h.checkedRoom fun r => ?_
    split
    · exact h
    · exact (h.updRoom r _).evaluateLamp r
  · exact h

theorem Keeps.workDeleteMessages (h : Keeps s z) (fields : List Octet) : Keeps s (workDeleteMessages fields z).after := by
  unfold Machine.workDeleteMessages
  split
  · exact h.checkedRoom fun r => ((h.deleteMailbox r).evaluateLamp r).drainTest
  · exact h

/-! ## The store, the lamps and the charges -/

theorem Keeps.workSetGeometry (h : Keeps s z) (fields : List Octet) : Keeps s (workSetGeometry fields z).after := by
  unfold Machine.workSetGeometry
  repeat' split
  all_goals first | exact h | exact h.trans {}

theorem Keeps.workMount (h : Keeps s z) (fields : List Octet) : Keeps s (workMount fields z).after := by
  unfold Machine.workMount
  repeat' split
  all_goals first | exact h | exact h.trans {}

theorem Keeps.workPromptErase (h : Keeps s z) (fields : List Octet) : Keeps s (workPromptErase fields z).after := by
  unfold Machine.workPromptErase
  repeat' split
  all_goals first | exact h | exact h.store _

theorem Keeps.workPromptPage (h : Keeps s z) (fields : List Octet) : Keeps s (workPromptPage fields z).after := by
  unfold Machine.workPromptPage
  dsimp only
  repeat' split
  all_goals first | exact h | exact h.store _

theorem Keeps.workPromptCommit (h : Keeps s z) (fields : List Octet) : Keeps s (workPromptCommit fields z).after := by
  unfold Machine.workPromptCommit
  repeat' split
  all_goals first | exact h | exact h.setJob _

theorem Keeps.workPromptVerify (h : Keeps s z) (fields : List Octet) : Keeps s (workPromptVerify fields z).after := by
  unfold Machine.workPromptVerify
  repeat' split
  all_goals first | exact h | exact h.setJob _

theorem Keeps.workPromptBlank (h : Keeps s z) (fields : List Octet) : Keeps s (workPromptBlank fields z).after := by
  unfold Machine.workPromptBlank
  repeat' split
  all_goals first | exact h | exact h.setJob _

theorem Keeps.workPromptDir (h : Keeps s z) (fields : List Octet) : Keeps s (workPromptDir fields z).after := by
  unfold Machine.workPromptDir
  dsimp only
  repeat' split
  all_goals first | exact h | exact h.setPrompt ..

theorem Keeps.workLampForce (h : Keeps s z) (fields : List Octet) : Keeps s (workLampForce fields z).after := by
  unfold Machine.workLampForce
  split
  · exact h.checkedRoom fun r => h.updLamp r fun l => { l with maint := _ }
  · exact h

theorem Keeps.workLampResume (h : Keeps s z) (fields : List Octet) : Keeps s (workLampResume fields z).after := by
  unfold Machine.workLampResume
  split
  · refine h.checkedRoom fun r => ?_
    split
    · exact h
    · exact (h.updLamp r _).evaluateLamp r
  · exact h

theorem Keeps.workLampResync (h : Keeps s z) (fields : List Octet) : Keeps s (workLampResync fields z).after := by
  unfold Machine.workLampResync
  repeat' split
  · exact h
  · simpa only [Work.after] using h.lampResync
  · exact h

theorem Keeps.offerFetch (h : Keeps s z) (tag : Octet) (n : Nat) : Keeps s (offerFetch tag n z) := by
  unfold Machine.offerFetch
  dsimp only
  split
  case isTrue hfree =>
    have hlength : ((z.charges.take (z.fetchCount n)).map OutFrame.chargeData ++ [OutFrame.reply tag .ok (octets1 (z.fetchCount n))]).length ≤
        z.freeEntries := by
      simp only [List.length_append, List.length_map, List.length_take, List.length_singleton]
      omega
    simpa only [List.append_assoc] using h.frames _ hlength none
  case isFalse => exact h

theorem Keeps.workFetchCharges (h : Keeps s z) (tag : Octet) (fields : List Octet) :
    Keeps s (workFetchCharges tag fields z).after := by
  unfold Machine.workFetchCharges
  repeat' split
  · exact h.offerFetch ..
  all_goals exact h

theorem Keeps.workReleaseCharges (h : Keeps s z) (fields : List Octet) : Keeps s (workReleaseCharges fields z).after := by
  unfold Machine.workReleaseCharges
  dsimp only
  repeat' split
  · exact h
  · refine h.billed z.meters _ fun hn => ?_
    simp only [State.admissionSum, State.openMeters] at hn
    simp only [List.length_drop]
    omega
  · exact h

theorem Keeps.replyEntry (h : Keeps s z) : Keeps s (replyEntry z) := by
  unfold Machine.replyEntry
  split
  · exact h.buildReply ..
  · exact h

theorem Keeps.fetchEntry (h : Keeps s z) : Keeps s (fetchEntry z) := by
  unfold Machine.fetchEntry
  split
  · exact h.offerFetch ..
  · exact h

/-- Queries answer from the state as it stands. -/
theorem Keeps.workQueryStatus (h : Keeps s z) (fields : List Octet) : Keeps s (workQueryStatus fields z).after := by
  unfold Machine.workQueryStatus
  split <;> exact h

theorem Keeps.workQueryStore (h : Keeps s z) (fields : List Octet) : Keeps s (workQueryStore fields z).after := by
  unfold Machine.workQueryStore
  split <;> exact h

theorem Keeps.workQueryRoom (h : Keeps s z) (fields : List Octet) : Keeps s (workQueryRoom fields z).after := by
  unfold Machine.workQueryRoom
  split
  · exact h.checkedRoom fun _ => h
  · exact h

theorem Keeps.commandOwner (h : Keeps s z) (kind : Nat) (tag : Octet) (fields : List Octet) :
    Keeps s (commandOwner kind tag fields z).after := by
  unfold Machine.commandOwner
  split
  · exact h.workQueryStatus _
  · exact h.workStartService _
  · exact h.workSuspend _
  · exact h.workClearAttention _
  · exact h.workSetClock _
  · exact h.workLoadTable _
  · exact h.workLoadRoom _
  · exact h.workCheckIn _
  · exact h.workCheckOut _
  · exact h.workSetCredit _
  · exact h.workPostPayment _
  · exact h.workUnbar _
  · exact h.workDeskFlag _
  · exact h.workDeleteMessages _
  · exact h.workQueryRoom _
  · exact h.workResetChannel _
  · exact h.workLoadExpansion _
  · exact h.workSetGeometry _
  · exact h.workMount _
  · exact h.workQueryStore _
  · exact h.workPromptErase _
  · exact h.workPromptPage _
  · exact h.workPromptCommit _
  · exact h.workPromptVerify _
  · exact h.workPromptBlank _
  · exact h.workPromptDir _
  · exact h.workLampForce _
  · exact h.workLampResume _
  · exact h.workLampResync _
  · exact h.workLoadTrunk _
  · exact h.workFetchCharges _ _
  · exact h.workReleaseCharges _

end

end Sys2Proof.Machine
end


section
-- The proofs are elaborated one after another: the waiting threads would take the memory that the check allows.
set_option Elab.async false
/-! SUPPORT. What the highway, the tick and a step keep, and the obligations about every step. -/

namespace Sys2Proof.Machine

/-! ## The coders (R71) -/

theorem Quantiser.apply_inRange (q : Quantiser) (n : Nat) : (q.apply n).inRange := by
  have hindex (i : Int) : clampIndex i ≤ 39 := by
    unfold clampIndex
    repeat' split
    all_goals omega
  have hp := clampLinear_inRange (if 8 ≤ n then q.p - ((2 * (n % 8) + 1) * quantStep q.i / 4 : Nat) else q.p + ((2 * (n % 8) + 1) * quantStep q.i / 4 : Nat))
  exact ⟨hp.1, hp.2, hindex _⟩

theorem Encoder.take_inRange (x : Int) {e : Encoder} (hq : e.quant.inRange) (hs : e.start.inRange) :
    (e.take x).quant.inRange ∧ (e.take x).start.inRange := by
  unfold Encoder.take
  split
  · exact ⟨Quantiser.apply_inRange .., hs⟩
  · exact ⟨hq, hs⟩

/-- A decoder moved on by one highway frame has its quantiser in range. -/
def Decoded.inRange : Decoded → Prop
  | .quiet d | .voice d => d.quant.inRange
  | _ => True

theorem Decoder.begin_inRange (octet : Nat → Option Octet) {d : Decoder} (h : d.quant.inRange) : (d.begin octet).inRange := by
  unfold Decoder.begin
  repeat' split
  case h_2.isFalse.isTrue => exact h
  all_goals first | trivial | exact Quantiser.apply_inRange ..

theorem Decoder.step_inRange (octet : Nat → Option Octet) {d : Decoder} (h : d.quant.inRange) : (d.step octet).inRange := by
  unfold Decoder.step
  split
  · exact h
  · repeat' split
    all_goals first | trivial | exact Quantiser.apply_inRange ..
  · exact Decoder.begin_inRange octet h

section
variable {s z : State}

/-! ## The speech slots -/

theorem Keeps.encoderTaken (h : Keeps s z) (c : ChannelIx) (x : Int) : Keeps s (z.updEncoder c (Encoder.take x)) :=
  h.updEncoder c _ fun _ => Encoder.take_inRange x

theorem Keeps.decoderMoved (h : Keeps s z) (c : ChannelIx) (d : Decoder)
    (hd : (z.decoder c).quant.inRange → d.quant.inRange) : Keeps s (decoderMoved c d z) :=
  Keeps.updRing (h.updDecoder c (fun _ => d) hd) c _

theorem Keeps.playFrame (h : Keeps s z) (c : ChannelIx) : Keeps s (playFrame c z).2 := by
  have hstep := Decoder.step_inRange (z.ring c).octet (d := z.decoder c)
  unfold Machine.playFrame
  split
  · exact h
  split
  case h_1 => exact h
  case h_2 => exact h.itemEnd c
  case h_3 d e => exact h.decoderMoved c d fun q => by simpa only [e, Decoded.inRange] using hstep q
  case h_4 d e => exact h.decoderMoved c d fun q => by simpa only [e, Decoded.inRange] using hstep q

theorem Keeps.boundFrame (h : Keeps s z) (c : ChannelIx) (o : Octet) : Keeps s (boundFrame c o z).2 := by
  unfold Machine.boundFrame
  exact Keeps.playFrame (iteInduction (fun _ => h.encoderTaken c _) fun _ => h) c

theorem Keeps.speechSlots (us : List SlotUse) (os : List Octet) (h : Keeps s z) : Keeps s (speechSlots us os z).2 := by
  induction us, os, z using speechSlots.induct with
  | case1 c us o os z r ih =>
    rw [Machine.speechSlots]
    exact ih (h.boundFrame c o)
  | case2 x us o os z ih =>
    rw [Machine.speechSlots]
    exact ih h
  | case3 us os z h1 h2 =>
    rw [Machine.speechSlots]
    · exact h
    · exact h1
    · exact h2

/-! ## Slots 126 and 127 -/

theorem Keeps.encodersSettled (h : Keeps s z) : Keeps s (encodersSettled z) :=
  Keeps.foldl _ (fun c {_} h => (((h.speechFrameEnd c).maxLength c).noVoice c).drainTest) _ h

theorem Keeps.snoop (h : Keeps s z) (f : Delivered) : Keeps s (snoop f z) := by
  unfold Machine.snoop
  split
  · exact h.takeSeize ..
  · exact h.takeDigit ..
  · exact h.takeAnswered _
  · exact h.takeCleared _
  · exact iteInduction (fun _ => h.takeHook ..) fun _ => h
  · exact h

theorem Keeps.elim {α : Type} {x : Option α} {f : α → State} (h : Keeps s z) (hf : ∀ a, Keeps s (f a)) : Keeps s (x.elim z f) := by
  cases x
  · exact h
  · exact hf _

theorem Keeps.dispatch (h : Keeps s z) (f : Delivered) : Keeps s (dispatch f z) := by
  unfold Machine.dispatch
  split
  · split
    · exact h
    · exact h.holderTake fun h => h.commandOwner ..
  split
  · exact h.elim fun _ => h.takeDivert ..
  · exact h.takeSlotClear _
  · exact h.elim fun _ => h.takeKey ..
  · exact h.elim fun _ => h.takeSense ..
  · exact h

theorem Keeps.takeSlot126 (h : Keeps s z) (o : Octet) : Keeps s (takeSlot126 o z) := by
  have htaken : Keeps s { z with link := { z.link with framer126 := (z.link.framer126.take o).1 } } := h.link _ id
  exact htaken.elim fun f => htaken.encodersSettled.snoop f

theorem Keeps.takeSlot127 (h : Keeps s z) (o : Octet) : Keeps s (takeSlot127 o z) := by
  have htaken : Keeps s { z with link := { z.link with framer127 := (z.link.framer127.take o).1 } } := h.link _ id
  exact htaken.elim fun f => htaken.encodersSettled.dispatch f

theorem State.toSend_length (z : State) : z.toSend.2.length ≤ z.link.queue.length := by
  unfold State.toSend
  split
  case h_1 f rest _ e => simp [e]
  case h_2 => exact Nat.le_refl _

theorem Keeps.transmit (h : Keeps s z) : Keeps s (transmit z).2 :=
  h.link _ z.toSend_length.trans

theorem Keeps.slot127 (h : Keeps s z) (reached : Bool) (o : Octet) : Keeps s (slot127 reached o z).2 := by
  unfold Machine.slot127
  cases reached
  · exact h.takeSlot127 o
  · exact h.transmit.takeSlot127 o

/-! ## One highway frame, loss and return -/

theorem Clock.frameEnd_kept (c : Clock) : ClockKept c c.frameEnd :=
  ⟨fun _ => Nat.min_le_right .., id, id, id⟩

theorem Keeps.frameEnded (h : Keeps s z) (delay : Vector Octet 128) (hout : List Octet) :
    Keeps s { z with highway := { z.highway with delay := delay, hout := hout }, clock := z.clock.frameEnd } :=
  (h.highway { z.highway with delay := delay, hout := hout } rfl fun hm hp => ⟨hm, hp⟩).clock _ z.clock.frameEnd_kept

theorem Keeps.frameSlots (h : Keeps s z) (hin : List Octet) : Keeps s (frameSlots hin z) := by
  have hspeech := (h.speechSlots z.slotUses (inbound hin).toList).drainTest
  exact ((hspeech.takeSlot126 _).slot127 _ _).frameEnded _ _

theorem Keeps.clearBound (h : Keeps s z) : Keeps s (clearBound z) :=
  Keeps.foldl _ (fun c {_} h => (h.slotCleared c).drainTest) _ h

theorem Keeps.highwayReturn (h : Keeps s z) : Keeps s (highwayReturn z) :=
  Keeps.clearBound ((h.place .holdExit).highway _ rfl fun hm hp => ⟨hm, hp⟩)

theorem Keeps.pulse (h : Keeps s z) : Keeps s (pulse z) := by
  unfold Machine.pulse
  have hreturned : Keeps s (if z.highway.presence = .lost then Machine.highwayReturn z else z) :=
    iteInduction (fun _ => h.highwayReturn) fun _ => h
  exact hreturned.highway _ rfl fun _ _ => ⟨Nat.zero_le _, fun _ => Nat.zero_le _⟩

theorem Keeps.takeFrame (h : Keeps s z) (hin : List Octet) : Keeps s (takeFrame hin z) := by
  unfold Machine.takeFrame
  split
  · exact h.highway _ rfl fun hm hp => ⟨hm, hp⟩
  · exact h.pulse.frameSlots hin

theorem Keeps.takeWindowEnd (h : Keeps s z) : Keeps s (takeWindowEnd z) := by
  unfold Machine.takeWindowEnd
  split
  case isFalse => exact h
  case isTrue hpresent =>
    dsimp only
    split
    case isTrue =>
      have hlost : Keeps s { z with highway := { z.highway with presence := .lost, missing := z.highway.missing + 1 } } :=
        h.highway _ rfl fun _ hp => ⟨Nat.succ_le_succ (hp hpresent), fun e => nomatch e⟩
      exact (hlost.link { z.link with framer126 := .hunt, framer127 := .hunt, sending := [] } id).mapMeters meterLost
    case isFalse hcount =>
      simp only [Config.lossCount] at hcount
      have hcount' : z.highway.missing + 1 ≤ 15 := Nat.le_of_lt_succ (Nat.not_le.mp hcount)
      exact h.highway _ rfl fun _ _ => ⟨Nat.le_succ_of_le hcount', fun _ => hcount'⟩

/-! ## The tick -/

theorem Clock.tick_kept (c : Clock) : ClockKept c c.tick := by
  unfold Clock.tick
  split
  case isTrue =>
    exact ⟨fun _ => Nat.zero_le _, fun _ => Nat.succ_pos _, fun _ => Nat.mod_lt _ (by decide), fun _ => Nat.mod_lt _ (by decide)⟩
  case isFalse hlast =>
    simp only [Config.secondsPerDay] at hlast
    exact ⟨fun _ => Nat.zero_le _, fun _ => by dsimp only; omega, id, id⟩

theorem Keeps.takeTick (h : Keeps s z) : Keeps s (takeTick z) := by
  unfold Machine.takeTick
  split
  case isFalse => exact h
  case isTrue =>
    have hchannels : Keeps s { z with clock := z.clock.tick, channels := mapVector channelTick z.channels } :=
      (h.clock _ z.clock.tick_kept).channels _ fun c => by rw [getElem_mapVector]; exact ⟨rfl, id⟩
    have hmeters : Keeps s { z with clock := z.clock.tick, channels := mapVector channelTick z.channels,
                                    meters := if z.active then mapVector (Option.map meterTick) z.meters else z.meters } := by
      split
      · exact hchannels.mapMeters meterTick
      · exact hchannels
    exact hmeters.lampTick

/-! ## Device reset -/

end

theorem reset_queueBounded : QueueBounded State.reset := Nat.zero_le _

theorem reset_statusLegal : StatusLegal State.reset := by
  constructor <;> decide

theorem reset_room (r : RoomIx) : State.reset.room r = Room.reset := by simp [State.room, State.reset]
theorem reset_chan (c : ChannelIx) : State.reset.chan c = Channel.reset := by simp [State.chan, State.reset]
theorem reset_trunk (t : TrunkIx) : State.reset.trunk t = Trunk.reset := by simp [State.trunk, State.reset]
theorem reset_encoder (c : ChannelIx) : State.reset.encoder c = Encoder.reset := by simp [State.encoder, State.reset]
theorem reset_decoder (c : ChannelIx) : State.reset.decoder c = Decoder.reset := by simp [State.decoder, State.reset]

theorem reset_balancesInRange : BalancesInRange State.reset := fun r => by rw [reset_room]; exact Nat.zero_le _

theorem reset_chargesAdmitted : ChargesAdmitted State.reset where
  counted := by
    rw [State.pendingRooms, State.reset, Vector.toList_replicate, List.countP_replicate]
    rfl
  sum := by
    rw [State.openMeters, State.reset, Vector.toList_replicate, List.countP_replicate]
    decide

theorem reset_codersInRange : CodersInRange State.reset := by
  refine ⟨fun c => ?_, fun k => ?_⟩
  · rw [reset_encoder, reset_decoder]
    exact ⟨Quantiser.reset_inRange, Quantiser.reset_inRange, Quantiser.reset_inRange⟩
  · simp [State.reset]

theorem reset_bindingsOneToOne : BindingsOneToOne State.reset where
  bound k c := by rw [reset_chan]; simp [State.reset, Channel.reset]
  free c _ := by rw [reset_chan]; rfl
  unmapped k t _ := by rw [reset_trunk]; simp [Trunk.reset]

theorem reset_lampQueueAgrees : LampQueueAgrees State.reset where
  once := List.nodup_nil
  queued r := by rw [reset_room]; simp [State.reset, Room.reset, LampRecord.reset, LampControl.reset]

/-- The machine after reset meets every invariant, whatever it keeps of the waiting commands, the RESET line and the port. -/
theorem InvariantsKept.reset (s : State) (l : List Instr) (low : Bool) (p : Port) :
    InvariantsKept s { State.reset with pending := l, resetLow := low, port := p } where
  queue _ := reset_queueBounded
  status _ := ⟨reset_statusLegal.attention, reset_statusLegal.missing, reset_statusLegal.present, reset_statusLegal.frames,
    reset_statusLegal.seconds, reset_statusLegal.weekday, reset_statusLegal.day⟩
  balances _ := reset_balancesInRange
  charges _ := ⟨reset_chargesAdmitted.counted, reset_chargesAdmitted.sum⟩
  coders _ := reset_codersInRange
  bindings _ := ⟨reset_bindingsOneToOne.bound, reset_bindingsOneToOne.free, reset_bindingsOneToOne.unmapped⟩
  lamps _ := ⟨reset_lampQueueAgrees.once, reset_lampQueueAgrees.queued⟩

theorem heldReset_keeps (s : State) : Keeps s (heldReset s) := { InvariantsKept.reset s _ _ _ with }

theorem released_keeps (s : State) : Keeps s (released s) := by
  unfold released
  split
  · exact { InvariantsKept.reset s _ _ _ with }
  · exact Keeps.refl s

/-! ## A command, and a step -/

/-- A command answers a next state that keeps the invariants and the waiting commands. -/
def Answers (x : State → Host.Outcome State Fault Refusal) (s : State) : Prop := ∃ t, x s = .next t ∧ Keeps s t

theorem event_answers {f : State → State} (s : State) (hf : Keeps s s → Keeps s (f s)) : Answers (event f) s :=
  ⟨_, rfl, iteInduction (fun _ => Keeps.refl s) fun _ => hf (Keeps.refl s)⟩

/-- A management command keeps what its owner keeps. -/
theorem holder_answers {kind tag : Octet} {fields : List Octet} {owner : State → Work} (s : State)
    (ho : ∀ {y : State}, Keeps s y → Keeps s (owner y).after) : Answers (event (holderTake kind tag fields owner)) s :=
  event_answers s fun h => h.holderTake ho

theorem exec_answers (c : Instr) (s : State) : Answers (exec c) s := by
  cases c with
  | highwayFrame hin => exact ⟨_, rfl, (Keeps.refl s).takeFrame hin⟩
  | deviceReset => exact ⟨_, rfl, heldReset_keeps s⟩
  | resetRelease => exact ⟨_, rfl, released_keeps s⟩
  | syncWindowEnd => exact event_answers s (·.takeWindowEnd)
  | tick => exact event_answers s (·.takeTick)
  | portStartEnd => exact event_answers s (·.takeStartEnd)
  | seizeOut => exact event_answers s (·.takeSeize ..)
  | digit => exact event_answers s (·.takeDigit ..)
  | answered => exact event_answers s (·.takeAnswered _)
  | timedAnswerExpiry => exact event_answers s (·.timedExpiry _)
  | unitBoundary => exact event_answers s (·.boundaryDue _)
  | cleared => exact event_answers s (·.takeCleared _)
  | hook => exact event_answers s (·.takeHook ..)
  | divert => exact event_answers s (·.takeDivert ..)
  | slotClear => exact event_answers s (·.takeSlotClear _)
  | key => exact event_answers s (·.takeKey ..)
  | lampSense => exact event_answers s (·.takeSense ..)
  | speechFrameEnd => exact event_answers s fun h => (h.speechFrameEnd _).drainTest
  | maxLengthReached => exact event_answers s fun h => (h.maxLength _).drainTest
  | noVoiceTimeout => exact event_answers s fun h => (h.noVoice _).drainTest
  | menuTimerExpiry => exact event_answers s fun h => (h.menuExpiry _).drainTest
  | sweep => exact event_answers s (·.takeSweep)
  | arbiterChoice => exact event_answers s (·.arbiterChoice)
  | programComplete => exact event_answers s (·.takeProgram _)
  | heldProgramComplete => exact event_answers s (·.takeHeldProgram _)
  | readComplete => exact event_answers s (·.takeRead _)
  | heldReadComplete => exact event_answers s (·.takeHeldRead _)
  | eraseComplete => exact event_answers s (·.takeErase _)
  | markComplete => exact event_answers s (·.takeMark _)
  | mountReadComplete => exact event_answers s (·.takeMountRead _)
  | promptEraseComplete => exact event_answers s (·.takePromptErase _)
  | promptProgramComplete => exact event_answers s (·.takePromptProgram _)
  | promptReadComplete => exact event_answers s (·.takePromptRead _)
  | flashTimeout => exact event_answers s (·.takeTimeout)
  | portRecoveryEnd => exact event_answers s (·.takeRecoveryEnd)
  | replyEntry => exact event_answers s (·.replyEntry)
  | fetchChargesEntry => exact event_answers s (·.fetchEntry)
  | queryStatus => exact holder_answers s (·.workQueryStatus _)
  | startService => exact holder_answers s (·.workStartService _)
  | suspend => exact holder_answers s (·.workSuspend _)
  | clearAttention => exact holder_answers s (·.workClearAttention _)
  | setClock => exact holder_answers s (·.workSetClock _)
  | loadTableClass => exact holder_answers s (·.workLoadClass _)
  | loadTablePrefix => exact holder_answers s (·.workLoadPrefix _)
  | loadTableBand => exact holder_answers s (·.workLoadBand _)
  | loadTableSchedule => exact holder_answers s (·.workLoadSchedule _)
  | loadTableParameters => exact holder_answers s (·.workLoadParameters _)
  | loadRoom => exact holder_answers s (·.workLoadRoom _)
  | checkIn => exact holder_answers s (·.workCheckIn _)
  | checkOut => exact holder_answers s (·.workCheckOut _)
  | setCredit => exact holder_answers s (·.workSetCredit _)
  | postPayment => exact holder_answers s (·.workPostPayment _)
  | unbar => exact holder_answers s (·.workUnbar _)
  | deskFlag => exact holder_answers s (·.workDeskFlag _)
  | deleteMessages => exact holder_answers s (·.workDeleteMessages _)
  | queryRoom => exact holder_answers s (·.workQueryRoom _)
  | resetChannel => exact holder_answers s (·.workResetChannel _)
  | loadExpansion => exact holder_answers s (·.workLoadExpansion _)
  | setGeometry => exact holder_answers s (·.workSetGeometry _)
  | mount => exact holder_answers s (·.workMount _)
  | queryStore => exact holder_answers s (·.workQueryStore _)
  | promptErase => exact holder_answers s (·.workPromptErase _)
  | promptPage => exact holder_answers s (·.workPromptPage _)
  | promptCommit => exact holder_answers s (·.workPromptCommit _)
  | promptVerify => exact holder_answers s (·.workPromptVerify _)
  | promptBlank => exact holder_answers s (·.workPromptBlank _)
  | promptDir => exact holder_answers s (·.workPromptDir _)
  | lampForce => exact holder_answers s (·.workLampForce _)
  | lampResume => exact holder_answers s (·.workLampResume _)
  | lampResync => exact holder_answers s (·.workLampResync _)
  | loadTrunk => exact holder_answers s (·.workLoadTrunk _)
  | fetchCharges => exact holder_answers s (·.workFetchCharges _ _)
  | releaseCharges => exact holder_answers s (·.workReleaseCharges _)

/-- A step takes the front command off the queue and runs it. -/
theorem step_keeps {s t : State} (h : step s = .next t) : InvariantsKept s t := by
  unfold step at h
  split at h
  case h_1 => cases h; exact (Keeps.refl s).toInvariantsKept
  case h_2 c rest _ =>
    have hpopped : InvariantsKept s { s with pending := rest } := {}
    obtain ⟨u, hu, hkeeps⟩ := exec_answers c { s with pending := rest }
    cases hu.symm.trans h
    exact hpopped.trans hkeeps.toInvariantsKept

/-! ## The obligations -/

/-- Settles O2. -/
theorem everyCommandCompletes : Obligations.EveryCommandCompletes := by
  unfold Obligations.EveryCommandCompletes
  intro c s
  obtain ⟨t, ht, hkeeps⟩ := exec_answers c s
  exact ⟨t, ht, hkeeps.pending⟩

/-- Settles O54. -/
theorem resetMeetsTheInvariants : Obligations.ResetMeetsTheInvariants :=
  ⟨reset_queueBounded, reset_statusLegal, reset_balancesInRange, reset_chargesAdmitted, reset_codersInRange,
    reset_bindingsOneToOne, reset_lampQueueAgrees⟩

/-- Settles O55. -/
theorem everyStepKeepsTheStatusLegal : Obligations.EveryStepKeepsTheStatusLegal :=
  ⟨fun _ _ hs ht => (step_keeps ht).queue hs, fun _ _ hs ht => (step_keeps ht).status hs⟩

/-- Settles O56. -/
theorem everyStepKeepsBalancesInRange : Obligations.EveryStepKeepsBalancesInRange :=
  fun _ _ hs ht => (step_keeps ht).balances hs

/-- Settles O57. -/
theorem everyStepKeepsChargesAdmitted : Obligations.EveryStepKeepsChargesAdmitted :=
  fun _ _ hs ht => (step_keeps ht).charges hs

/-- Settles O58. -/
theorem everyStepKeepsCodersInRange : Obligations.EveryStepKeepsCodersInRange :=
  fun _ _ hs ht => (step_keeps ht).coders hs

/-- Settles O59. -/
theorem everyStepKeepsBindingsOneToOne : Obligations.EveryStepKeepsBindingsOneToOne :=
  fun _ _ hs ht => (step_keeps ht).bindings hs

/-- Settles O60. -/
theorem everyStepKeepsLampQueue : Obligations.EveryStepKeepsLampQueue :=
  fun _ _ hs ht => (step_keeps ht).lamps hs

end Sys2Proof.Machine
end


section
-- The proofs are elaborated one after another: the waiting threads would take the memory that the check allows.
set_option Elab.async false
/-! SUPPORT. The queue of commands and device reset. -/

namespace Sys2Proof.Machine

/-- Settles O1. -/
theorem stepRunsTheFrontCommand : Obligations.StepRunsTheFrontCommand := fun s =>
  ⟨fun hempty => by rw [step, hempty], fun c rest hfront => by rw [step, hfront]⟩

/-! ## Device reset -/

theorem reset_ring (c : ChannelIx) : State.reset.ring c = Ring.reset := by simp [State.ring, State.reset]
theorem reset_meter (m : MeterIx) : State.reset.meter m = none := by simp [State.meter, State.reset]
theorem reset_class (k : ClassIx) : State.reset.classes[k] = ClassRecord.reset := by simp [State.reset]

theorem reset_bandPeriod (b : Fin 32) (p : Fin 4) : State.reset.bandPeriod b p = BandPeriod.reset := by
  simp [State.bandPeriod, State.reset, Tariff.reset]

/-- Settles O3: each table is one value repeated, and the other fields are the literals of `State.reset`. -/
theorem resetValues : Obligations.ResetValues := by
  refine ⟨rfl, rfl, rfl, fun k => ?delay, fun k => ?bindings, rfl, rfl, rfl, rfl, rfl, reset_room, rfl, rfl, reset_class,
    fun c => ⟨reset_chan c, reset_ring c, reset_encoder c, reset_decoder c⟩, fun k => ?expansion, rfl, rfl, rfl, rfl,
    fun i => ?prompts, rfl, fun i => ?buffer, rfl, reset_trunk, reset_meter, rfl, rfl, rfl, fun i => ?entries,
    reset_bandPeriod, rfl⟩
  case delay => simp [State.reset]
  case bindings => simp [State.reset]
  case expansion => simp [State.reset]
  case prompts => simp [State.reset, Store.reset]
  case buffer => simp [State.reset, Store.reset, LoadBuffer.reset]
  case entries => simp [State.reset, Tariff.reset]

/-- While RESET is low, a command other than the three that act on the pins has no effect (R187). -/
theorem exec_held {s : State} (h : s.resetLow = true) {c : Instr} (hreset : c ≠ .deviceReset) (hrelease : c ≠ .resetRelease)
    (hframe : ∀ hin, c ≠ .highwayFrame hin) : exec c s = .next s := by
  cases c with
  | deviceReset => exact (hreset rfl).elim
  | resetRelease => exact (hrelease rfl).elim
  | highwayFrame hin => exact (hframe hin rfl).elim
  | speechFrameEnd c => exact event_held (f := fun s => drainTest (speechFrameEnd c s)) h
  | maxLengthReached c => exact event_held (f := fun s => drainTest (maxLength c s)) h
  | noVoiceTimeout c => exact event_held (f := fun s => drainTest (noVoice c s)) h
  | menuTimerExpiry c => exact event_held (f := fun s => drainTest (menuExpiry c s)) h
  | _ => exact event_held h

/-- Settles O4. -/
theorem deviceResetAndRelease : Obligations.DeviceResetAndRelease := by
  intro s
  refine ⟨rfl, rfl, rfl, rfl, rfl, fun hrunning => ?running, fun hlow => ⟨fun hin hlength => ?frame, fun c => exec_held hlow⟩⟩
  case running =>
    have : released s = s := if_neg (Bool.eq_false_iff.mp hrunning)
    exact congrArg Host.Outcome.next this
  case frame =>
    have : takeFrame hin s = { s with highway := { s.highway with hout := List.replicate hin.length 0xFF } } := by
      rw [takeFrame, if_pos hlow, Nat.min_eq_left hlength]
    exact congrArg Host.Outcome.next this

end Sys2Proof.Machine
end


section
-- The proofs are elaborated one after another: the waiting threads would take the memory that the check allows.
set_option Elab.async false
/-! SUPPORT. Frames and records (R10, R11, R21): what a framer makes of an envelope, and what the spare-area records read
back. -/

namespace Sys2Proof.Machine

/-! ## The check octet -/

theorem octetSum_concat (l : List Octet) (o : Octet) : octetSum (l ++ [o]) = octetSum l + o := by
  simp [octetSum]

/-- One octet alone completes the sum (R10). -/
theorem octetSum_concat_eq_zero (l : List Octet) (o : Octet) : octetSum (l ++ [o]) = 0 ↔ o = checkOctet l := by
  rw [octetSum_concat, checkOctet]
  constructor
  · intro h
    rw [← h]
    simp
  · rintro rfl
    simp

theorem checkHolds_withCheck (l : List Octet) : checkHolds (withCheck l) = true :=
  decide_eq_true ((octetSum_concat_eq_zero l _).mpr rfl)

/-! ## Framers (R11) -/

/-- A framer fed with two lists delivers what the first gives it and then what the second gives it. -/
theorem Framer.run_append (l m : List Octet) (f : Framer) :
    Framer.run (l ++ m) f = ((Framer.run m (Framer.run l f).1).1, (Framer.run l f).2 ++ (Framer.run m (Framer.run l f).1).2) := by
  induction l generalizing f with
  | nil => rfl
  | cons o l ih => simp only [List.cons_append, Framer.run, ih, List.append_assoc]

/-- The octets that LEN still asks for are held, and the CHECK comes next. -/
theorem Framer.run_payload (a k n : Octet) (p held : List Octet) (hp : p ≠ []) (hn : held.length + p.length = n.toNat) :
    Framer.run p (.payload a k n held) = (.check a k n (held ++ p), []) := by
  induction p generalizing held with
  | nil => exact (hp rfl).elim
  | cons o p ih =>
    simp only [List.length_cons] at hn
    cases p with
    | nil =>
      have hlast : ¬ held.length + 1 < n.toNat := by simp only [List.length_nil] at hn; omega
      simp [Framer.run, Framer.take, hlast]
    | cons o' p =>
      have hmore : held.length + 1 < n.toNat := by simp only [List.length_cons] at hn; omega
      rw [Framer.run, Framer.take, if_pos hmore]
      simpa using ih (held ++ [o]) (by simp) (by simp only [List.length_append, List.length_singleton] at hn ⊢; omega)

/-- A framer that hunts holds the ADDR, KIND, LEN and payload of a frame when its CHECK comes. -/
theorem Framer.run_body (a k : Octet) (p : List Octet) (hp : p.length ≤ 60) :
    Framer.run (0x7E :: a :: k :: BitVec.ofNat 8 p.length :: p) .hunt = (.check a k (BitVec.ofNat 8 p.length) p, []) := by
  have hlen : (BitVec.ofNat 8 p.length).toNat = p.length := by
    rw [BitVec.toNat_ofNat]
    exact Nat.mod_eq_of_lt (by omega)
  have hshort : ¬ 60 < (BitVec.ofNat 8 p.length).toNat := by omega
  have hbegun : Framer.run (0x7E :: a :: k :: BitVec.ofNat 8 p.length :: p) .hunt =
      Framer.run p (Framer.lengthTaken a k (BitVec.ofNat 8 p.length)) := rfl
  rw [hbegun, Framer.lengthTaken, if_neg hshort]
  cases p with
  | nil => rfl
  | cons o p =>
    have hsome : BitVec.ofNat 8 (o :: p).length ≠ 0 := fun h => by
      rw [h] at hlen
      simp at hlen
    rw [if_neg hsome]
    exact Framer.run_payload a k _ (o :: p) [] (by simp) (by rw [hlen]; simp)

/-- The CHECK decides whether the frame is delivered. -/
theorem Framer.run_check (a k : Octet) (p : List Octet) (hp : p.length ≤ 60) (o : Octet) :
    Framer.run (0x7E :: a :: k :: BitVec.ofNat 8 p.length :: p ++ [o]) .hunt =
      (.hunt, if o = checkOctet (a :: k :: BitVec.ofNat 8 p.length :: p) then [(k, p)] else []) := by
  rw [Framer.run_append, Framer.run_body a k p hp]
  simp only [Framer.run, Framer.take, List.append_nil, List.nil_append, octetSum_concat_eq_zero]
  split <;> rfl

/-- Settles O10: the framer holds the frame up to its CHECK, which is the one octet that completes the sum. -/
theorem framerReadsBackEnvelopes : Obligations.FramerReadsBackEnvelopes := by
  refine ⟨fun a k p hp => ⟨?whole, fun o ho => ?badCheck⟩, fun a k n hn => ?long, fun o ho => ?hunting, fun set f => rfl⟩
  case whole =>
    have := Framer.run_check a k p hp (checkOctet (a :: k :: BitVec.ofNat 8 p.length :: p))
    rwa [if_pos rfl] at this
  case badCheck => rw [Framer.run_check a k p hp, if_neg ho]
  case long =>
    have : Framer.lengthTaken a k n = .hunt := if_pos hn
    simp [Framer.run, Framer.take, this]
  case hunting => rw [Framer.take, if_neg ho]

/-! ## Numbers read back -/

theorem field16_octets (n : Nat) (h : n ≤ 65535) : field16 (BitVec.ofNat 8 (n / 256)) (BitVec.ofNat 8 n) = n := by
  simp only [field16, BitVec.toNat_ofNat]
  omega

theorem field24_octets (n : Nat) (h : n ≤ 16777215) :
    field24 (BitVec.ofNat 8 (n / 65536)) (BitVec.ofNat 8 (n / 256)) (BitVec.ofNat 8 n) = n := by
  simp only [field24, BitVec.toNat_ofNat]
  omega

theorem field32_octets (n : Nat) (h : n ≤ 4294967295) :
    field32 (BitVec.ofNat 8 (n / 16777216)) (BitVec.ofNat 8 (n / 65536)) (BitVec.ofNat 8 (n / 256)) (BitVec.ofNat 8 n) = n := by
  simp only [field32, BitVec.toNat_ofNat]
  omega

theorem octets2_eq {n : Nat} (h : n ≤ 65535) : octets2 n = [BitVec.ofNat 8 (n / 256), BitVec.ofNat 8 n] := by
  rw [octets2, Nat.min_eq_left h]

theorem octets3_eq {n : Nat} (h : n ≤ 16777215) :
    octets3 n = [BitVec.ofNat 8 (n / 65536), BitVec.ofNat 8 (n / 256), BitVec.ofNat 8 n] := by
  rw [octets3, Nat.min_eq_left h]

theorem octets4_eq {n : Nat} (h : n ≤ 4294967295) :
    octets4 n = [BitVec.ofNat 8 (n / 16777216), BitVec.ofNat 8 (n / 65536), BitVec.ofNat 8 (n / 256), BitVec.ofNat 8 n] := by
  rw [octets4, Nat.min_eq_left h]

/-! ## Spare-area records (R21) -/

/-- The type and the serial of a record written. -/
theorem spare_read (o : Octet) {serial : Nat} (h : serial ≤ 4294967295) (l : List Octet) :
    (withCheck ([o] ++ octets4 serial ++ l)).getD 0 0 = o ∧ spareSerial (withCheck ([o] ++ octets4 serial ++ l)) = serial := by
  rw [octets4_eq h]
  exact ⟨rfl, field32_octets serial h⟩

theorem not_blank {o : Octet} (h : o ≠ 0xFF) (l : List Octet) : blankOctets (o :: l) = false := by
  rw [blankOctets, List.all_cons, beq_eq_false_iff_ne.mpr h, Bool.false_and]

/-- An origin is read back, an absent one from the code above 999,999 (R102). -/
theorem origin_readBack (x : Option Nat) (h : ∀ n, x = some n → n ≤ 999999) :
    ∃ a b c, extensionOctets3 x = [a, b, c] ∧ (if field24 a b c ≤ 999999 then some (field24 a b c) else none) = x := by
  cases x with
  | none => exact ⟨0xFF, 0xFF, 0xFF, rfl, if_neg (by decide)⟩
  | some n =>
    have hn := h n rfl
    have hfield := field24_octets n (by omega)
    exact ⟨_, _, _, octets3_eq (by omega), by rw [hfield, if_pos hn]⟩

theorem classifySpare_headSpare (m : Message) (hserial : m.serial ≤ 4294967295) (hday : m.day ≤ 65535) (hsecond : m.second < 86400)
    (horigin : ∀ x, m.origin = some x → x ≤ 999999) :
    classifySpare (headSpare m) =
      .head { serial := m.serial, room := m.room, day := m.day, urgent := m.urgent, second := m.second, origin := m.origin } := by
  obtain ⟨a, b, c, hwritten, hread⟩ := origin_readBack m.origin horigin
  have hroom : m.room.val ≤ 65535 := by omega
  obtain ⟨time, htime⟩ : ∃ time, time = (if m.urgent then 8388608 else 0) + m.second := ⟨_, rfl⟩
  have hurgent : time ≤ 16777215 ∧ time % 131072 = m.second ∧ decide (8388608 ≤ time) = m.urgent := by
    rw [htime]
    cases m.urgent
    · simp; omega
    · simp; omega
  obtain ⟨hmax, htimeSecond, htimeUrgent⟩ := hurgent
  have hspare : headSpare m = withCheck ([0x5A] ++ octets4 m.serial ++ (octets2 m.room.val ++ octets2 m.day ++ octets3 time ++ [a, b, c])) := by
    rw [headSpare, ← htime, hwritten]
    simp only [List.append_assoc]
  have hcheck := checkHolds_withCheck ([0x5A] ++ octets4 m.serial ++ (octets2 m.room.val ++ octets2 m.day ++ octets3 time ++ [a, b, c]))
  obtain ⟨htype, hser⟩ := spare_read 0x5A hserial (octets2 m.room.val ++ octets2 m.day ++ octets3 time ++ [a, b, c])
  rw [hspare]
  generalize hl : withCheck ([0x5A] ++ octets4 m.serial ++ (octets2 m.room.val ++ octets2 m.day ++ octets3 time ++ [a, b, c])) = l at *
  rw [octets4_eq hserial, octets2_eq hroom, octets2_eq hday, octets3_eq hmax] at hl
  have hroomRead : field16 (l.getD 5 0) (l.getD 6 0) = m.room.val := by rw [← hl]; exact field16_octets _ hroom
  have hdayRead : field16 (l.getD 7 0) (l.getD 8 0) = m.day := by rw [← hl]; exact field16_octets _ hday
  have htimeRead : field24 (l.getD 9 0) (l.getD 10 0) (l.getD 11 0) = time := by rw [← hl]; exact field24_octets _ hmax
  have horiginRead : field24 (l.getD 12 0) (l.getD 13 0) (l.getD 14 0) = field24 a b c := by rw [← hl]; rfl
  have hblank : blankOctets l = false := by rw [← hl]; exact not_blank (by decide) _
  have hhead : readHead l =
      some { serial := m.serial, room := m.room, day := m.day, urgent := m.urgent, second := m.second,
             origin := m.origin } := by
    have hvalid : l.getD 0 0 = 0x5A ∧ checkHolds l = true ∧ field16 (l.getD 5 0) (l.getD 6 0) < 2048 ∧
        field24 (l.getD 9 0) (l.getD 10 0) (l.getD 11 0) % 131072 < Config.secondsPerDay :=
      ⟨htype, hcheck, by rw [hroomRead]; exact m.room.isLt, by rw [htimeRead, htimeSecond]; exact hsecond⟩
    rw [readHead, dif_pos hvalid]
    simp only [hser, hroomRead, hdayRead, htimeRead, horiginRead, htimeSecond, htimeUrgent, Config.maxExtension, hread]
  rw [classifySpare, hblank, hhead]
  rfl

theorem classifySpare_contSpare {serial seq : Nat} (hserial : serial ≤ 4294967295) (hmin : 1 ≤ seq) (hmax : seq ≤ 319) :
    classifySpare (contSpare serial seq) = .cont serial seq := by
  have hspare : contSpare serial seq = withCheck ([0x5C] ++ octets4 serial ++ (octets2 seq ++ List.replicate 8 0xFF)) := by
    rw [contSpare]
    simp only [List.append_assoc]
  have hcheck := checkHolds_withCheck ([0x5C] ++ octets4 serial ++ (octets2 seq ++ List.replicate 8 0xFF))
  obtain ⟨htype, hser⟩ := spare_read 0x5C hserial (octets2 seq ++ List.replicate 8 0xFF)
  rw [hspare]
  generalize hl : withCheck ([0x5C] ++ octets4 serial ++ (octets2 seq ++ List.replicate 8 0xFF)) = l at *
  rw [octets4_eq hserial, octets2_eq (by omega)] at hl
  have hseqRead : field16 (l.getD 5 0) (l.getD 6 0) = seq := by rw [← hl]; exact field16_octets _ (by omega)
  have hblank : blankOctets l = false := by rw [← hl]; exact not_blank (by decide) _
  have hhead : readHead l = none := by
    rw [readHead, dif_neg]
    rintro ⟨hhead, -⟩
    exact absurd (htype.symm.trans hhead) (by decide)
  have hcont : readCont l = some (serial, seq) := by
    rw [readCont, hseqRead, if_pos ⟨htype, hcheck, hmin, hmax⟩, hser]
  rw [classifySpare, hblank, hhead, hcont]
  rfl

/-- The type octet of a mark record (R21). -/
def MarkKind.code : MarkKind → Octet
  | .heard => 0x48
  | .deleted => 0x44

theorem MarkKind.code_inj {k k' : MarkKind} (h : k.code = k'.code) : k = k' := by
  cases k <;> cases k' <;> first | rfl | exact absurd h (by decide)

theorem markSpare_eq (k : MarkKind) (serial : Nat) :
    markSpare k serial = withCheck ([k.code] ++ octets4 serial ++ List.replicate 10 0xFF) := by
  cases k <;> rfl

theorem isMark_iff (k : MarkKind) (serial : Nat) (l : List Octet) :
    isMark k serial l = true ↔ l.getD 0 0 = k.code ∧ checkHolds l = true ∧ spareSerial l = serial := by
  cases k <;> exact decide_eq_true_iff

/-- A mark is read back as its kind and serial, and as no other (R119). -/
theorem isMark_markSpare (k k' : MarkKind) (serial : Nat) {serial' : Nat} (h : serial' ≤ 4294967295) :
    isMark k serial (markSpare k' serial') = true ↔ k = k' ∧ serial = serial' := by
  obtain ⟨htype, hser⟩ := spare_read k'.code h (List.replicate 10 0xFF)
  rw [isMark_iff, markSpare_eq, htype, hser]
  constructor
  · rintro ⟨hkind, -, rfl⟩
    exact ⟨(MarkKind.code_inj hkind).symm, rfl⟩
  · rintro ⟨rfl, rfl⟩
    exact ⟨rfl, checkHolds_withCheck _, rfl⟩

/-- Settles O12: each record is written with its check, and its fields are read from the octets where they were written. -/
theorem flashRecordsReadBack : Obligations.FlashRecordsReadBack :=
  ⟨classifySpare_headSpare, fun _ _ => classifySpare_contSpare, fun k k' serial _ _ h => isMark_markSpare k k' serial h, rfl⟩

end Sys2Proof.Machine
end


section
-- The proofs are elaborated one after another: the waiting threads would take the memory that the check allows.
set_option Elab.async false
/-! SUPPORT. A command's link frame (R12, R13): the fields read back from its payload, and its hand-over. -/

namespace Sys2Proof.Machine

/-! ## The fields of a payload -/

theorem trunkOf_octet (t : TrunkIx) : octets1 t.val = [BitVec.ofNat 8 t.val] ∧ trunkOf (BitVec.ofNat 8 t.val) = t := by
  have ht := t.isLt
  refine ⟨by rw [octets1, Nat.min_eq_left (by omega)], Fin.ext ?_⟩
  simp only [trunkOf, Fin.ofNat, BitVec.toNat_ofNat]
  omega

theorem octets3_readBack {x : Nat} (h : x ≤ 16777215) : ∃ a b c, octets3 x = [a, b, c] ∧ field24 a b c = x :=
  ⟨_, _, _, octets3_eq h, field24_octets x h⟩

theorem digits_readBack {ds : List Nat} (h : ∀ d ∈ ds, d ≤ 9) : (ds.map (BitVec.ofNat 8)).map (·.toNat) = ds := by
  rw [List.map_map]
  refine (List.map_congr_left fun d hd => ?_).trans (List.map_id ds)
  have := h d hd
  exact (BitVec.toNat_ofNat ..).trans (Nat.mod_eq_of_lt (by omega))

theorem keyOf_keyCode (k : Key) : keyOf (keyCode k) = some k := by
  cases k with
  | star => rfl
  | hash => rfl
  | digit d =>
    have hd := d.isLt
    have hval : (BitVec.ofNat 8 d.val).toNat = d.val := by
      rw [BitVec.toNat_ofNat]
      exact Nat.mod_eq_of_lt (by omega)
    rw [keyCode, keyOf, dif_pos (by omega)]
    simp only [hval]

theorem purposeOf_purposeCode (p : Purpose) : purposeOf (purposeCode p) = some p := by cases p <;> rfl

theorem senseOf_senseCode (r : Sense) : senseOf (senseCode r) = some r := by cases r <;> rfl

/-! ## The hand-over -/

/-- While RESET is high, a command with the effect of a hand-over answers what the hand-over leaves. -/
theorem event_handed {f : State → State} {s u : State} (h : s.resetLow = false) (hu : f s = u) : event f s = .next u := by
  rw [event_taken h, hu]

theorem command_handed {kind tag : Octet} {fields : List Octet} {owner : State → Work} {s : State} (h : s.resetLow = false)
    (hkind : 0x40 ≤ kind.toNat ∧ kind.toNat ≤ 0x5F) (ho : owner = commandOwner kind.toNat tag fields) :
    event (holderTake kind tag fields owner) s = .next (dispatch (kind, tag :: fields) s) :=
  event_handed h (by rw [dispatch, if_pos hkind, ho])

/-- The frame of an exchange command, delivered on slot 126, has the command's effect (R12). -/
theorem exchange_handed {i : Instr} {f : Delivered} {s : State} (hwf : i.wf = true) (h : s.resetLow = false)
    (hf : exchangeFrame i = some f) : exec i s = .next (snoop f s) := by
  cases i with
  | seizeOut t x =>
    cases hf
    obtain ⟨hoctet, htrunk⟩ := trunkOf_octet t
    have hx : x ≤ 999999 := of_decide_eq_true hwf
    obtain ⟨a, b, c, hoctets, hfield⟩ := octets3_readBack (x := x) (by omega)
    refine event_handed h ?_
    rw [hoctet, hoctets, ← hfield]
    exact congrArg (takeSeize · _ s) htrunk.symm
  | digit t ds =>
    cases hf
    obtain ⟨hoctet, htrunk⟩ := trunkOf_octet t
    have hds : ∀ d ∈ ds, d ≤ 9 := by
      simp only [Instr.wf, digitsFit, Bool.and_eq_true, List.all_eq_true, decide_eq_true_eq] at hwf
      exact hwf.2
    refine event_handed h ?_
    rw [hoctet]
    change takeDigit t ds s = takeDigit (trunkOf _) ((ds.map (BitVec.ofNat 8)).map (·.toNat)) s
    rw [htrunk, digits_readBack hds]
  | answered t =>
    cases hf
    obtain ⟨hoctet, htrunk⟩ := trunkOf_octet t
    refine event_handed h ?_
    rw [hoctet]
    exact congrArg (takeAnswered · s) htrunk.symm
  | cleared t =>
    cases hf
    obtain ⟨hoctet, htrunk⟩ := trunkOf_octet t
    refine event_handed h ?_
    rw [hoctet]
    exact congrArg (takeCleared · s) htrunk.symm
  | hook x off =>
    cases hf
    have hx : x ≤ 999999 := of_decide_eq_true hwf
    obtain ⟨a, b, c, hoctets, hfield⟩ := octets3_readBack (x := x) (by omega)
    refine event_handed h ?_
    rw [hoctets, ← hfield]
    cases off <;> rfl
  | _ => cases hf

/-- The frame of a controller's command, delivered on slot 127, has the command's effect (R13). -/
theorem controller_handed {i : Instr} {f : Delivered} {s : State} (hwf : i.wf = true) (h : s.resetLow = false)
    (hf : controllerFrame i = some f) : exec i s = .next (dispatch f s) := by
  cases i with
  | divert slot x p =>
    cases hf
    have hx : x < 16777216 := of_decide_eq_true hwf
    obtain ⟨a, b, c, hoctets, hfield⟩ := octets3_readBack (x := x) (by omega)
    refine event_handed h ?_
    rw [hoctets, ← hfield]
    exact congrArg (Option.elim · s fun p => takeDivert slot (field24 a b c) p s) (purposeOf_purposeCode p).symm
  | slotClear slot => cases hf; exact event_handed h rfl
  | key slot k =>
    cases hf
    exact event_handed h (congrArg (Option.elim · s fun k => takeKey slot k s) (keyOf_keyCode k).symm)
  | lampSense x r =>
    cases hf
    have hx : x < 16777216 := of_decide_eq_true hwf
    obtain ⟨a, b, c, hoctets, hfield⟩ := octets3_readBack (x := x) (by omega)
    refine event_handed h ?_
    rw [hoctets, ← hfield]
    exact congrArg (Option.elim · s fun r => takeSense (field24 a b c) r s) (senseOf_senseCode r).symm
  | queryStatus | startService | suspend | clearAttention | setClock | loadTableClass | loadTablePrefix | loadTableBand
  | loadTableSchedule | loadTableParameters | loadRoom | checkIn | checkOut | setCredit | postPayment | unbar | deskFlag
  | deleteMessages | queryRoom | resetChannel | loadExpansion | setGeometry | mount | queryStore | promptErase | promptPage
  | promptCommit | promptVerify | promptBlank | promptDir | lampForce | lampResume | lampResync | loadTrunk | fetchCharges
  | releaseCharges => cases hf; exact command_handed h (by decide) rfl
  | _ => cases hf

/-- Settles O11. -/
theorem linkFramesCarryTheCommands : Obligations.LinkFramesCarryTheCommands := fun _ _ _ hwf h =>
  ⟨exchange_handed hwf h, controller_handed hwf h⟩

end Sys2Proof.Machine
end


section
-- The proofs are elaborated one after another: the waiting threads would take the memory that the check allows.
set_option Elab.async false
/-! SUPPORT. The queries (R40, R116, R186): what their owners report. -/

namespace Sys2Proof.Machine

/-- While RESET is high, a command whose owner changes only what lies outside the link (R177, R179). -/
theorem event_effect {s z : State} {kind tag : Octet} {fields : List Octet} {owner : State → Work} {st : Status}
    {data : List Octet} (hready : s.ready) (ho : owner (s.held kind tag fields) = .done st data z)
    (hl : z.link = (s.held kind tag fields).link) :
    event (holderTake kind tag fields owner) s = .next { z with link := s.link.replied tag st data } := by
  have ⟨hreset, _, _⟩ := hready
  rw [event_taken hreset, holderTake_effect hready ho hl]

/-- While RESET is high, a command that its owner refuses (R177, R178). -/
theorem event_refused {s : State} {kind tag : Octet} {fields : List Octet} {owner : State → Work} {st : Status}
    (hready : s.ready) (ho : owner (s.held kind tag fields) = .refuse st (s.held kind tag fields)) :
    event (holderTake kind tag fields owner) s = .next (s.refused tag st) := by
  have ⟨hreset, _, _⟩ := hready
  rw [event_taken hreset, holderTake_refuse hready ho]

/-- A command that only reports (R20). -/
theorem event_reported {s : State} {kind tag : Octet} {fields data : List Octet} {owner : State → Work}
    (hready : s.ready) (ho : owner (s.held kind tag fields) = .done .ok data (s.held kind tag fields)) :
    event (holderTake kind tag fields owner) s = .next { s with link := s.link.replied tag .ok data } :=
  event_effect (z := s.held kind tag fields) hready ho rfl

/-- QUERY_ROOM asks no service state and no loaded room (R40, R183). -/
theorem workQueryRoom_passed {a b : Octet} {s : State} {r : RoomIx} (hr : field16 a b = r.val) :
    workQueryRoom [a, b] s = .done .ok (s.roomReport r) s := by
  have hlt : field16 a b < 2048 := by rw [hr]; exact r.isLt
  have hroom : (⟨field16 a b, hlt⟩ : RoomIx) = r := Fin.ext hr
  simp [workQueryRoom, checkedRoom, hlt, hroom]

/-- Settles O19: the holder lies outside every field that is reported. -/
theorem queriesReport : Obligations.QueriesReport := by
  intro tag a b s r hready hroom x status room store
  exact ⟨event_reported hready rfl, event_reported hready (workQueryRoom_passed hroom), event_reported hready rfl⟩

end Sys2Proof.Machine
end

section
/-! SUPPORT. LOAD_TRUNK (R4): what its owner answers for a slot, for none and for a number that is neither. -/

namespace Sys2Proof.Machine

/-- A slot is mapped elsewhere when another trunk has it (R4). -/
theorem State.mappedElsewhere_iff (s : State) (k : Fin 126) (t : TrunkIx) :
    s.mappedElsewhere k t = true ↔ ∃ v : TrunkIx, v ≠ t ∧ (s.trunk v).slot = some k := by
  simp only [State.mappedElsewhere, List.any_eq_true, decide_eq_true_eq]
  constructor
  · rintro ⟨⟨x, i⟩, hmem, hne, hslot⟩
    obtain ⟨hi, hx⟩ := List.mem_zipIdx' hmem
    have hlt : i < 256 := by simpa using hi
    exact ⟨⟨i, hlt⟩, fun e => hne (congrArg Fin.val e), by rw [← hslot]; simp [State.trunk, hx]⟩
  · rintro ⟨v, hne, hslot⟩
    have hlen : v.val < s.trunks.toList.length := by simp
    refine ⟨(s.trunks.toList[v.val], v.val), ?_, fun e => hne (Fin.ext e), by simp [← hslot, State.trunk]⟩
    exact List.mem_iff_getElem.mpr ⟨v.val, by simp, by simp⟩

/-- LOAD_TRUNK of a slot outside MOUNTING (R4). -/
theorem workLoadTrunk_slot {t k : Octet} {s : State} {slot : Fin 126} (hm : s.service ≠ .mounting) (hk : k.toNat = slot.val) :
    workLoadTrunk [t, k] s =
      if s.highway.bindings[slot] ≠ none ∨ (∃ v : TrunkIx, v ≠ Fin.ofNat 256 t.toNat ∧ (s.trunk v).slot = some slot) then
        .refuse .badArgument s
      else mapTrunk (Fin.ofNat 256 t.toNat) (some slot) s := by
  have hlt : k.toNat < 126 := by rw [hk]; exact slot.isLt
  have hslot : (⟨k.toNat, hlt⟩ : Fin 126) = slot := Fin.ext hk
  have hbound : (s.boundTo k).isSome = true ↔ s.highway.bindings[slot] ≠ none := by
    rw [State.boundTo_of_lt s hlt, Option.isSome_iff_ne_none]
    simp only [hslot]
  simp only [workLoadTrunk, if_neg hm, dif_pos hlt, hslot, hbound, State.mappedElsewhere_iff]
  by_cases hb : s.highway.bindings[slot] ≠ none
  · rw [if_pos hb, if_pos (.inl hb)]
  · rw [if_neg hb]
    simp only [hb, false_or]

/-- LOAD_TRUNK of a number above 125 outside MOUNTING (R4). -/
theorem workLoadTrunk_above {t k : Octet} {s : State} (hm : s.service ≠ .mounting) (hk : 126 ≤ k.toNat) :
    workLoadTrunk [t, k] s =
      if k.toNat = 255 then mapTrunk (Fin.ofNat 256 t.toNat) none s else .refuse .badArgument s := by
  have hnone : k = 0xFF ↔ k.toNat = 255 := BitVec.toNat_inj.symm
  simp only [workLoadTrunk, if_neg hm, dif_neg (Nat.not_lt.mpr hk), hnone]

/-- A trunk with no meter takes a mapping, another is busy (R4). -/
theorem mapTrunk_eq (t : TrunkIx) (slot : Option (Fin 126)) (s : State) :
    mapTrunk t slot s =
      if (s.trunk t).meter ≠ none then .refuse .busy s
      else .done .ok [] { s with trunks := s.trunks.set t { s.trunk t with slot := slot } } := by
  simp only [mapTrunk, Option.isSome_iff_ne_none]
  rfl

/-- Settles O23. -/
theorem trunkLoad : Obligations.TrunkLoad := by
  intro tag t k s hready hmount u
  have hslotWork (slot : Fin 126) (hk : k.toNat = slot.val) :=
    workLoadTrunk_slot (s := s.held 0x5D tag [t, k]) (t := t) hmount hk
  have haboveWork (hk : 126 ≤ k.toNat) := workLoadTrunk_above (s := s.held 0x5D tag [t, k]) (t := t) hmount hk
  have hmapTrunk (slot : Option (Fin 126)) := mapTrunk_eq u slot (s.held 0x5D tag [t, k])
  refine ⟨fun slot hk => ⟨fun hground => ?taken, fun hunbound hunmapped => ?free⟩,
    fun hlow hhigh => ?between, fun hk hmeter => ?busy, fun hk hmeter => ?unmapped⟩
  case taken => exact event_refused hready ((hslotWork slot hk).trans (if_pos hground))
  case free =>
    have hground : ¬ (s.highway.bindings[slot] ≠ none ∨ ∃ v : TrunkIx, v ≠ u ∧ (s.trunk v).slot = some slot) := by
      rintro (hbound | ⟨v, hv, hslot⟩)
      · exact hbound hunbound
      · exact hunmapped v hv hslot
    have hwork := (hslotWork slot hk).trans ((if_neg hground).trans (hmapTrunk slot))
    exact ⟨fun hmeter => event_refused hready (hwork.trans (if_pos hmeter)),
      fun hmeter => event_effect hready (hwork.trans (if_neg (not_not_intro hmeter))) rfl⟩
  case between => exact event_refused hready ((haboveWork hlow).trans (if_neg (by omega)))
  case busy =>
    have hwork := (haboveWork (by omega)).trans ((if_pos hk).trans (hmapTrunk none))
    exact event_refused hready (hwork.trans (if_pos hmeter))
  case unmapped =>
    have hwork := (haboveWork (by omega)).trans ((if_pos hk).trans (hmapTrunk none))
    exact event_effect hready (hwork.trans (if_neg (not_not_intro hmeter))) rfl

end Sys2Proof.Machine
end


section
-- The proofs are elaborated one after another: the waiting threads would take the memory that the check allows.
set_option Elab.async false
/-! SUPPORT. The tariff loads (R150, R152, R153): the tests of each load as propositions, and what it writes. -/

namespace Sys2Proof.Machine

/-! ## PREFIX (R150) -/

theorem Tariff.holdsElsewhere_iff (t : Tariff) (digits : List Nat) (i : Nat) :
    t.holdsElsewhere digits i = true ↔
      ∃ (j : Fin 512) (e : DigitEntry), j.val ≠ i ∧ t.entries[j] = some e ∧ e.digits = digits := by
  simp only [Tariff.holdsElsewhere, List.any_eq_true, Bool.and_eq_true, decide_eq_true_eq, Option.any_eq_true, beq_iff_eq]
  constructor
  · rintro ⟨⟨x, i'⟩, hmem, hne, e, he, hdigits⟩
    obtain ⟨hi, hx⟩ := List.mem_zipIdx' hmem
    have hlt : i' < 512 := by simpa using hi
    exact ⟨⟨i', hlt⟩, e, hne, by simpa [hx] using he, hdigits⟩
  · rintro ⟨j, e, hne, he, hdigits⟩
    refine ⟨(some e, j.val), ?_, hne, e, rfl, hdigits⟩
    exact List.mem_iff_getElem.mpr ⟨j.val, by simp, by simp [← he]⟩

/-- A PREFIX load outside MOUNTING, its grounds of refusal in one. -/
theorem workLoadPrefix_eq {i1 i0 n d0 d1 d2 d3 d4 d5 d6 d7 act band b1 b0 : Octet} {s : State} (hm : s.service ≠ .mounting) :
    let index := field16 i1 i0
    let digits := (nibblesOf [d0, d1, d2, d3, d4, d5, d6, d7]).take n.toNat
    workLoadPrefix [i1, i0, n, d0, d1, d2, d3, d4, d5, d6, d7, act, band, b1, b0] s =
      if 512 < index ∨ (index < 512 ∧ (16 < n.toNat ∨ digits.any (9 < ·) = true)) ∨
          (1 < act.toNat ∨ (act = 1 ∧ 31 < band.toNat)) ∨
          (index < 512 ∧ n.toNat ≠ 0 ∧ s.tariff.holdsElsewhere digits index = true) then
        .refuse .badArgument s
      else
        .done .ok []
          { s with tariff := writePrefix index n.toNat digits (actionOf act band) (b1 ++ b0) s.tariff } := by
  simp only [workLoadPrefix, if_neg hm, ite_or]

/-- The action code of a PREFIX load. -/
theorem actionOf_eq (act band : Octet) :
    actionOf act band = if act.toNat = 0 then .free else .meter (Fin.ofNat 32 band.toNat) := by
  have : act = 0 ↔ act.toNat = 0 := BitVec.toNat_inj.symm
  simp only [actionOf, this]

theorem writePrefix_entry {index count : Nat} (h : index < 512) (digits : List Nat) (action : Action) (bar : BitVec 16)
    (t : Tariff) :
    writePrefix index count digits action bar t =
      { t with entries := t.entries.set (Fin.ofNat 512 index)
                 (if count = 0 then none else some { digits := digits, action := action, bar := bar }) } :=
  if_neg (by omega)

/-- LOAD_TABLE PREFIX outside MOUNTING (R150). -/
theorem exec_loadPrefix {tag i1 i0 n d0 d1 d2 d3 d4 d5 d6 d7 act band b1 b0 : Octet} {s : State} (hready : s.ready)
    (hm : s.service ≠ .mounting) {index : Nat} {digits : List Nat} (hindex : field16 i1 i0 = index)
    (hdigits : (nibblesOf [d0, d1, d2, d3, d4, d5, d6, d7]).take n.toNat = digits) :
    exec (.loadTablePrefix tag [i1, i0, n, d0, d1, d2, d3, d4, d5, d6, d7, act, band, b1, b0]) s =
      .next (if 512 < index ∨ (index < 512 ∧ (16 < n.toNat ∨ digits.any (9 < ·) = true)) ∨
          (1 < act.toNat ∨ (act = 1 ∧ 31 < band.toNat)) ∨
          (index < 512 ∧ n.toNat ≠ 0 ∧ s.tariff.holdsElsewhere digits index = true) then s.refused tag .badArgument
        else { s with tariff := writePrefix index n.toNat digits (actionOf act band) (b1 ++ b0) s.tariff
                      link := s.link.replied tag .ok [] }) := by
  subst hindex hdigits
  have hwork := workLoadPrefix_eq (n := n) (d0 := d0) (d1 := d1) (d2 := d2) (d3 := d3) (d4 := d4) (d5 := d5) (d6 := d6)
    (d7 := d7) (act := act) (band := band) (b1 := b1) (b0 := b0) (i1 := i1) (i0 := i0)
    (s := s.held 0x45 tag (2 :: [i1, i0, n, d0, d1, d2, d3, d4, d5, d6, d7, act, band, b1, b0])) hm
  exact (event_refuse_or_effect hready hwork rfl :)

/-! ## BAND (R152) -/

/-- A BAND load outside MOUNTING is judged by its ranges (R152). -/
theorem workLoadBand_eq {b p p1 p0 c1 c0 u1 u0 cu1 cu0 m1 m0 : Octet} {s : State} (hm : s.service ≠ .mounting) :
    let new : BandPeriod :=
      { p0 := field16 p1 p0, c0 := field16 c1 c0, u := field16 u1 u0, cu := field16 cu1 cu0, cmin := field16 m1 m0 }
    let band : Fin 32 := Fin.ofNat 32 b.toNat
    workLoadBand [b, p, p1, p0, c1, c0, u1, u0, cu1, cu0, m1, m0] s =
      if ¬ (b.toNat ≤ 31 ∧ p.toNat ≤ 3 ∧ new.p0 ≤ 3600 ∧ 1 ≤ new.u ∧ new.u ≤ 3600) then .refuse .badArgument s
      else
        .done .ok [] { s with tariff := { s.tariff with
                         bands := s.tariff.bands.set band ((s.tariff.bands[band]).set (Fin.ofNat 4 p.toNat) new) } } := by
  simp only [workLoadBand, if_neg hm, ite_not]

/-- LOAD_TABLE BAND outside MOUNTING (R152). -/
theorem exec_loadBand {tag b p p1 p0 c1 c0 u1 u0 cu1 cu0 m1 m0 : Octet} {s : State} (hready : s.ready)
    (hm : s.service ≠ .mounting) :
    let new : BandPeriod :=
      { p0 := field16 p1 p0, c0 := field16 c1 c0, u := field16 u1 u0, cu := field16 cu1 cu0, cmin := field16 m1 m0 }
    let band : Fin 32 := Fin.ofNat 32 b.toNat
    exec (.loadTableBand tag [b, p, p1, p0, c1, c0, u1, u0, cu1, cu0, m1, m0]) s =
      .next (if ¬ (b.toNat ≤ 31 ∧ p.toNat ≤ 3 ∧ new.p0 ≤ 3600 ∧ 1 ≤ new.u ∧ new.u ≤ 3600) then s.refused tag .badArgument
        else { s with tariff := { s.tariff with
                        bands := s.tariff.bands.set band ((s.tariff.bands[band]).set (Fin.ofNat 4 p.toNat) new) }
                      link := s.link.replied tag .ok [] }) := by
  have hwork := workLoadBand_eq (b := b) (p := p) (p1 := p1) (p0 := p0) (c1 := c1) (c0 := c0) (u1 := u1) (u0 := u0)
    (cu1 := cu1) (cu0 := cu0) (m1 := m1) (m0 := m0)
    (s := s.held 0x45 tag (3 :: [b, p, p1, p0, c1, c0, u1, u0, cu1, cu0, m1, m0])) hm
  exact (event_refuse_or_effect hready hwork rfl :)

/-- One band-period of the band table replaced (R152). -/
theorem bandPeriod_set {s : State} {b : Fin 32} {p : Fin 4} {x : BandPeriod} (b' : Fin 32) (p' : Fin 4) :
    State.bandPeriod { s with tariff := { s.tariff with bands := s.tariff.bands.set b ((s.tariff.bands[b]).set p x) } } b' p' =
      if b' = b ∧ p' = p then x else s.bandPeriod b' p' := by
  simp only [State.bandPeriod, Fin.getElem_fin, Vector.getElem_set, Fin.ext_iff]
  by_cases hb : b.val = b'.val
  · by_cases hp : p.val = p'.val
    · simp [hb, hp]
    · simp [hb, hp, Ne.symm hp]
  · simp [hb, Ne.symm hb]

/-! ## SCHEDULE (R153) -/

theorem scheduleEntries_length (l : List Octet) : (scheduleEntries l).length = l.length / 4 := by
  induction l using scheduleEntries.induct with
  | case1 a b c p l ih => simp only [scheduleEntries, List.length_cons, ih]; omega
  | case2 l hshort =>
    rcases l with _ | ⟨a, _ | ⟨b, _ | ⟨c, _ | ⟨p, l⟩⟩⟩⟩
    case cons.cons.cons.cons => exact (hshort a b c p l rfl).elim
    all_goals simp [scheduleEntries]

theorem ascending_iff (l : List (Nat × Nat)) : ascending l = true ↔ (l.map (·.1)).Pairwise (· < ·) := by
  rw [List.pairwise_map, ← List.isChain_iff_pairwise]
  induction l using ascending.induct with
  | case1 a b l ih => simp only [ascending, Bool.and_eq_true, decide_eq_true_eq, ih, List.isChain_cons_cons]
  | case2 l hshort =>
    rcases l with _ | ⟨a, _ | ⟨b, l⟩⟩
    · simp [ascending]
    · simp [ascending]
    · exact (hshort _ _ _ rfl).elim

theorem within_iff (lo hi n : Nat) : within lo hi n = true ↔ lo ≤ n ∧ n ≤ hi := decide_eq_true_iff

theorem scheduleRanged_iff (l : List (Nat × Nat)) (mask weekend : Octet) :
    scheduleRanged l mask weekend = true ↔
      1 ≤ l.length ∧ l.length ≤ 8 ∧ (l.map (·.1)).head? = some 0 ∧ (l.map (·.1)).Pairwise (· < ·) ∧
        (∀ e ∈ l, e.1 < 86400 ∧ e.2 ≤ 3) ∧ weekend.toNat ≤ 3 ∧ mask.toNat < 128 := by
  have heach (e : Nat × Nat) : decide (e.1 < Config.secondsPerDay ∧ e.2 ≤ 3) = true ↔ e.1 < 86400 ∧ e.2 ≤ 3 := decide_eq_true_iff
  simp only [scheduleRanged, Bool.and_eq_true, within_iff, ascending_iff, beq_iff_eq, List.all_eq_true, heach,
    decide_eq_true_eq, List.head?_map, and_assoc]

/-- A SCHEDULE load whose length is that of its count is judged by its ranges outside MOUNTING (R153). -/
theorem workLoadSchedule_eq {n mask w : Octet} {l : List Octet} {s : State} (hm : s.service ≠ .mounting)
    (hl : l.length = 4 * n.toNat) :
    workLoadSchedule (n :: (l ++ [mask, w])) s =
      if ¬ scheduleRanged (scheduleEntries l) mask w = true then .refuse .badArgument s
      else .done .ok [] { s with tariff := { s.tariff with schedule := scheduleOf (scheduleEntries l) mask w } } := by
  have hlength : ¬ (l ++ [mask, w]).length ≠ 4 * n.toNat + 2 := by simp [hl]
  have htake : (l ++ [mask, w]).take (4 * n.toNat) = l := by rw [← hl, List.take_left']; rfl
  have hmask : (l ++ [mask, w]).getD (4 * n.toNat) 0 = mask := by simp [← hl]
  have hweekend : (l ++ [mask, w]).getD (4 * n.toNat + 1) 0 = w := by simp [← hl]
  rw [workLoadSchedule, if_neg hlength, if_neg hm, htake, hmask, hweekend, ite_not]

/-- LOAD_TABLE SCHEDULE outside MOUNTING, with the entries its count gives (R153). -/
theorem exec_loadSchedule {tag n mask w : Octet} {l : List Octet} {s : State} (hready : s.ready) (hm : s.service ≠ .mounting)
    (hl : l.length = 4 * n.toNat) :
    exec (.loadTableSchedule tag (n :: l ++ [mask, w])) s =
      .next (if ¬ scheduleRanged (scheduleEntries l) mask w = true then s.refused tag .badArgument
        else { s with tariff := { s.tariff with schedule := scheduleOf (scheduleEntries l) mask w }
                      link := s.link.replied tag .ok [] }) := by
  have hwork := workLoadSchedule_eq (mask := mask) (w := w) (s := s.held 0x45 tag (4 :: (n :: l ++ [mask, w]))) hm hl
  exact (event_refuse_or_effect hready hwork rfl :)

/-- The order of a PREFIX load's tests does not matter: each is answered BAD_ARGUMENT. -/
theorem prefixGrounds_iff (pastTable inTable long badDigit badAction counted held : Prop) :
    (pastTable ∨ (inTable ∧ (long ∨ badDigit)) ∨ badAction ∨ (inTable ∧ counted ∧ held)) ↔
      (pastTable ∨ badAction ∨ (inTable ∧ (long ∨ badDigit ∨ (counted ∧ held)))) := by
  tauto

/-- Settles O21: each load is refused on the grounds that its tests name, and writes its table otherwise. -/
theorem tariffLoads : Obligations.TariffLoads := by
  refine ⟨?entry, ?band, ?schedule⟩
  case entry =>
    intro tag i1 i0 n d0 d1 d2 d3 d4 d5 d6 d7 act band b1 b0 s hready hm index digits action load actionOk
    have hexec : exec load s = _ := exec_loadPrefix hready hm (index := index) (digits := digits) rfl rfl
    have hbadAction : (1 < act.toNat ∨ (act = 1 ∧ 31 < band.toNat)) ↔ ¬actionOk := by
      rw [octet_eq_one_iff]
      change _ ↔ ¬ (act.toNat = 0 ∨ (act.toNat = 1 ∧ band.toNat ≤ 31))
      omega
    have hbadDigit : digits.any (9 < ·) = true ↔ ∃ d ∈ digits, 9 < d := by simp
    have hgrounds := (prefixGrounds_iff (512 < index) (index < 512) (16 < n.toNat) (digits.any (9 < ·) = true)
      (1 < act.toNat ∨ (act = 1 ∧ 31 < band.toNat)) (n.toNat ≠ 0) (s.tariff.holdsElsewhere digits index = true)).trans
      (or_congr_right (or_congr hbadAction (and_congr_right' (or_congr_right
        (or_congr hbadDigit (and_congr_right' (s.tariff.holdsElsewhere_iff digits index)))))))
    rw [actionOf_eq] at hexec
    refine ⟨fun hground => ?refused, fun hindex hok => ?default, fun hindex hok hn => ?emptied,
      fun hindex hok hn hmax hdigits hother => ?written⟩
    case refused => rw [hexec, if_pos (hgrounds.mpr hground)]
    case default =>
      have hnone := mt hgrounds.mp fun
        | .inl hpast => absurd hpast (by omega)
        | .inr (.inl hbad) => hbad hok
        | .inr (.inr ⟨hin, _⟩) => absurd hin (by omega)
      rw [hexec, if_neg hnone, hindex]
      rfl
    case emptied =>
      have hnone := mt hgrounds.mp fun
        | .inl hpast => absurd hpast (by omega)
        | .inr (.inl hbad) => hbad hok
        | .inr (.inr ⟨_, .inl hlong⟩) => absurd hlong (by omega)
        | .inr (.inr ⟨_, .inr (.inl ⟨d, hd, _⟩)⟩) => by simp [digits, hn] at hd
        | .inr (.inr ⟨_, .inr (.inr ⟨hcounted, _⟩)⟩) => hcounted hn
      rw [hexec, if_neg hnone, writePrefix_entry hindex, if_pos hn]
    case written =>
      have hnone := mt hgrounds.mp fun
        | .inl hpast => absurd hpast (by omega)
        | .inr (.inl hbad) => hbad hok
        | .inr (.inr ⟨_, .inl hlong⟩) => absurd hlong (by omega)
        | .inr (.inr ⟨_, .inr (.inl ⟨d, hd, hlarge⟩)⟩) => absurd (hdigits d hd) (Nat.not_le.mpr hlarge)
        | .inr (.inr ⟨_, .inr (.inr ⟨_, j, e, hne, he, hsame⟩)⟩) => hother j e hne he hsame
      rw [hexec, if_neg hnone, writePrefix_entry hindex, if_neg hn]
  case band =>
    intro tag b p p1 p0 c1 c0 u1 u0 cu1 cu0 m1 m0 s hready hm load passes
    refine ⟨fun hground => (exec_loadBand hready hm).trans (congrArg _ (if_pos hground)), fun hpass => ?_⟩
    refine ⟨_, (exec_loadBand hready hm).trans (congrArg _ (if_neg (not_not_intro hpass))), rfl, fun band period => ?_⟩
    have hband : band = Fin.ofNat 32 b.toNat ↔ band.val = b.toNat := by
      rw [Fin.ext_iff, Fin.val_ofNat, Nat.mod_eq_of_lt (by omega)]
    have hperiod : period = Fin.ofNat 4 p.toNat ↔ period.val = p.toNat := by
      rw [Fin.ext_iff, Fin.val_ofNat, Nat.mod_eq_of_lt (by omega)]
    simp only [← hband, ← hperiod]
    exact bandPeriod_set band period
  case schedule =>
    intro tag n mask w l s hready hm hl entries passes
    have hexec := exec_loadSchedule (tag := tag) (mask := mask) (w := w) hready hm hl
    have hcount : entries.length = n.toNat := by
      rw [scheduleEntries_length, hl]
      omega
    have hranged : scheduleRanged entries mask w = true ↔ passes := by
      rw [scheduleRanged_iff, hcount]
    exact ⟨fun hground => hexec.trans (congrArg _ (if_pos (mt hranged.mp hground))),
      fun hpass => hexec.trans (congrArg _ (if_neg (not_not_intro (hranged.mpr hpass))))⟩

end Sys2Proof.Machine
end


section
-- The proofs are elaborated one after another: the waiting threads would take the memory that the check allows.
set_option Elab.async false
/-! SUPPORT. LOAD_TABLE PARAMETERS (R74, R115, R133): its ranges, and the store-low test that follows it. -/

namespace Sys2Proof.Machine

theorem powerOfTwo_iff (o : Octet) :
    [1, 2, 4, 8].contains o.toNat = true ↔ o.toNat = 1 ∨ o.toNat = 2 ∨ o.toNat = 4 ∨ o.toNat = 8 := by
  simp

/-- `s` with the six parameters loaded. -/
def State.parameters (s : State) (threshold lowWater reserve lampPeriod holdOff senseInterval : Nat) : State :=
  { s with coder := { s.coder with threshold := threshold }
           store := { s.store with lowWater := lowWater, reserve := reserve }
           lamps := { s.lamps with lampPeriod := lampPeriod, holdOff := holdOff, senseInterval := senseInterval } }

/-- A PARAMETERS load outside MOUNTING is judged by its ranges, and the store-low test follows it (R74, R115). -/
theorem workLoadParameters_eq {t1 t0 w2 w1 w0 rs lp ho si : Octet} {s : State} (hm : s.service ≠ .mounting) :
    workLoadParameters [t1, t0, w2, w1, w0, rs, lp, ho, si] s =
      if field16 t1 t0 ≤ 8191 ∧ field24 w2 w1 w0 ≤ 65536 ∧ 1 ≤ rs.toNat ∧ rs.toNat ≤ 64 ∧ 1 ≤ lp.toNat ∧ lp.toNat ≤ 10 ∧
          ho.toNat ≤ 3 ∧ (si.toNat = 1 ∨ si.toNat = 2 ∨ si.toNat = 4 ∨ si.toNat = 8) then
        .done .ok [] (storeLowTest
          (s.parameters (field16 t1 t0) (field24 w2 w1 w0) rs.toNat lp.toNat ho.toNat si.toNat))
      else .refuse .badArgument s := by
  simp only [workLoadParameters, if_neg hm, Bool.and_eq_true, within_iff, powerOfTwo_iff, and_assoc, Nat.zero_le, true_and]
  rfl

/-- While RESET is high, a command whose owner may write the link too: the holder stands apart from what it leaves (R177,
R179). -/
theorem event_answered {s z : State} {kind tag : Octet} {fields : List Octet} {owner : State → Work} {st : Status}
    {data : List Octet} (hreset : s.resetLow = false) (hholder : s.link.holder = none)
    (ho : owner (s.held kind tag fields) = .done st data (z.withHolder (some ⟨kind, tag, fields, .working⟩)))
    (hz : z.link.holder = none) (hq : z.link.queue.length < 64) :
    event (holderTake kind tag fields owner) s = .next { z with link := z.link.replied tag st data } := by
  rw [event_taken hreset, holderTake_done hholder ho rfl hq]
  simp [State.answered, State.withHolder, Link.replied, ← hz]

/-- The store-low test joins STORE_LOW when the store is low, with an ATTENTION frame into an empty set (R115, R184). -/
theorem State.lowTested_eq (s : State) :
    s.lowTested =
      { s with attention := if s.store.low then s.attention ||| attentionBit .storeLow else s.attention
               link := if s.store.low ∧ s.attention = 0 then { s.link with queue := s.link.queue ++ [.attention] }
                 else s.link } := by
  rw [State.lowTested]
  by_cases h : s.store.low
  · rw [if_pos h, if_pos h, if_congr (and_iff_right h) rfl rfl]
    rfl
  · rw [if_neg h, if_neg h, if_neg (fun hboth => h hboth.1)]

/-- What a PARAMETERS load that passes leaves. -/
theorem event_parameters {s : State} {kind tag : Octet} {fields : List Octet} {owner : State → Work} {a b c d e f : Nat}
    (hready : s.ready) (hq : s.link.queue.length < 63)
    (ho : owner (s.held kind tag fields) = .done .ok [] (storeLowTest ((s.held kind tag fields).parameters a b c d e f))) :
    event (holderTake kind tag fields owner) s =
      .next { (s.parameters a b c d e f).lowTested with
              link := (s.parameters a b c d e f).lowTested.link.replied tag .ok [] } := by
  obtain ⟨hreset, hholder, hqueue⟩ := hready
  have hheld : (s.held kind tag fields).parameters a b c d e f =
      (s.parameters a b c d e f).withHolder (some ⟨kind, tag, fields, .working⟩) := rfl
  rw [storeLowTest_eq (by exact hqueue), hheld, State.lowTested_withHolder] at ho
  exact event_answered hreset hholder ho ((State.lowTested_holder _).trans hholder)
    ((State.lowTested_length _).trans_lt (Nat.succ_lt_succ hq))

/-- Settles O22: outside MOUNTING the ranges decide; the store-low test of the loaded parameters then reads the new mark. -/
theorem parametersLoad : Obligations.ParametersLoad := by
  intro tag t1 t0 w2 w1 w0 rs lp ho si s hready hm hroom load passes low
  have hwork := workLoadParameters_eq (t1 := t1) (t0 := t0) (w2 := w2) (w1 := w1) (w0 := w0) (rs := rs) (lp := lp) (ho := ho)
    (si := si) (s := s.held 0x45 tag (5 :: [t1, t0, w2, w1, w0, rs, lp, ho, si])) hm
  refine ⟨fun hground => event_refused hready (hwork.trans (if_neg hground)), fun hpass => ?loaded⟩
  case loaded =>
    refine ⟨_, event_parameters hready hroom (hwork.trans (if_pos hpass)), ?_⟩
    rw [State.lowTested_eq]
    exact ⟨rfl, rfl, rfl⟩

end Sys2Proof.Machine
end


section
-- The proofs are elaborated one after another: the waiting threads would take the memory that the check allows.
set_option Elab.async false
/-! SUPPORT. Rooms re-evaluated one after another (R37, R130): an operation that reads and writes one room alone, and what a
fold of it makes of the rooms and of the lamp order queue. -/

namespace Sys2Proof.Machine

/-- An operation on one room: it reads of the rooms that room alone, besides the classes and the meters, and it writes that
room and, when the room becomes queued, the tail of the lamp order queue. -/
structure RoomLocal (g : RoomIx → State → State) : Prop where
  frame : ∀ r z, g r z = { z with
    rooms := (g r z).rooms
    lamps := { z.lamps with queue := z.lamps.queue ++
      if ((g r z).room r).lamp.queued && !(z.room r).lamp.queued then [r] else [] } }
  other : ∀ r z r', r' ≠ r → (g r z).room r' = z.room r'
  congr : ∀ r z z', z.room r = z'.room r → z.classes = z'.classes → z.meters = z'.meters →
    (g r z).room r = (g r z').room r

namespace RoomLocal

variable {g : RoomIx → State → State}

theorem keeps_classes (h : RoomLocal g) (r : RoomIx) (z : State) : (g r z).classes = z.classes := by rw [h.frame]
theorem keeps_meters (h : RoomLocal g) (r : RoomIx) (z : State) : (g r z).meters = z.meters := by rw [h.frame]

theorem id : RoomLocal fun _ z => z where
  frame r z := by simp
  other _ _ _ _ := rfl
  congr _ _ _ h _ _ := h

/-- The rooms of a list without repeats taken in order: each is written as it would be alone. -/
theorem fold (h : RoomLocal g) (l : List RoomIx) (hl : l.Nodup) (z : State) :
    (l.foldl (fun z r => g r z) z = { z with
        rooms := (l.foldl (fun z r => g r z) z).rooms
        lamps := { z.lamps with queue := z.lamps.queue ++ l.filter fun r =>
          ((g r z).room r).lamp.queued && !(z.room r).lamp.queued } }) ∧
      ∀ r, (l.foldl (fun z r => g r z) z).room r = if r ∈ l then (g r z).room r else z.room r := by
  induction l generalizing z with
  | nil => simp
  | cons a l ih =>
    obtain ⟨ha, hnodup⟩ := List.nodup_cons.mp hl
    obtain ⟨hstate, hrooms⟩ := ih hnodup (g a z)
    have hne (r : RoomIx) (hr : r ∈ l) : r ≠ a := fun e => ha (e ▸ hr)
    have hkept (r : RoomIx) (hr : r ∈ l) : (g a z).room r = z.room r := h.other a z r (hne r hr)
    have hsame (r : RoomIx) (hr : r ∈ l) : (g r (g a z)).room r = (g r z).room r :=
      h.congr r _ _ (hkept r hr) (h.keeps_classes a z) (h.keeps_meters a z)
    have hfilter : (l.filter fun r => ((g r (g a z)).room r).lamp.queued && !((g a z).room r).lamp.queued) =
        l.filter fun r => ((g r z).room r).lamp.queued && !(z.room r).lamp.queued :=
      List.filter_congr fun r hr => by rw [hsame r hr, hkept r hr]
    rw [List.foldl_cons]
    refine ⟨hstate.trans ?_, fun r => (hrooms r).trans ?_⟩
    · have hjoined : (a :: l).filter (fun r => ((g r z).room r).lamp.queued && !(z.room r).lamp.queued) =
          (if ((g a z).room a).lamp.queued && !(z.room a).lamp.queued then [a] else []) ++
            l.filter fun r => ((g r z).room r).lamp.queued && !(z.room r).lamp.queued := by
        rw [List.filter_cons]
        split <;> rfl
      have hframe := h.frame a z
      rw [hfilter, hjoined]
      generalize (if ((g a z).room a).lamp.queued && !(z.room a).lamp.queued then [a] else []) = joined at hframe ⊢
      generalize (l.foldl (fun z r => g r z) (g a z)).rooms = rooms
      rw [hframe, ← List.append_assoc]
    · by_cases hr : r ∈ l
      · rw [if_pos hr, if_pos (List.mem_cons_of_mem a hr), hsame r hr]
      · by_cases e : r = a
        · rw [if_neg hr, if_pos (e ▸ List.mem_cons_self), e]
        · rw [if_neg hr, if_neg (by simp [hr, e]), h.other a z r e]

/-- A write of the room that leaves its queued field goes before an operation on that room. -/
theorem comp (h : RoomLocal g) {f : RoomIx → State → State} {u : RoomIx → State → Room}
    (hf : ∀ r z, f r z = z.setRoom r (u r z)) (hqueued : ∀ r z, (u r z).lamp.queued = (z.room r).lamp.queued)
    (hu : ∀ r z z', z.room r = z'.room r → z.classes = z'.classes → z.meters = z'.meters → u r z = u r z') :
    RoomLocal fun r z => g r (f r z) where
  frame r z := by
    have hframe := h.frame r (z.setRoom r (u r z))
    rw [State.room_setRoom_same, hqueued] at hframe
    rw [hf]
    exact hframe
  other r z r' hne := by rw [h.other r _ r' hne, hf, State.room_setRoom, if_neg (Ne.symm hne)]
  congr r z z' hroom hclasses hmeters := by
    rw [hf, hf]
    refine h.congr r _ _ ?_ hclasses hmeters
    rw [State.room_setRoom_same, State.room_setRoom_same, hu r z z' hroom hclasses hmeters]

end RoomLocal

theorem evaluateLamp_local : RoomLocal evaluateLamp where
  frame r z := by
    rw [evaluateLamp_room, if_pos rfl]
    simp only [evaluateLamp]
    split <;> simp
  other r z r' hne := by rw [evaluateLamp_room, if_neg hne]
  congr r z z' hroom hclasses _ := by
    simp only [evaluateLamp_room, if_true, State.classOf, hroom, hclasses]

theorem evaluateRoom_local : RoomLocal evaluateRoom :=
  evaluateLamp_local.comp (f := evaluateBarring) (fun _ _ => rfl) (fun _ _ => rfl) fun r z z' hroom hclasses hmeters => by
    simp only [State.exposure, State.provisionals, State.classOf, hroom, hclasses, hmeters]

/-- The evaluations that a changed class asks for (R37). -/
def classEvaluated (old new : ClassRecord) (r : RoomIx) (z : State) : State :=
  if barringChanged old new = true then evaluateRoom r z
  else if (old.shutdownHold != new.shutdownHold) = true then evaluateLamp r z else z

theorem classEvaluated_local (old new : ClassRecord) : RoomLocal (classEvaluated old new) := by
  by_cases hbarring : barringChanged old new = true
  · exact (funext₂ fun r z => if_pos hbarring : classEvaluated old new = evaluateRoom) ▸ evaluateRoom_local
  by_cases hhold : (old.shutdownHold != new.shutdownHold) = true
  · exact (funext₂ fun r z => (if_neg hbarring).trans (if_pos hhold) : classEvaluated old new = evaluateLamp) ▸
      evaluateLamp_local
  · exact (funext₂ fun r z => (if_neg hbarring).trans (if_neg hhold) : classEvaluated old new = fun _ z => z) ▸
      RoomLocal.id

theorem classChanged_eq (old new : ClassRecord) (r : RoomIx) (z : State) :
    classChanged old new r z =
      classEvaluated old new r
        (if old.faultThreshold ≠ new.faultThreshold then z.updLamp r fun l => { l with failures := 0 } else z) := rfl

/-- What a changed class does to a room is done to that room alone (R37). -/
theorem classChanged_local (old new : ClassRecord) : RoomLocal (classChanged old new) := by
  have heval := classEvaluated_local old new
  by_cases hfault : old.faultThreshold ≠ new.faultThreshold
  · have hcomp := heval.comp (f := fun r z => z.updLamp r fun l => { l with failures := 0 })
      (u := fun r z => { z.room r with lamp := { (z.room r).lamp with failures := 0 } }) (fun _ _ => rfl) (fun _ _ => rfl)
      fun r z z' hroom _ _ => by rw [hroom]
    exact (funext₂ fun r z => congrArg (classEvaluated old new r) (if_pos hfault) : classChanged old new = _) ▸ hcomp
  · exact (funext₂ fun r z => congrArg (classEvaluated old new r) (if_neg hfault) :
      classChanged old new = classEvaluated old new) ▸ heval

/-- The link lies outside what a changed class reads and writes. -/
theorem classChanged_link (old new : ClassRecord) (r : RoomIx) (z : State) (l : Link) :
    classChanged old new r { z with link := l } = { classChanged old new r z with link := l } := by
  have hcleared : (if old.faultThreshold ≠ new.faultThreshold then
        State.updLamp { z with link := l } r fun l => { l with failures := 0 } else { z with link := l }) =
      { (if old.faultThreshold ≠ new.faultThreshold then z.updLamp r fun l => { l with failures := 0 } else z) with
        link := l } := by
    split <;> rfl
  rw [classChanged_eq, classChanged_eq, hcleared]
  generalize (if old.faultThreshold ≠ new.faultThreshold then z.updLamp r fun l => { l with failures := 0 } else z) = y
  simp only [classEvaluated]
  repeat' split
  all_goals rfl

end Sys2Proof.Machine
end

section
/-! SUPPORT. LOAD_TABLE CLASS (R35, R37): its ranges, and the rooms of the class re-evaluated in index order. -/

namespace Sys2Proof.Machine

/-- A class load with the rooms of the class in index order. -/
theorem loadClass_eq (k : ClassIx) (new : ClassRecord) (s : State) :
    loadClass k new s =
      ((List.finRange 2048).filter fun r => (s.room r).cls == k).foldl (fun z r => classChanged s.classes[k] new r z)
        { s with classes := s.classes.set k new } :=
  congrArg (List.foldl (fun z r => classChanged s.classes[k] new r z) { s with classes := s.classes.set k new })
    (s.roomsWhere_eq fun x => x.cls == k)

theorem classChanges_link (old new : ClassRecord) (rs : List RoomIx) (z : State) (l : Link) :
    rs.foldl (fun z r => classChanged old new r z) { z with link := l } =
      { rs.foldl (fun z r => classChanged old new r z) z with link := l } :=
  List.foldl_hom (fun z : State => { z with link := l }) fun z r => classChanged_link old new r z l

theorem loadClass_link (k : ClassIx) (new : ClassRecord) (s : State) (l : Link) :
    loadClass k new { s with link := l } = { loadClass k new s with link := l } := by
  rw [loadClass_eq k new s]
  exact (loadClass_eq k new _).trans (classChanges_link s.classes[k] new _ { s with classes := s.classes.set k new } l)

/-- The rooms of the class are changed each as it would be alone, and those newly queued join in index order (R37, R130). -/
theorem loadClass_spec (k : ClassIx) (new : ClassRecord) (s : State) :
    let loaded : State := { s with classes := s.classes.set k new }
    let t := loadClass k new s
    t = { s with
          classes := s.classes.set k new, rooms := t.rooms
          lamps := { s.lamps with queue := s.lamps.queue ++ (List.finRange 2048).filter fun r =>
            (t.room r).lamp.queued && !(s.room r).lamp.queued } } ∧
      (∀ r, (s.room r).cls ≠ k → t.room r = s.room r) ∧
      ∀ r, (s.room r).cls = k → t.room r = (classChanged s.classes[k] new r loaded).room r := by
  intro loaded t
  have hmem (r : RoomIx) : r ∈ ((List.finRange 2048).filter fun r => (s.room r).cls == k) ↔ (s.room r).cls = k := by simp
  obtain ⟨hstate, hrooms⟩ := (classChanged_local s.classes[k] new).fold
    ((List.finRange 2048).filter fun r => (s.room r).cls == k) ((List.nodup_finRange _).filter _) loaded
  rw [← loadClass_eq] at hstate hrooms
  have hother (r : RoomIx) (hr : (s.room r).cls ≠ k) : t.room r = s.room r := (hrooms r).trans (if_neg (mt (hmem r).mp hr))
  have hclass (r : RoomIx) (hr : (s.room r).cls = k) : t.room r = (classChanged s.classes[k] new r loaded).room r :=
    (hrooms r).trans (if_pos ((hmem r).mpr hr))
  refine ⟨hstate.trans ?_, hother, hclass⟩
  have hjoined : (((List.finRange 2048).filter fun r => (s.room r).cls == k).filter fun r =>
        ((classChanged s.classes[k] new r loaded).room r).lamp.queued && !(loaded.room r).lamp.queued) =
      (List.finRange 2048).filter fun r => (t.room r).lamp.queued && !(s.room r).lamp.queued := by
    rw [List.filter_filter]
    refine List.filter_congr fun r _ => ?_
    by_cases hr : (s.room r).cls = k
    · rw [hclass r hr, beq_iff_eq.mpr hr, Bool.and_true]
      rfl
    · rw [hother r hr, beq_eq_false_iff_ne.mpr hr, Bool.and_false, Bool.and_not_self]
  rw [hjoined]

end Sys2Proof.Machine
end


section
-- The proofs are elaborated one after another: the waiting threads would take the memory that the check allows.
set_option Elab.async false
/-! SUPPORT. LOAD_TABLE CLASS and LOAD_ROOM: the commands. -/

namespace Sys2Proof.Machine

/-! ## LOAD_TABLE CLASS (R35, R37) -/

theorem barringChanged_iff (old new : ClassRecord) :
    barringChanged old new = true ↔ old.markup ≠ new.markup ∨ old.creditManual ≠ new.creditManual := by
  simp only [barringChanged, Bool.or_eq_true, bne_iff_ne]

theorem classEvaluated_eq (old new : ClassRecord) (r : RoomIx) (z : State) :
    classEvaluated old new r z =
      if old.markup ≠ new.markup ∨ old.creditManual ≠ new.creditManual then evaluateRoom r z
      else if old.shutdownHold ≠ new.shutdownHold then evaluateLamp r z else z := by
  simp only [classEvaluated, barringChanged_iff, bne_iff_ne]

theorem flag_eq (o : Octet) : (o == 1) = decide (o.toNat = 1) := by
  rw [beq_eq_decide]
  exact decide_eq_decide.mpr (octet_eq_one_iff o)

/-- A CLASS load outside MOUNTING is judged by its ranges (R35). -/
theorem workLoadClass_eq {k mb l1 l0 nv mt gr m1 m0 ta bl cr sd lr ft : Octet} {s : State} (hm : s.service ≠ .mounting) :
    workLoadClass [k, mb, l1, l0, nv, mt, gr, m1, m0, ta, bl, cr, sd, lr, ft] s =
      if ¬ (k.toNat ≤ 15 ∧ 1 ≤ mb.toNat ∧ mb.toNat ≤ 64 ∧ 10 ≤ field16 l1 l0 ∧ field16 l1 l0 ≤ 600 ∧
          nv.toNat ≤ 30 ∧ 2 ≤ mt.toNat ∧ mt.toNat ≤ 30 ∧ gr.toNat ≤ 60 ∧ field16 m1 m0 ≤ 2000 ∧ ta.toNat ≤ 120 ∧
          bl.toNat ≤ 1 ∧ cr.toNat ≤ 1 ∧ sd.toNat ≤ 1 ∧ lr.toNat ≤ 1 ∧
          (ft.toNat = 1 ∨ ft.toNat = 2 ∨ ft.toNat = 4 ∨ ft.toNat = 8)) then .refuse .badArgument s
      else
        .done .ok [] (loadClass (Fin.ofNat 16 k.toNat)
          { mailboxLimit := mb.toNat, maxLength := field16 l1 l0, noVoice := nv.toNat, menuTimeout := mt.toNat,
            grace := gr.toNat, markup := field16 m1 m0, timedAnswer := ta.toNat, billing := decide (bl.toNat = 1),
            creditManual := decide (cr.toNat = 1), shutdownHold := decide (sd.toNat = 1),
            lampManual := decide (lr.toNat = 1), faultThreshold := ft.toNat } s) := by
  simp only [workLoadClass, if_neg hm, flag_eq, ClassRecord.ranged, Bool.and_eq_true, decide_eq_true_eq, within_iff,
    powerOfTwo_iff, Nat.zero_le, true_and, ite_not]
  exact if_congr (by omega) rfl rfl

/-- Settles O20. -/
theorem classLoad : Obligations.ClassLoad := by
  intro tag k mb l1 l0 nv mt gr m1 m0 ta bl cr sd lr ft s hready hm fields passes cls old new loaded
  have hwork := workLoadClass_eq (k := k) (mb := mb) (l1 := l1) (l0 := l0) (nv := nv) (mt := mt) (gr := gr) (m1 := m1) (m0 := m0)
    (ta := ta) (bl := bl) (cr := cr) (sd := sd) (lr := lr) (ft := ft) (s := s.held 0x45 tag (1 :: fields)) hm
  refine ⟨fun hground => event_refused hready (hwork.trans (if_pos hground)), fun hpass => ?loaded⟩
  case loaded =>
    have hdone := hwork.trans (if_neg (not_not_intro hpass))
    rw [State.held, loadClass_link] at hdone
    have hexec := event_effect hready hdone rfl
    obtain ⟨hstate, hother, hclass⟩ := loadClass_spec cls new s
    -- The loaded state is given a name of its own: the kernel is not to evaluate 2,048 rooms to compare its fields.
    obtain ⟨t, ht⟩ : ∃ t, loadClass cls new s = t := ⟨_, rfl⟩
    have ht' : loadClass (Fin.ofNat 16 k.toNat) new s = t := ht
    rw [ht] at hstate hother hclass
    rw [ht'] at hexec
    refine ⟨_, hexec, congrArg (fun z : State => { z with link := s.link.replied tag .ok [] }) hstate, hother, fun r hr => ?_⟩
    exact (hclass r hr).trans (congrArg (State.room · r) ((classChanged_eq ..).trans (classEvaluated_eq ..)))

end Sys2Proof.Machine
end


section
-- The proofs are elaborated one after another: the waiting threads would take the memory that the check allows.
set_option Elab.async false
/-! SUPPORT. LOAD_ROOM (R33, R37): the directory entry, the record loaded, and the evaluations that follow. -/

namespace Sys2Proof.Machine

/-! ## The extension directory (R32) -/

theorem mem_directoryInsert (e a : Nat × RoomIx) (l : List (Nat × RoomIx)) : a ∈ directoryInsert e l ↔ a = e ∨ a ∈ l := by
  induction l with
  | nil => simp [directoryInsert]
  | cons b l ih =>
    rw [directoryInsert]
    split
    · simp
    · simp only [List.mem_cons, ih]
      tauto

/-- An entry inserted is found by its extension when no other entry has it, and another extension is found as before. -/
theorem find?_directoryInsert (x z : Nat) (r : RoomIx) (l : List (Nat × RoomIx)) (h : ∀ e ∈ l, e.1 ≠ x) :
    (directoryInsert (x, r) l).find? (·.1 = z) = if x = z then some (x, r) else l.find? (·.1 = z) := by
  induction l with
  | nil =>
    by_cases hx : x = z
    · simp [directoryInsert, hx]
    · simp [directoryInsert, hx]
  | cons a l ih =>
    have ha : a.1 ≠ x := h a List.mem_cons_self
    have ih := ih fun e he => h e (List.mem_cons_of_mem a he)
    rw [directoryInsert]
    split
    · rw [List.find?_cons]
      by_cases hx : x = z
      · simp [hx]
      · simp [hx]
    · rw [List.find?_cons, ih, List.find?_cons]
      by_cases hz : a.1 = z
      · have hx : x ≠ z := fun e => ha (hz.trans e.symm)
        simp [hz, hx]
      · simp [hz]

/-- The entries of other rooms are found as they were before the entries of a room were removed. -/
theorem find?_otherRooms (z : Nat) (r : RoomIx) (l : List (Nat × RoomIx)) (h : (l.find? (·.1 = z)).map (·.2) ≠ some r) :
    (l.filter (·.2 ≠ r)).find? (·.1 = z) = l.find? (·.1 = z) := by
  induction l with
  | nil => rfl
  | cons a l ih =>
    rw [List.find?_cons] at h ⊢
    by_cases hz : a.1 = z
    · have ha : a.2 ≠ r := fun e => h (by simp [hz, e])
      simp [ha, hz]
    · simp only [hz, decide_false] at h ⊢
      rw [List.filter_cons]
      split
      · simp only [List.find?_cons, hz, decide_false, ih h]
      · exact ih h

/-! ## The record loaded -/

/-- A room record loaded, its sense-failure count kept just while the extension and the fault threshold stay (R33, R37). -/
def Room.reloaded (x : Nat) (k : ClassIx) (thresholdKept : Bool) (y : Room) : Room :=
  { y with
    loaded := true, extension := some x, cls := k
    lamp := { y.lamp with
      ordered := none, absent := false, offHook := y.lamp.offHook && decide (y.extension = some x)
      failures := if y.extension = some x ∧ thresholdKept = true then y.lamp.failures else 0 } }

/-- The lamp sub-record of a room loaded, with the count cleared for a changed fault threshold. -/
theorem roomLoaded_eq (x : Nat) (k : ClassIx) (y : Room) :
    roomLoaded x k y = y.reloaded x k true ∧
      { roomLoaded x k y with lamp := { (roomLoaded x k y).lamp with failures := 0 } } = y.reloaded x k false := by
  by_cases h : y.extension = some x
  · simp [roomLoaded, lampReloaded, Room.reloaded, h]
  · simp [roomLoaded, lampReloaded, Room.reloaded, h]

/-! ## The evaluations -/

theorem lampEvaluated_idem (hold : Bool) (x : Room) : lampEvaluated hold (lampEvaluated hold x) = lampEvaluated hold x := by
  have htarget : ∀ d, targetLamp hold (lampEvaluated hold x) d = targetLamp hold x d := fun _ => rfl
  have hdesired : desiredLamp (lampEvaluated hold x) = desiredLamp x := rfl
  rw [lampEvaluated, hdesired, htarget]
  simp [lampEvaluated, orderDue]

/-- A room record as its evaluation leaves it stays, and the room does not join the queue again. -/
theorem evaluateLamp_fixed {z : State} {r : RoomIx} {y : Room} (h : lampEvaluated (z.classes[y.cls]).shutdownHold y = y) :
    evaluateLamp r (z.setRoom r y) = z.setRoom r y :=
  (evaluateLamp_setRoom h r).trans (by rw [if_neg (by simp)]; rfl)

/-- A target evaluation repeated changes nothing (R130). -/
theorem evaluateLamp_idem (r : RoomIx) (z : State) : evaluateLamp r (evaluateLamp r z) = evaluateLamp r z := by
  obtain ⟨y, hy⟩ : ∃ y, y = lampEvaluated (z.classOf r).shutdownHold (z.room r) := ⟨_, rfl⟩
  have hagain : lampEvaluated (z.classes[y.cls]).shutdownHold y = y := by
    have hcls : z.classes[y.cls] = z.classOf r := by rw [hy]; rfl
    rw [hcls, hy, lampEvaluated_idem]
  obtain ⟨q, hq⟩ : ∃ q, evaluateLamp r z = { z.setRoom r y with lamps := { z.lamps with queue := q } } := by
    rw [hy]
    exact ⟨_, rfl⟩
  rw [hq]
  exact evaluateLamp_fixed (z := { z with lamps := { z.lamps with queue := q } }) hagain

/-- The evaluations of a room loaded: its lamp, and its barring before it when the class asks for it (R33, R37). -/
def evaluateChanged (barring : Bool) (r : RoomIx) (z : State) : State := if barring then evaluateRoom r z else evaluateLamp r z

theorem evaluateLamp_classEvaluated (old new : ClassRecord) (r : RoomIx) (z : State) :
    evaluateLamp r (classEvaluated old new r z) = evaluateChanged (barringChanged old new) r z := by
  rw [classEvaluated, evaluateChanged]
  split
  · exact evaluateLamp_idem r (evaluateBarring r z)
  · split
    · exact evaluateLamp_idem r z
    · rfl

theorem evaluateChanged_directory (b : Bool) (r : RoomIx) (z : State) (d : List (Nat × RoomIx)) :
    evaluateChanged b r { z with directory := d } = { evaluateChanged b r z with directory := d } := by
  cases b <;> rfl

theorem evaluateChanged_link (b : Bool) (r : RoomIx) (z : State) (l : Link) :
    evaluateChanged b r { z with link := l } = { evaluateChanged b r z with link := l } := by
  cases b <;> rfl

theorem evaluateChanged_other (b : Bool) {r r' : RoomIx} (z : State) (h : r' ≠ r) :
    (evaluateChanged b r z).room r' = z.room r' := by
  cases b
  · exact evaluateLamp_local.other r z r' h
  · exact evaluateRoom_local.other r z r' h

/-- The evaluation of a room just loaded is that of its record, credit-barred or not (R37). -/
theorem evaluateChanged_room (b : Bool) (r : RoomIx) (z : State) :
    ∃ barred, (evaluateChanged b r z).room r =
      lampEvaluated (z.classOf r).shutdownHold { z.room r with barred := barred } := by
  cases b
  · exact ⟨(z.room r).barred, by rw [evaluateChanged, if_neg (by simp), evaluateLamp_room, if_pos rfl]⟩
  · have hclass : (evaluateBarring r z).classOf r = z.classOf r := State.classOf_setRoom ..
    refine ⟨barredAfter (z.room r).creditLimit (z.exposure r) (z.classOf r).creditManual (z.room r).barred, ?_⟩
    rw [evaluateChanged, if_pos rfl, evaluateRoom, evaluateLamp_room, if_pos rfl, hclass, evaluateBarring,
      State.room_updRoom_same]

/-- `s` with the record of a room loaded (R33, R37). -/
def State.reloaded (s : State) (r : RoomIx) (x : Nat) (k : ClassIx) : State :=
  s.setRoom r ((s.room r).reloaded x k (decide ((s.classOf r).faultThreshold = s.classes[k].faultThreshold)))

/-- The sense-failure count is cleared for a changed fault threshold (R37). -/
theorem cleared_reloaded (r : RoomIx) (x : Nat) (k : ClassIx) (s z : State)
    (hz : z = s.setRoom r (roomLoaded x k (s.room r))) :
    (if (s.classOf r).faultThreshold ≠ s.classes[k].faultThreshold then z.updLamp r fun l => { l with failures := 0 } else z) =
      s.reloaded r x k := by
  obtain ⟨hkept, hcleared⟩ := roomLoaded_eq x k (s.room r)
  rw [State.reloaded, hz]
  by_cases hfault : (s.classOf r).faultThreshold = s.classes[k].faultThreshold
  · rw [if_neg (not_not_intro hfault), decide_eq_true hfault, hkept]
  · rw [if_pos hfault, decide_eq_false hfault, ← hcleared, State.updLamp, State.updRoom, State.setRoom_setRoom,
      State.room_setRoom_same]

theorem loadRoom_eq (r : RoomIx) (x : Nat) (k : ClassIx) (s : State) :
    loadRoom r x k s =
      { evaluateChanged (barringChanged (s.classOf r) s.classes[k]) r (s.reloaded r x k) with
        directory := directoryInsert (x, r) (s.directory.filter (·.2 ≠ r)) } := by
  obtain ⟨d, hd⟩ : ∃ d, d = directoryInsert (x, r) (s.directory.filter (·.2 ≠ r)) := ⟨_, rfl⟩
  obtain ⟨z, hz⟩ : ∃ z, z = State.setRoom { s with directory := d } r (roomLoaded x k (s.room r)) := ⟨_, rfl⟩
  have hloaded : loadRoom r x k s = evaluateLamp r (classChanged (s.classOf r) (z.classOf r) r z) := by rw [hz, hd]; rfl
  have hclass : z.classOf r = s.classes[k] := by
    rw [hz, State.classOf_setRoom]
    rfl
  have hroom : _ = { s.reloaded r x k with directory := d } := cleared_reloaded r x k { s with directory := d } z hz
  rw [hloaded, hclass, classChanged_eq, ← hd, ← evaluateChanged_directory, ← evaluateLamp_classEvaluated, ← hroom]
  rfl

/-- The link lies outside what a load reads and writes. -/
theorem loadRoom_link (r : RoomIx) (x : Nat) (k : ClassIx) (s : State) (l : Link) :
    loadRoom r x k { s with link := l } = { loadRoom r x k s with link := l } := by
  rw [loadRoom_eq, loadRoom_eq]
  exact congrArg (fun z : State => { z with directory := directoryInsert (x, r) (s.directory.filter (·.2 ≠ r)) })
    (evaluateChanged_link _ r (s.reloaded r x k) l)

end Sys2Proof.Machine
end


section
-- The proofs are elaborated one after another: the waiting threads would take the memory that the check allows.
set_option Elab.async false
/-! SUPPORT. LOAD_ROOM (R33): the command. -/

namespace Sys2Proof.Machine

theorem State.heldElsewhere_iff (s : State) (x : Nat) (r : RoomIx) :
    s.heldElsewhere x r = true ↔ ∃ r' : RoomIx, (x, r') ∈ s.directory ∧ r' ≠ r := by
  simp only [State.heldElsewhere, List.any_eq_true, decide_eq_true_eq]
  constructor
  · rintro ⟨⟨_, r'⟩, hmem, rfl, hne⟩
    exact ⟨r', hmem, hne⟩
  · rintro ⟨r', hmem, hne⟩
    exact ⟨(x, r'), hmem, rfl, hne⟩

/-- LOAD_ROOM with its fields in range passes the room checks, so that the directory alone decides (R33). -/
theorem workLoadRoom_passed {a b x2 x1 x0 k : Octet} {s : State} {r : RoomIx} (hm : s.service ≠ .mounting)
    (hr : field16 a b = r.val) (hx : field24 x2 x1 x0 ≤ 999999) (hk : k.toNat ≤ 15) :
    workLoadRoom [a, b, x2, x1, x0, k] s =
      if s.heldElsewhere (field24 x2 x1 x0) r then .refuse .badArgument s
      else .done .ok [] (loadRoom r (field24 x2 x1 x0) (Fin.ofNat 16 k.toNat) s) := by
  have hok : decide (field24 x2 x1 x0 ≤ Config.maxExtension ∧ k.toNat ≤ 15) = true := decide_eq_true ⟨hx, hk⟩
  simp only [workLoadRoom, hok]
  exact checkedRoom_passed hm hr fun h => nomatch h

/-- The directory of a load: the room's extension finds the room, and the other rooms keep theirs (R32, R33). -/
theorem directory_loaded {s t : State} {x : Nat} {r : RoomIx}
    (hd : t.directory = directoryInsert (x, r) (s.directory.filter (·.2 ≠ r)))
    (hown : ∀ r' : RoomIx, (x, r') ∈ s.directory → r' = r) :
    t.lookup x = some r ∧ (∀ z, (z, r) ∈ t.directory ↔ z = x) ∧
      ∀ z, z ≠ x → s.lookup z ≠ some r → t.lookup z = s.lookup z := by
  have hothers : ∀ e ∈ s.directory.filter (·.2 ≠ r), e.1 ≠ x := by
    rintro ⟨_, r'⟩ hmem rfl
    obtain ⟨hheld, hne⟩ := List.mem_filter.mp hmem
    exact of_decide_eq_true hne (hown r' hheld)
  have hfind (z : Nat) := find?_directoryInsert x z r _ hothers
  refine ⟨?_, fun z => ?_, fun z hz hlookup => ?_⟩
  · rw [State.lookup, hd, hfind, if_pos rfl]
    rfl
  · rw [hd, mem_directoryInsert]
    simp
  · rw [State.lookup, hd, hfind, if_neg (Ne.symm hz), find?_otherRooms z r _ hlookup]
    rfl

/-- A lamp present and last ordered UNKNOWN gets a target and is due an order (R129, R130). -/
theorem lampEvaluated_unordered {x : Room} (hloaded : x.loaded = true) (habsent : x.lamp.absent = false)
    (hordered : x.lamp.ordered = none) (hold : Bool) :
    (lampEvaluated hold x).lamp =
      { x.lamp with desired := desiredLamp x, queued := true
                    target := some (if x.lamp.shut then .off else desiredLamp x) } := by
  have htarget : targetLamp hold x (desiredLamp x) = some (if x.lamp.shut then .off else desiredLamp x) := by
    rw [targetLamp_eq, if_neg (by simp [hloaded, habsent]), hordered]
    cases x.lamp.shut
    · rfl
    · cases hold <;> rfl
  simp [lampEvaluated, htarget, orderDue, hordered]

/-- Settles O14. -/
theorem loadRoomLoadsTheRecord : Obligations.LoadRoomLoadsTheRecord := by
  intro tag a b x2 x1 x0 k s r hready hm hr hx hk x cls y before after loaded
  have hwork := workLoadRoom_passed (s := s.held 0x46 tag [a, b, x2, x1, x0, k]) hm hr hx hk
  have hheld := State.heldElsewhere_iff s x r
  refine ⟨fun hground => event_refused hready (hwork.trans (if_pos (hheld.mpr hground))), fun hown => ?loaded⟩
  case loaded =>
    have hnotHeld : ¬ s.heldElsewhere x r = true := fun h =>
      let ⟨r', hmem, hne⟩ := hheld.mp h
      hne (hown r' hmem)
    have hdone := hwork.trans (if_neg hnotHeld)
    rw [State.held, loadRoom_link, loadRoom_eq] at hdone
    have hexec := event_effect hready hdone rfl
    have hloaded : s.reloaded r x cls = loaded := by
      simp only [loaded, State.reloaded, Room.reloaded, decide_eq_true_eq]
      rfl
    have hevaluated : evaluateChanged (barringChanged (s.classOf r) s.classes[cls]) r (s.reloaded r x cls) =
        (if before.markup ≠ after.markup ∨ before.creditManual ≠ after.creditManual then evaluateRoom r loaded
         else evaluateLamp r loaded) := by
      simp only [evaluateChanged, barringChanged_iff, hloaded]
      rfl
    obtain ⟨barred, hroom⟩ := evaluateChanged_room (barringChanged (s.classOf r) s.classes[cls]) r (s.reloaded r x cls)
    have hother (r' : RoomIx) (hne : r' ≠ r) :
        (evaluateChanged (barringChanged (s.classOf r) s.classes[cls]) r (s.reloaded r x cls)).room r' = s.room r' := by
      rw [evaluateChanged_other _ _ hne, hloaded, State.room_setRoom, if_neg (Ne.symm hne)]
    -- The evaluated state is given a name of its own, so that its fields are not evaluated.
    generalize evaluateChanged (barringChanged (s.classOf r) s.classes[cls]) r (s.reloaded r x cls) = evaluated at *
    rw [State.reloaded, State.room_setRoom_same] at hroom
    have hlamp := lampEvaluated_unordered
      (x := { y.reloaded x cls (decide ((s.classOf r).faultThreshold = s.classes[cls].faultThreshold)) with barred := barred })
      rfl rfl rfl (State.classOf (s.setRoom r (y.reloaded x cls
        (decide ((s.classOf r).faultThreshold = s.classes[cls].faultThreshold)))) r).shutdownHold
    obtain ⟨hlookup, hentries, hlookups⟩ := directory_loaded
      (t := { evaluated with directory := directoryInsert (x, r) (s.directory.filter (·.2 ≠ r)) }) rfl hown
    refine ⟨_, hexec, by rw [← hevaluated], hother, hlookup, hentries, hlookups, ?_, ?_⟩
    · change evaluated.room r = { y with loaded := true, extension := some x, cls := cls,
                                         barred := (evaluated.room r).barred, lamp := (evaluated.room r).lamp }
      rw [hroom]
      rfl
    · change (evaluated.room r).lamp = { y.lamp with
        ordered := none, absent := false, queued := true, desired := (evaluated.room r).lamp.desired
        offHook := y.lamp.offHook && decide (y.extension = some x)
        failures := if y.extension = some x ∧ before.faultThreshold = after.faultThreshold then y.lamp.failures else 0
        target := some (if y.lamp.shut then .off else (evaluated.room r).lamp.desired) }
      rw [hroom, hlamp]
      simp only [Room.reloaded, decide_eq_true_eq]
      rfl

end Sys2Proof.Machine
end


section
-- The proofs are elaborated one after another: the waiting threads would take the memory that the check allows.
set_option Elab.async false
/-! SUPPORT. FETCH_CHARGES and RELEASE_CHARGES (R167, R168). -/

namespace Sys2Proof.Machine

/-- An offer of up to 8 records and the reply: together, or not at all (R167). -/
theorem offerFetch_eq (tag : Octet) {n : Nat} (hn : n ≤ 8) (s : State) :
    offerFetch tag n s =
      if s.link.queue.length + min n s.charges.length + 1 ≤ 64 then
        { s with link := { s.link with
                   queue := s.link.queue ++ (s.charges.take (min n s.charges.length)).map .chargeData ++
                     [.reply tag .ok [BitVec.ofNat 8 (min n s.charges.length)]]
                   holder := none } }
      else s := by
  have hcount : octets1 (min n s.charges.length) = [BitVec.ofNat 8 (min n s.charges.length)] := by
    rw [octets1, Nat.min_eq_left (by omega)]
  have hfree : s.fetchCount n + 1 ≤ s.freeEntries ↔ s.link.queue.length + min n s.charges.length + 1 ≤ 64 := by
    simp only [State.fetchCount, State.freeEntries, Config.outboundEntries]
    omega
  simp only [offerFetch, hfree]
  rw [State.fetchCount, hcount]

/-- FETCH_CHARGES in range makes its first offer when it is taken (R167). -/
theorem workFetchCharges_inRange {tag n : Octet} {s : State} (hmin : 1 ≤ n.toNat) (hmax : n.toNat ≤ 8) :
    workFetchCharges tag [n] s = .deferred (offerFetch tag n.toNat s) := if_pos ⟨hmin, hmax⟩

/-- RELEASE_CHARGES is judged by the fill (R168). -/
theorem workReleaseCharges_eq (n1 n0 : Octet) (s : State) :
    workReleaseCharges [n1, n0] s =
      if s.charges.length < field16 n1 n0 then .refuse .badArgument s
      else .done .ok (octets2 (s.charges.length - field16 n1 n0)) { s with charges := s.charges.drop (field16 n1 n0) } := rfl

/-- Settles O29. -/
theorem chargesFetchedAndReleased : Obligations.ChargesFetchedAndReleased := by
  refine ⟨?fetch, ?release⟩
  case fetch =>
    intro tag n s hreset k records sent waits
    refine ⟨fun hholder hqueue hground => ?refused, fun hholder hmin hmax => ?taken, fun hholder hmax => ?again⟩
    case refused => exact event_refused ⟨hreset, hholder, hqueue⟩ (if_neg (by omega))
    case taken =>
      have hexec := event_taken (f := holderTake 0x5E tag [n] (workFetchCharges tag [n])) hreset
      rw [holderTake_deferred hholder (workFetchCharges_inRange hmin hmax), offerFetch_eq tag hmax] at hexec
      exact hexec
    case again =>
      have hexec := event_taken (f := fetchEntry) hreset
      have hfetch : fetchEntry s = offerFetch tag n.toNat s := by
        rw [fetchEntry, hholder]
        rfl
      rw [hfetch, offerFetch_eq tag hmax] at hexec
      exact hexec
  case release =>
    intro tag n1 n0 s hready
    have hwork := workReleaseCharges_eq n1 n0 (s.held 0x5F tag [n1, n0])
    refine ⟨fun hground => event_refused hready (hwork.trans (if_pos hground)), fun hfill => ?_⟩
    exact event_effect hready (hwork.trans (if_neg (Nat.not_lt.mpr hfill))) rfl

end Sys2Proof.Machine
end


section
-- The proofs are elaborated one after another: the waiting threads would take the memory that the check allows.
set_option Elab.async false
/-! SUPPORT. The command holder (R177–R179): a command as an offer to the holder, and what becomes of its reply. -/

namespace Sys2Proof.Machine

/-- A management command is an offer to the holder. -/
theorem exec_offered {i : Instr} {tag : Octet} {fields : List Octet} (h : commandFields i = some (tag, fields)) :
    ∃ kind held owner, exec i = event (holderTake kind tag held owner) := by
  cases i with
  | queryStatus | startService | suspend | clearAttention | setClock | loadTableClass | loadTablePrefix | loadTableBand
  | loadTableSchedule | loadTableParameters | loadRoom | checkIn | checkOut | setCredit | postPayment | unbar | deskFlag
  | deleteMessages | queryRoom | resetChannel | loadExpansion | setGeometry | mount | queryStore | promptErase | promptPage
  | promptCommit | promptVerify | promptBlank | promptDir | lampForce | lampResume | lampResync | loadTrunk | fetchCharges
  | releaseCharges => cases h; exact ⟨_, _, _, rfl⟩
  | _ => cases h

/-- A management command by its frame: the holder is offered the KIND, the TAG and the fields that the frame carries. -/
theorem exec_framed {i : Instr} {kind tag : Octet} {fields : List Octet} (h : controllerFrame i = some (kind, tag :: fields))
    (hk : 0x40 ≤ kind.toNat) : exec i = event (holderTake kind tag fields (commandOwner kind.toNat tag fields)) := by
  cases i with
  | queryStatus | startService | suspend | clearAttention | setClock | loadTableClass | loadTablePrefix | loadTableBand
  | loadTableSchedule | loadTableParameters | loadRoom | checkIn | checkOut | setCredit | postPayment | unbar | deskFlag
  | deleteMessages | queryRoom | resetChannel | loadExpansion | setGeometry | mount | queryStore | promptErase | promptPage
  | promptCommit | promptVerify | promptBlank | promptDir | lampForce | lampResume | lampResync | loadTrunk | fetchCharges
  | releaseCharges => cases h; rfl
  | divert | slotClear | key | lampSense =>
    obtain ⟨rfl, _⟩ := Prod.mk.inj (Option.some.inj h)
    exact absurd hk (by decide)
  | _ => cases h

/-- With no entry free, the command's effects are made, and its reply waits unless it is deferred (R179). -/
theorem holderTake_full {kind tag : Octet} {fields : List Octet} {s : State} (hholder : s.link.holder = none)
    (hfull : 64 ≤ s.link.queue.length) :
    let t := holderTake kind tag fields (commandOwner kind.toNat tag fields) s
    t.link.queue = s.link.queue ∧
      match commandOwner kind.toNat tag fields (s.held kind tag fields) with
      | .done st data z => t = { z with link := { z.link with holder := some ⟨kind, tag, fields, .offering st data⟩ } }
      | .deferred z => t = z ∧ t.link.holder = some ⟨kind, tag, fields, .working⟩ := by
  have hlink : (commandOwner kind.toNat tag fields (s.held kind tag fields)).after.link = (s.held kind tag fields).link :=
    commandOwner_full kind.toNat tag fields hfull rfl
  cases howner : commandOwner kind.toNat tag fields (s.held kind tag fields) with
  | done st data z =>
    rw [howner, Work.after] at hlink
    have hwaits := holderTake_waits hholder howner (by rw [hlink]; rfl) (by rw [hlink]; exact hfull)
    rw [hwaits]
    exact ⟨by rw [hlink]; rfl, rfl⟩
  | deferred z =>
    rw [howner, Work.after] at hlink
    rw [holderTake_deferred hholder howner]
    exact ⟨by rw [hlink]; rfl, rfl, by rw [hlink]; rfl⟩

/-- Settles O27. -/
theorem holderHoldsOneCommand : Obligations.HolderHoldsOneCommand := by
  refine ⟨?overrun, ?waits, ?store, ?entry⟩
  case overrun =>
    intro i tag fields s h hfields hreset hholder hqueue
    obtain ⟨kind, held, owner, hexec⟩ := exec_offered hfields
    rw [hexec, event_taken hreset, holderTake_occupied hholder, place_of_free hqueue]
  case waits =>
    intro i kind tag fields s hframe hkind hreset hholder hfull holding
    rw [exec_framed hframe hkind, event_taken hreset]
    exact ⟨_, rfl, holderTake_full hholder hfull⟩
  case store =>
    intro tag s hreset hholder hfull
    exact (event_taken hreset).trans (congrArg Host.Outcome.next (holderTake_waits (owner := workQueryStore [])
      (z := s.held 0x53 tag []) hholder rfl rfl hfull))
  case entry =>
    intro s k tag fields st data hreset hholder
    have hexec : exec .replyEntry s = .next (buildReply st data s) := by
      refine (event_taken hreset).trans (congrArg Host.Outcome.next ?_)
      rw [replyEntry, hholder]
    rw [hexec, buildReply_eq hholder]
    refine ⟨fun hfree => by rw [if_pos hfree], fun hfull => ?_⟩
    rw [if_neg (Nat.not_lt.mpr hfull), ← hholder]

end Sys2Proof.Machine
end


section
-- The proofs are elaborated one after another: the waiting threads would take the memory that the check allows.
set_option Elab.async false
/-! SUPPORT. The checks of the management commands (R26, R178, R183): the length, the service state, the room, the fields. -/

namespace Sys2Proof.Machine

/-! ## Lengths -/

/-- A payload of another length than the command's is refused in every service state (R178). -/
theorem exec_wrongLength {i : Instr} {n : Nat} {tag : Octet} {fields : List Octet} {s : State} (hready : s.ready)
    (hn : commandLength i = some n) (hf : commandFields i = some (tag, fields)) (hne : fields.length ≠ n) :
    exec i s = .next (s.refused tag .badArgument) := by
  cases i with
  | queryStatus | startService | suspend | clearAttention | setClock | loadTableClass | loadTablePrefix | loadTableBand
  | loadTableParameters | loadRoom | checkIn | checkOut | setCredit | postPayment | unbar | deskFlag
  | deleteMessages | queryRoom | resetChannel | mount | queryStore | promptErase 
  | promptCommit | promptVerify | promptBlank | promptDir | lampForce | lampResume | lampResync | loadTrunk | fetchCharges
  | releaseCharges =>
    cases hn
    cases hf
    refine event_refused hready ?_
    delta workQueryStatus workStartService workSuspend workClearAttention workSetClock workLoadClass workLoadPrefix
      workLoadBand workLoadParameters workLoadRoom workCheckIn workCheckOut workSetCredit workPostPayment workUnbar
      workDeskFlag workDeleteMessages workQueryRoom workResetChannel workMount workQueryStore workPromptErase
      workPromptCommit workPromptVerify workPromptBlank workPromptDir workLampForce workLampResume workLampResync
      workLoadTrunk workFetchCharges workReleaseCharges
    split
    · exact absurd rfl hne
    · rfl
  | setGeometry =>
    cases hn
    cases hf
    refine event_refused hready ?_
    delta workSetGeometry
    split
    case h_1 total area sizes _ => exact if_pos fun h => hne (by simp [h])
    case h_2 => rfl
  | _ => cases hn

/-- A payload of a length is the list of its octets. -/
theorem exists_ofFn {l : List Octet} {n : Nat} (h : l.length = n) : ∃ v : Fin n → Octet, List.ofFn v = l := by
  subst h
  exact ⟨l.get, List.ofFn_get l⟩

theorem workLoadExpansion_wrongLength {l : List Octet} (s : State) (h : l.length ≤ 2 ∨ 57 < l.length ∨ l.length % 2 = 0) :
    workLoadExpansion l s = .refuse .badArgument s := by
  cases l with
  | nil => rfl
  | cons i l =>
    rw [List.length_cons] at h
    exact if_pos (by omega)

theorem workPromptPage_wrongLength {l : List Octet} (s : State) (h : l.length ≤ 3 ∨ 59 < l.length) :
    workPromptPage l s = .refuse .badArgument s := by
  delta workPromptPage
  split
  case h_1 a2 a1 a0 l _ =>
    simp only [List.length_cons] at h
    exact if_pos (by omega)
  case h_2 => rfl

/-- SCHEDULE's length is that of the count it carries (log entry 20). -/
theorem workLoadSchedule_wrongLength {l : List Octet} (s : State) (h : l.length ≠ 4 * (l.headD 0).toNat + 3) :
    workLoadSchedule l s = .refuse .badArgument s := by
  cases l with
  | nil => rfl
  | cons n l => exact if_pos fun hl => h (by rw [List.length_cons, hl]; rfl)

/-! ## The service state and the table number -/

theorem workLoadClass_mounting {l : List Octet} {s : State} (h : l.length = 15) (hm : s.service = .mounting) :
    workLoadClass l s = .refuse .badState s := by
  obtain ⟨v, rfl⟩ := exists_ofFn h
  exact if_pos hm

theorem workLoadPrefix_mounting {l : List Octet} {s : State} (h : l.length = 15) (hm : s.service = .mounting) :
    workLoadPrefix l s = .refuse .badState s := by
  obtain ⟨v, rfl⟩ := exists_ofFn h
  exact if_pos hm

theorem workLoadBand_mounting {l : List Octet} {s : State} (h : l.length = 12) (hm : s.service = .mounting) :
    workLoadBand l s = .refuse .badState s := by
  obtain ⟨v, rfl⟩ := exists_ofFn h
  exact if_pos hm

theorem workLoadParameters_mounting {l : List Octet} {s : State} (h : l.length = 9) (hm : s.service = .mounting) :
    workLoadParameters l s = .refuse .badState s := by
  obtain ⟨v, rfl⟩ := exists_ofFn h
  exact if_pos hm

theorem workLoadTrunk_mounting {l : List Octet} {s : State} (h : l.length = 2) (hm : s.service = .mounting) :
    workLoadTrunk l s = .refuse .badState s := by
  obtain ⟨v, rfl⟩ := exists_ofFn h
  exact if_pos hm

theorem workLoadSchedule_mounting {l : List Octet} {s : State} (h : l.length = 4 * (l.headD 0).toNat + 3)
    (hm : s.service = .mounting) : workLoadSchedule l s = .refuse .badState s := by
  cases l with
  | nil => exact absurd h (Nat.succ_ne_zero _).symm
  | cons n l =>
    have hl : ¬ l.length ≠ 4 * n.toNat + 2 := not_not_intro (Nat.succ.inj h)
    rw [workLoadSchedule, if_neg hl, if_pos hm]

/-- LOAD_TABLE has tables 1–5 (R19). -/
theorem workLoadTable_badKind {table : Octet} (fields : List Octet) (s : State) (h : table.toNat = 0 ∨ 5 < table.toNat) :
    workLoadTable (table :: fields) s = .refuse .badKind s := by
  rw [workLoadTable]
  split
  case h_6 => rfl
  all_goals omega

/-! ## The room commands (R26) -/

theorem checkedRoom_mounting {loaded ok : Bool} {a b : Octet} {s : State} {k : RoomIx → Work} (hm : s.service = .mounting) :
    checkedRoom false loaded a b ok s k = .refuse .badState s := if_pos ⟨hm, rfl⟩

theorem checkedRoom_pastRooms {query loaded ok : Bool} {a b : Octet} {s : State} {k : RoomIx → Work}
    (hm : ¬ (s.service = .mounting ∧ query = false)) (h : 2047 < field16 a b) :
    checkedRoom query loaded a b ok s k = .refuse .badArgument s := (if_neg hm).trans (dif_neg (by omega))

/-- A field out of its range, whatever room is named. -/
theorem checkedRoom_badField {loaded ok : Bool} {a b : Octet} {s : State} {k : RoomIx → Work} (hm : s.service ≠ .mounting)
    (h : ok = false) : checkedRoom false loaded a b ok s k = .refuse .badArgument s := by
  rw [checkedRoom, if_neg fun h => hm h.1]
  by_cases hlt : field16 a b < 2048
  · rw [dif_pos hlt, if_pos h]
  · rw [dif_neg hlt]

theorem checkedRoom_notLoaded {ok : Bool} {a b : Octet} {s : State} {k : RoomIx → Work} {r : RoomIx}
    (hm : s.service ≠ .mounting) (hr : field16 a b = r.val) (hok : ok = true) (hl : (s.room r).loaded = false) :
    checkedRoom false true a b ok s k = .refuse .notFound s := by
  have hlt : field16 a b < 2048 := by rw [hr]; exact r.isLt
  have hroom : (⟨field16 a b, hlt⟩ : RoomIx) = r := Fin.ext hr
  rw [checkedRoom, if_neg fun h => hm h.1, dif_pos hlt, if_neg (by simp [hok]), hroom, if_pos ⟨rfl, hl⟩]

/-- Settles O28. -/
theorem commandChecks : Obligations.CommandChecks := by
  refine ⟨?lengths, ?longLengths, ?tables, ?mounting, ?rooms⟩
  case lengths => exact fun _ _ _ _ _ hready hn hf hne => exec_wrongLength hready hn hf hne
  case longLengths =>
    exact fun tag fields s hready => ⟨fun h => event_refused hready (workLoadExpansion_wrongLength _ h),
      fun h => event_refused hready (workPromptPage_wrongLength _ h),
      fun h => event_refused hready (workLoadSchedule_wrongLength _ h)⟩
  case tables =>
    exact fun tag table fields s hready h => ⟨holderTake_refuse hready (workLoadTable_badKind _ _ h), holderTake_refuse hready rfl⟩
  case mounting =>
    intro tag fields s hready hm
    refine ⟨?_, fun h => event_refused hready (workLoadSchedule_mounting h hm)⟩
    simp only [List.forall_mem_cons, List.not_mem_nil, false_implies, implies_true, and_true]
    exact ⟨fun h => event_refused hready (workLoadClass_mounting (Option.some.inj h).symm hm),
      fun h => event_refused hready (workLoadPrefix_mounting (Option.some.inj h).symm hm),
      fun h => event_refused hready (workLoadBand_mounting (Option.some.inj h).symm hm),
      fun h => event_refused hready (workLoadParameters_mounting (Option.some.inj h).symm hm),
      fun h => event_refused hready (workLoadTrunk_mounting (Option.some.inj h).symm hm)⟩
  case rooms =>
    intro tag a b o2 o1 o0 f k s hready needLoaded stated
    refine ⟨fun hm => ?stateRefused, fun hm h => ?pastRooms, fun h => ?query, fun hm => ⟨fun h => ?loadRoom, fun h => ?amounts, fun h => ?flags⟩,
      fun r hm hr hamount hflag hl => ?notLoaded⟩
    case stateRefused =>
      simp only [stated, needLoaded, List.forall_mem_append, List.forall_mem_cons, List.not_mem_nil, false_implies,
        implies_true, and_true]
      refine ⟨⟨?_, ?_⟩, ?_, ?_, ?_, ?_, ?_, ?_, ?_, ?_⟩ <;> refine event_refused hready ?_
      all_goals
        delta workLoadRoom workDeleteMessages workCheckIn workCheckOut workSetCredit workPostPayment workUnbar workDeskFlag
          workLampForce workLampResume
        exact checkedRoom_mounting hm
    case pastRooms =>
      simp only [stated, needLoaded, List.forall_mem_append, List.forall_mem_cons, List.not_mem_nil, false_implies,
        implies_true, and_true]
      refine ⟨⟨?_, ?_⟩, ?_, ?_, ?_, ?_, ?_, ?_, ?_, ?_⟩ <;> refine event_refused hready ?_
      all_goals
        delta workLoadRoom workDeleteMessages workCheckIn workCheckOut workSetCredit workPostPayment workUnbar workDeskFlag
          workLampForce workLampResume
        exact checkedRoom_pastRooms (fun h => hm h.1) h
    case query =>
      refine event_refused hready ?_
      delta workQueryRoom
      exact checkedRoom_pastRooms (fun h => nomatch h.2) h
    case loadRoom =>
      have hbad : ¬ (field24 o2 o1 o0 ≤ Config.maxExtension ∧ k.toNat ≤ 15) := by
        simp only [Config.maxExtension]
        omega
      refine event_refused hready ?_
      delta workLoadRoom
      exact checkedRoom_badField hm (decide_eq_false hbad)
    case amounts =>
      have hbad : ¬ field24 o2 o1 o0 ≤ Config.maxBalance := Nat.not_le.mpr h
      simp only [List.forall_mem_cons, List.not_mem_nil, false_implies, implies_true, and_true]
      refine ⟨?_, ?_, ?_⟩ <;> refine event_refused hready ?_
      all_goals
        delta workCheckIn workSetCredit workPostPayment
        exact checkedRoom_badField hm (decide_eq_false hbad)
    case flags =>
      simp only [List.forall_mem_cons, List.not_mem_nil, false_implies, implies_true, and_true]
      refine ⟨?_, ?_⟩ <;> refine event_refused hready ?_
      all_goals
        delta workDeskFlag workLampForce
        exact checkedRoom_badField hm (decide_eq_false (Nat.not_le.mpr h))
    case notLoaded =>
      have hpass : decide (field24 o2 o1 o0 ≤ Config.maxBalance) = true ∧ decide (f.toNat ≤ 1) = true :=
        ⟨decide_eq_true hamount, decide_eq_true hflag⟩
      simp only [needLoaded, List.forall_mem_cons, List.not_mem_nil, false_implies, implies_true, and_true]
      refine ⟨?_, ?_, ?_, ?_, ?_, ?_, ?_, ?_⟩ <;> refine event_refused hready ?_
      all_goals
        delta workCheckIn workCheckOut workSetCredit workPostPayment workUnbar workDeskFlag workLampForce workLampResume
        exact checkedRoom_notLoaded hm hr (by simp only [hpass]) hl

end Sys2Proof.Machine
end


section
-- The proofs are elaborated one after another: the waiting threads would take the memory that the check allows.
set_option Elab.async false
/-! SUPPORT. DIVERT refused (R43), and the commands of the store's geometry and of its prompt area (R82, R99, R117,
R122–R126). -/

namespace Sys2Proof.Machine

/-! ## DIVERT refused (R43) -/

theorem State.slotMapped_iff (s : State) (k : Fin 126) : s.slotMapped k = true ↔ ∃ t : TrunkIx, (s.trunk t).slot = some k := by
  simp only [State.slotMapped, List.any_eq_true, decide_eq_true_eq]
  constructor
  · rintro ⟨x, hmem, hslot⟩
    obtain ⟨i, hi, rfl⟩ := List.mem_iff_getElem.mp hmem
    exact ⟨⟨i, by simpa using hi⟩, by rw [← hslot]; simp [State.trunk]⟩
  · rintro ⟨t, hslot⟩
    exact ⟨s.trunk t, by simp [State.trunk], hslot⟩

theorem State.freeChannel_eq_none {s : State} (h : ∀ c, (s.chan c).state ≠ .free) : s.freeChannel = none := by
  cases hc : s.freeChannel with
  | none => rfl
  | some c => exact absurd (State.freeChannel_free hc) (h c)

theorem State.boundTo_eq (s : State) {slot : Octet} {k : Fin 126} (hk : k.val = slot.toNat) :
    s.boundTo slot = s.highway.bindings[k] := by
  have hlt : slot.toNat < 126 := hk ▸ k.isLt
  rw [State.boundTo_of_lt s hlt]
  exact congrArg (s.highway.bindings[·]) (Fin.ext hk.symm)

/-- A DIVERT to a slot is judged by its binding and the trunks; the lowest-numbered FREE channel takes it, if there is one
(R43). -/
theorem takeDivert_slot {slot : Octet} {x : Nat} {p : Purpose} {s : State} {k : Fin 126} (hservice : s.service = .inService)
    (hk : k.val = slot.toNat) :
    takeDivert slot x p s =
      if s.highway.bindings[k] ≠ none ∨ ∃ t : TrunkIx, (s.trunk t).slot = some k then offerNotice (.slotDone slot .refusedSlot) s
      else s.freeChannel.elim (offerNotice (.slotDone slot .refusedBusy) s) fun c => grant c k x p s := by
  have hlt : slot.toNat < 126 := hk ▸ k.isLt
  have hslot : (⟨slot.toNat, hlt⟩ : Fin 126) = k := Fin.ext hk.symm
  simp only [takeDivert, if_neg (not_not_intro hservice), dif_pos hlt, hslot, State.boundTo_eq s hk, Option.isSome_iff_ne_none,
    State.slotMapped_iff]
  cases s.freeChannel <;> rfl

/-- Settles O39. -/
theorem divertsRefused : Obligations.DivertsRefused := by
  intro slot x p s hreset busySlot refused
  have hexec : exec (.divert slot x p) s = .next (takeDivert slot x p s) := event_taken hreset
  have hrefused (o : SlotOutcome) : offerNotice (.slotDone slot o) s = refused o := offerNotice_eq _ s
  rw [hexec]
  refine ⟨fun hservice => ?state, fun hservice htaken => ?slot, fun hservice hopen hfree => ?busy⟩
  case state => rw [takeDivert, if_pos hservice, hrefused]
  case slot =>
    obtain hlong | ⟨k, hk, htaken⟩ := htaken
    · rw [takeDivert, if_neg (not_not_intro hservice), dif_neg (by omega), hrefused]
    · rw [takeDivert_slot hservice hk, if_pos htaken, hrefused]
  case busy =>
    obtain ⟨hshort, hk⟩ := not_or.mp hopen
    have hlt : slot.toNat < 126 := by omega
    rw [takeDivert_slot (k := ⟨slot.toNat, hlt⟩) hservice rfl, if_neg fun h => hk ⟨_, rfl, h⟩,
      State.freeChannel_eq_none hfree]
    exact congrArg Host.Outcome.next (hrefused _)

/-! ## SET_GEOMETRY and MOUNT (R82, R99, R117) -/

theorem getElem_vectorOf {α : Type} {n : Nat} (d : α) (l : List α) (i : Fin n) : (vectorOf n d l)[i] = l.getD i.val d := by
  have hi := i.isLt
  simp only [vectorOf, Fin.getElem_fin, Vector.getElem_mk, List.getElem_toArray, List.getElem_take, List.getD_eq_getElem?_getD]
  rw [List.getElem_append]
  split
  case isTrue h => rw [List.getElem?_eq_getElem h, Option.getD_some]
  case isFalse h => rw [List.getElem?_eq_none (by omega), Option.getD_none, List.getElem_replicate]

theorem sizesFit_iff (sizes : List Octet) :
    sizes.all (fun z => decide (2 ≤ z.toNat ∧ z.toNat ≤ 16)) = false ↔ ¬ ∀ z ∈ sizes, 2 ≤ z.toNat ∧ z.toNat ≤ 16 := by
  rw [← Bool.not_eq_true, List.all_eq_true]
  simp only [decide_eq_true_eq]

/-- SET_GEOMETRY of 32 sizes in SETUP: its fields, then the store (R99). -/
theorem workSetGeometry_setup {total area : Octet} {sizes : List Octet} {s : State} (hlen : sizes.length = 32)
    (hs : s.service = .setup) :
    workSetGeometry (total :: area :: sizes) s =
      if ((∀ z ∈ sizes, 2 ≤ z.toNat ∧ z.toNat ≤ 16) ∧ (sizes.map (·.toNat)).sum ≤ 256) ∧ total.toNat ≤ 4 ∧ area.toNat ≤ 3 then
        if s.store.mounted = true then .refuse .badState s
        else .done .ok [] (setGeometry total.toNat area.toNat sizes s)
      else .refuse .badArgument s := by
  have hpool : Config.poolPages < (sizes.map (·.toNat)).sum ↔ ¬ (sizes.map (·.toNat)).sum ≤ 256 := Nat.not_le.symm
  have hcode : 4 < total.toNat ∨ 3 < area.toNat ↔ ¬ (total.toNat ≤ 4 ∧ area.toNat ≤ 3) := by omega
  rw [workSetGeometry, if_neg (not_not_intro hlen), if_neg (not_not_intro hs)]
  simp only [sizesFit_iff, hpool, hcode, ite_not]
  by_cases hsizes : ∀ z ∈ sizes, 2 ≤ z.toNat ∧ z.toNat ≤ 16
  case neg => rw [if_neg hsizes, if_neg fun h => hsizes h.1.1]
  rw [if_pos hsizes]
  by_cases hsum : (sizes.map (·.toNat)).sum ≤ 256
  case neg => rw [if_neg hsum, if_neg fun h => hsum h.1.2]
  rw [if_pos hsum]
  exact (if_congr (and_iff_right ⟨hsizes, hsum⟩) rfl rfl).symm

theorem ring_setGeometry (total area : Nat) (sizes : List Octet) (s : State) (c : ChannelIx) :
    (setGeometry total area sizes s).ring c = { s.ring c with size := (sizes.getD c.val 0).toNat } := by
  have hsize : (vectorOf 32 0 sizes)[c.val] = sizes.getD c.val 0 := getElem_vectorOf 0 sizes c
  simp only [State.ring, setGeometry, Fin.getElem_fin, Vector.getElem_zipWith, hsize]

/-- A prompt entry stays when it fits the area given (R99, R122). -/
theorem prompts_setGeometry (total area : Nat) (sizes : List Octet) (s : State) (id : PromptId) (e : PromptEntry) :
    (setGeometry total area sizes s).store.prompts[id] = some e ↔
      s.store.prompts[id] = some e ∧ e.first + e.count ≤ 64 * 2 ^ area * 16 := by
  simp only [setGeometry, getElem_mapVector, keepPrompt, Option.filter_eq_some_iff, decide_eq_true_eq, promptBlocksOf]

/-- Settles O46. -/
theorem geometryAndMount : Obligations.GeometryAndMount := by
  refine ⟨?geometry, ?mount⟩
  case geometry =>
    intro tag total area sizes s hready hlen set sized coded
    have hwork (hs : s.service = .setup) := workSetGeometry_setup (total := total) (area := area)
      (s := s.held 0x51 tag (total :: area :: sizes)) hlen hs
    refine ⟨fun hs => event_refused hready ?notSetup, fun hs hbad => event_refused hready ?badFields,
      fun hs hsized hcoded hm => event_refused hready ?mounted, fun hs hsized hcoded hm => ?set⟩
    case notSetup => rw [workSetGeometry, if_neg (not_not_intro hlen), if_pos (by exact hs)]
    case badFields => exact (hwork hs).trans (if_neg fun h => hbad.elim (· h.1) (· h.2))
    case mounted => exact (hwork hs).trans ((if_pos ⟨hsized, hcoded⟩).trans (if_pos hm))
    case set =>
      have hnot : ¬ s.store.mounted = true := by simp [hm]
      refine ⟨_, event_effect hready ((hwork hs).trans ((if_pos ⟨hsized, hcoded⟩).trans (if_neg hnot))) rfl,
        rfl, ?_, ?_⟩
      · exact ring_setGeometry total.toNat area.toNat sizes s
      · exact prompts_setGeometry total.toNat area.toNat sizes s
  case mount =>
    intro tag s hready
    refine ⟨fun hbad => event_refused hready (if_neg ?_), fun hs hg hm => ?started⟩
    case started =>
      have hwork : workMount [] (s.held 0x52 tag []) = .done .ok [] { s.held 0x52 tag [] with
          service := .mounting, store := { s.store with job := .mount MountJob.start } } := if_pos ⟨hs, hg, hm⟩
      exact event_effect hready hwork rfl
    rintro ⟨hs, hg, hm⟩
    rcases hbad with h | h | h
    · exact h hs
    · exact absurd (h.symm.trans hg) (by decide)
    · exact absurd (h.symm.trans hm) (by decide)

/-! ## The prompt commands (R122–R126) -/

theorem LoadBuffer.target_write (offset : Nat) (l : List Octet) (b : LoadBuffer) : (b.write offset l).target = b.target := by
  induction l generalizing offset b with
  | nil => rfl
  | cons o l ih => exact ih _ _

/-- Octets written stand from the offset on, and are marked sent (R123). -/
theorem LoadBuffer.getElem_write (offset : Nat) (l : List Octet) (b : LoadBuffer) (i : Fin 512) :
    if offset ≤ i.val ∧ i.val < offset + l.length then
      (b.write offset l).data[i] = l.getD (i.val - offset) 0 ∧ (b.write offset l).sent[i] = true
    else (b.write offset l).data[i] = b.data[i] ∧ (b.write offset l).sent[i] = b.sent[i] := by
  induction l generalizing offset b with
  | nil =>
    rw [if_neg (by simp only [List.length_nil]; omega)]
    exact ⟨rfl, rfl⟩
  | cons o l ih =>
    have hrest := ih (offset + 1)
      { b with data := b.data.setIfInBounds offset o, sent := b.sent.setIfInBounds offset true }
    simp only [LoadBuffer.write, List.length_cons]
    rcases Nat.lt_trichotomy i.val offset with hlt | heq | hgt
    · rw [if_neg (by omega)] at hrest ⊢
      obtain ⟨hdata, hsent⟩ := hrest
      rw [hdata, hsent]
      exact ⟨Vector.getElem_setIfInBounds_ne _ (by omega), Vector.getElem_setIfInBounds_ne _ (by omega)⟩
    · rw [if_neg (by omega)] at hrest
      rw [if_pos (by omega)]
      obtain ⟨hdata, hsent⟩ := hrest
      rw [hdata, hsent]
      subst heq
      simp
    · by_cases hin : i.val < offset + 1 + l.length
      · rw [if_pos (by omega)] at hrest
        rw [if_pos (by omega), hrest.1, hrest.2]
        obtain ⟨j, hj⟩ : ∃ j, i.val - offset = j + 1 := ⟨i.val - offset - 1, by omega⟩
        have hj' : i.val - (offset + 1) = j := by omega
        simp [hj, hj']
      · rw [if_neg (by omega)] at hrest
        rw [if_neg (by omega)]
        obtain ⟨hdata, hsent⟩ := hrest
        rw [hdata, hsent]
        exact ⟨Vector.getElem_setIfInBounds_ne _ (by omega), Vector.getElem_setIfInBounds_ne _ (by omega)⟩

/-- The load buffer has the page given as its target: as it was, or emptied (R123). -/
theorem LoadBuffer.target1_eq (page : Nat) (b : LoadBuffer) :
    (b.target1 page).target = some page ∧ ∀ i : Fin 512,
      if b.target = some page then (b.target1 page).data[i] = b.data[i] ∧ (b.target1 page).sent[i] = b.sent[i]
      else (b.target1 page).data[i] = 0xFF ∧ (b.target1 page).sent[i] = false := by
  rw [LoadBuffer.target1]
  split
  case isTrue h => exact ⟨h, fun i => ⟨rfl, rfl⟩⟩
  case isFalse h => exact ⟨rfl, fun i => ⟨by simp [LoadBuffer.reset], by simp [LoadBuffer.reset]⟩⟩

theorem State.promptReady_iff (s : State) :
    s.promptReady = true ↔ (s.service = .setup ∨ s.service = .suspended) ∧ s.store.geometrySet = true := by
  simp [State.promptReady, State.promptState]

/-- PROMPT_PAGE of 1 to 56 octets in the states of the prompt commands (R123). -/
theorem workPromptPage_ready {a2 a1 a0 : Octet} {l : List Octet} {s : State} (hmin : 1 ≤ l.length) (hmax : l.length ≤ 56)
    (hs : s.promptReady = true) :
    workPromptPage (a2 :: a1 :: a0 :: l) s =
      if s.store.promptBlocks * 16 ≤ field24 a2 a1 a0 / 512 ∨ 512 < field24 a2 a1 a0 % 512 + l.length then
        .refuse .badArgument s
      else .done .ok [] { s with store := { s.store with
        buffer := (s.store.buffer.target1 (field24 a2 a1 a0 / 512)).write (field24 a2 a1 a0 % 512) l } } := by
  have hready : ¬ s.promptReady = false := by simp [hs]
  rw [workPromptPage, if_neg (by omega), if_neg hready]
  rfl

/-- PROMPT_DIR in the states of the prompt commands (R122). -/
theorem workPromptDir_ready {id f1 f0 c1 c0 : Octet} {s : State} (hs : s.promptReady = true) :
    workPromptDir [id, f1, f0, c1, c0] s =
      if 31 < id.toNat ∨ field16 f1 f0 ≠ 65535 ∧ s.store.promptBlocks * 16 < field16 f1 f0 + field16 c1 c0 then
        .refuse .badArgument s
      else .done .ok [] (s.setPrompt (Fin.ofNat 32 id.toNat)
        (if field16 f1 f0 = 65535 then none else some { first := field16 f1 f0, count := field16 c1 c0 })) := by
  have hready : ¬ s.promptReady = false := by simp [hs]
  rw [workPromptDir, if_neg hready]
  by_cases hid : 31 < id.toNat
  case pos => rw [if_pos hid, if_pos (.inl hid)]
  rw [if_neg hid]
  by_cases hfirst : field16 f1 f0 = 65535
  case pos => rw [if_pos hfirst, if_pos hfirst, if_neg (by tauto)]
  rw [if_neg hfirst, if_neg hfirst]
  by_cases hcount : s.store.promptPages < field16 f1 f0 + field16 c1 c0
  case pos => rw [if_pos hcount, if_pos (.inr ⟨hfirst, hcount⟩)]
  rw [if_neg hcount, if_neg (by rintro (h | ⟨-, h⟩); exacts [hid h, hcount h])]

/-- While RESET is high, a command that waits in the holder in stage WORKING (R179). -/
theorem event_deferred {s z : State} {kind tag : Octet} {fields : List Octet} {owner : State → Work}
    (hready : s.ready) (ho : owner (s.held kind tag fields) = .deferred z) :
    event (holderTake kind tag fields owner) s = .next z := by
  obtain ⟨hreset, hholder, -⟩ := hready
  rw [event_taken hreset, holderTake_deferred hholder ho]

/-- Settles O47. -/
theorem promptCommands : Obligations.PromptCommands := by
  intro tag a2 a1 a0 p1 p0 id f1 f0 c1 c0 l s hready hmin hmax pageLoad dir pages page offset may waits
  have hlen : ¬ (l.length = 0 ∨ 56 < l.length) := by omega
  refine ⟨fun hnot => ?refused, fun hmay => ⟨fun hbad => ?pageBad, fun hpage hfit => ?pageLoaded, fun hbad => ?dirBad,
    fun k hk hfit => ?dirSet, ?erase, fun hnone => ?noTarget, fun q hq => ?target, fun hbad => ?blankBad, fun hfit => ?blank⟩⟩
  case refused =>
    have hp (kind : Octet) (fields : List Octet) : (s.held kind tag fields).promptReady = false :=
      Bool.eq_false_iff.mpr fun h => hnot ((State.promptReady_iff s).mp h)
    have hp' (kind : Octet) (fields : List Octet) : ¬ (s.held kind tag fields).promptReady = true := by simp [hp]
    simp only [List.forall_mem_cons, List.not_mem_nil, false_implies, implies_true, and_true]
    exact ⟨event_refused hready ((if_neg hlen).trans (if_pos (hp _ _))), event_refused hready (if_pos (hp _ _)),
      event_refused hready (if_neg (hp' _ _)), event_refused hready (if_pos (hp _ _)), event_refused hready (if_pos (hp _ _)),
      event_refused hready (if_pos (hp _ _))⟩
  all_goals
    have hp (kind : Octet) (fields : List Octet) : (s.held kind tag fields).promptReady = true :=
      (State.promptReady_iff s).mpr hmay
    have hp' (kind : Octet) (fields : List Octet) : ¬ (s.held kind tag fields).promptReady = false := by simp [hp]
  case pageBad => exact event_refused hready ((workPromptPage_ready hmin hmax (hp _ _)).trans (if_pos hbad))
  case pageLoaded =>
    have hgood : ¬ (pages ≤ page ∨ 512 < offset + l.length) := by omega
    refine ⟨_, event_effect hready ((workPromptPage_ready hmin hmax (hp _ _)).trans (if_neg hgood)) rfl, rfl, ?_, fun i => ?_⟩
    · exact (LoadBuffer.target_write _ _ _).trans (LoadBuffer.target1_eq page s.store.buffer).1
    · obtain ⟨-, hkept⟩ := LoadBuffer.target1_eq page s.store.buffer
      have hwritten := LoadBuffer.getElem_write offset l (s.store.buffer.target1 page) i
      by_cases hin : offset ≤ i.val ∧ i.val < offset + l.length
      · rw [if_pos hin] at hwritten ⊢
        exact hwritten
      · rw [if_neg hin] at hwritten ⊢
        obtain ⟨hdata, hsent⟩ := hwritten
        have := hkept i
        rw [← hdata, ← hsent] at this
        exact this
  case dirBad => exact event_refused hready ((workPromptDir_ready (hp _ _)).trans (if_pos hbad))
  case dirSet =>
    have hlt := k.isLt
    have hgood : ¬ (31 < id.toNat ∨ field16 f1 f0 ≠ 65535 ∧ pages < field16 f1 f0 + field16 c1 c0) := by omega
    have hid : Fin.ofNat 32 id.toNat = k := Fin.ext (by rw [← hk]; exact Nat.mod_eq_of_lt hlt)
    have hwork := (workPromptDir_ready (hp 0x59 [id, f1, f0, c1, c0])).trans (if_neg hgood)
    rw [hid] at hwork
    exact event_effect hready hwork rfl
  case erase => exact event_deferred hready (if_pos (hp _ _))
  case noTarget =>
    have hwork (kind : Octet) : (s.held kind tag []).store.buffer.target = none := hnone
    refine ⟨event_refused hready ?_, event_refused hready ?_⟩
    · rw [workPromptCommit, if_neg (hp' _ _), hwork]
    · rw [workPromptVerify, if_neg (hp' _ _), hwork]
  case target =>
    have hwork (kind : Octet) : (s.held kind tag []).store.buffer.target = some q := hq
    refine ⟨event_deferred (z := waits 0x56 [] (.promptCommit q)) hready ?_,
      event_deferred (z := waits 0x57 [] (.promptVerify q)) hready ?_⟩
    · rw [workPromptCommit, if_neg (hp' _ _), hwork]
      rfl
    · rw [workPromptVerify, if_neg (hp' _ _), hwork]
      rfl
  case blankBad => exact event_refused hready ((if_neg (hp' _ _)).trans (if_pos hbad))
  case blank => exact event_deferred hready ((if_neg (hp' _ _)).trans (if_neg (Nat.not_le.mpr hfit)))

end Sys2Proof.Machine
end


section
-- The proofs are elaborated one after another: the waiting threads would take the memory that the check allows.
set_option Elab.async false
/-! SUPPORT. HOOK and LAMP_SENSE (R131, R137, R138), unit boundaries (R157), and the completions of erases, marks and prompt
jobs (R101, R111, R124–R126). -/

namespace Sys2Proof.Machine

/-! ## HOOK and LAMP_SENSE -/

theorem LampRecord.lit_iff (l : LampRecord) :
    l.lit = true ↔ l.ordered = some .steady ∨ l.ordered = some .slow ∨ l.ordered = some .fast := by
  rw [LampRecord.lit]
  split <;> simp [*]

/-- A failed check of a lamp that is not lit (R137). -/
theorem senseFailed_dark {r : RoomIx} {s : State} (h : ¬ (s.room r).lamp.lit = true) : senseFailed r s = s := if_neg h

/-- A failed check of a lit lamp (R137). -/
theorem senseFailed_lit {r : RoomIx} {s : State} (h : (s.room r).lamp.lit = true) :
    senseFailed r s =
      if (s.classOf r).faultThreshold ≤ min ((s.room r).lamp.failures + 1) 8 ∧ (s.room r).lamp.fault = false then
        place .lampFault (s.updLamp r fun l => { l with failures := min ((s.room r).lamp.failures + 1) 8, fault := true })
      else s.updLamp r fun l => { l with failures := min ((s.room r).lamp.failures + 1) 8 } := by
  simp only [senseFailed, if_pos h]
  by_cases hlatch : (s.classOf r).faultThreshold ≤ min ((s.room r).lamp.failures + 1) 8 ∧ (s.room r).lamp.fault = false
  · rw [if_pos hlatch]
    simp only [hlatch.1, hlatch.2, decide_true, Bool.not_false, Bool.and_true, Bool.or_true, if_true]
  · rw [if_neg hlatch]
    have hnot : (decide ((s.classOf r).faultThreshold ≤ min ((s.room r).lamp.failures + 1) 8) && !(s.room r).lamp.fault) = false := by
      rw [Bool.eq_false_iff]
      simpa using hlatch
    simp only [hnot, Bool.or_false, Bool.false_eq_true, if_false]

/-- An OPEN or SHORT of a room's lamp is a failed check of it (R137). -/
theorem takeSense_failed {x : Nat} {res : Sense} {r : RoomIx} {s : State} (hr : s.lookup x = some r)
    (hres : res = .openLine ∨ res = .short) : takeSense x res s = senseFailed r s := by
  rcases hres with rfl | rfl <;> simp only [takeSense, hr]

/-- Settles O35. -/
theorem hookAndSenseEvents : Obligations.HookAndSenseEvents := by
  intro x off s hreset hx
  have hhook : exec (.hook x off) s = .next (takeHook x off s) := event_taken hreset
  have hsense (res : Sense) : exec (.lampSense x res) s = .next (takeSense x res s) := event_taken hreset
  have hfits : extensionFits x = true := decide_eq_true hx
  simp only [hhook, hsense]
  rw [takeHook, if_pos hfits]
  refine ⟨fun hnone => ?unknown, fun r hr => ⟨?hook, ?ok, ?absent, fun res hres => ?failed⟩⟩
  case unknown => simp only [takeSense, hnone, implies_true, and_self]
  case hook => rw [hr]; rfl
  case ok => rw [takeSense, hr]; rfl
  case absent => rw [takeSense, hr]; rfl
  case failed =>
    rw [← LampRecord.lit_iff, takeSense_failed hr hres]
    refine ⟨fun hdark => ?dark, fun hlit hnot => ?counted, fun hlit hlatch hqueue => ?latched⟩
    case dark => rw [senseFailed_dark hdark]
    case counted => rw [senseFailed_lit hlit, if_neg hnot]; rfl
    case latched =>
      rw [senseFailed_lit hlit, if_pos hlatch, place_eq_placed (by exact hqueue)]
      dsimp only [State.placed, State.updLamp, State.updRoom, State.setRoom]
      by_cases hempty : s.attention = 0
      · simp only [if_pos hempty]
      · simp only [if_neg hempty, List.append_nil]

/-! ## Unit boundaries -/

/-- The meter at a credit cut (R155). -/
theorem creditCut_eq (m : MeterIx) (x : Meter) (s : State) :
    creditCut m x s =
      (s.setMeter m (some (Meter.cutForCredit (s.classOf x.room).markup x))).denied x.trunk x.room .credit := by
  rw [creditCut, deny_eq]
  rfl

theorem State.denied_setMeter (s : State) (m : MeterIx) (x : Option Meter) (t : TrunkIx) (r : RoomIx) (why : Denial) :
    (s.setMeter m x).denied t r why = { s.denied t r why with meters := s.meters.set m x } := by
  by_cases hq : s.link.queue.length < 64
  · rw [State.denied, State.denied, if_pos (by exact hq), if_pos hq]
    rfl
  · rw [State.denied, State.denied, if_neg (by exact hq), if_neg hq]
    rfl

/-- A meter at a unit boundary, before the unit (R157). -/
def Meter.atBoundary (s : State) (x : Meter) : Meter :=
  { x with flags := { x.flags with clockUnset := x.flags.clockUnset || s.clock.unset } }

theorem boundary_barred {m : MeterIx} {x : Meter} {s : State} (hm : s.meter m = some x)
    (hbarred : (s.room x.room).barred = true) : boundary m s = creditCut m (x.atBoundary s) s := by
  rw [boundary, hm]
  exact if_pos hbarred

theorem boundary_charged {m : MeterIx} {x : Meter} {b : Fin 32} {s : State} (hm : s.meter m = some x)
    (hband : x.band = some b) (hopen : (s.room x.room).barred = false) :
    boundary m s =
      evaluateRoom x.room (s.setMeter m (some { Meter.adds (s.bandPeriod b s.periodInForce).cu (x.atBoundary s) with
        units := min (x.units + 1) 16777215, countdown := some (s.bandPeriod b s.periodInForce).u })) := by
  rw [boundary, hm]
  refine (if_neg (by simp [hopen])).trans ?_
  split
  case h_1 hnone => exact absurd (hnone.symm.trans hband) (by simp)
  case h_2 b' hb =>
    obtain rfl : b' = b := Option.some.inj (hb.symm.trans hband)
    rfl

/-- Settles O33. -/
theorem unitBoundaries : Obligations.UnitBoundaries := by
  intro m x b s hreset hm
  have hexec : exec (.unitBoundary m) s = .next (boundaryDue m s) := event_taken hreset
  rw [hexec, boundaryDue, hm]
  refine ⟨fun hnot => ?notDue, fun hstate hcount hband => ⟨fun hbarred => ?barred, fun hopen => ?charged⟩⟩
  case notDue => exact congrArg Host.Outcome.next (if_neg fun h => hnot.elim (· h.2) (· h.1))
  all_goals refine congrArg Host.Outcome.next ((if_pos ⟨hstate, hcount⟩).trans ?_)
  case barred =>
    rw [boundary_barred hm hbarred, creditCut_eq, State.denied_setMeter]
    rfl
  case charged => exact boundary_charged hm hband hopen

/-! ## Erases and marks -/

/-- A port operation ends (R94). -/
theorem endOp_idle (pass : Bool) (read : List Octet) (s : State) :
    endOp .idle (readyCycles pass read) s = s.opEnded pass read := rfl

/-- The store-low test when a placement finds an entry free for its frame (R115, R184). -/
theorem storeLowTest_lowTested {s : State} (h : s.attention = 0 → s.link.queue.length < 64) : storeLowTest s = s.lowTested := by
  have herasing : (if s.store.erasing.isSome then 1 else 0) = if s.store.erasing = none then 0 else 1 := by
    cases s.store.erasing <;> rfl
  simp only [storeLowTest, State.lowTested, Store.low, herasing, place_placed h]

/-- After a placement the attention set is not empty, so that the store-low test brings no frame. -/
theorem storeLowTest_placed (k : Attention) (s : State) : storeLowTest (s.placed k) = (s.placed k).lowTested :=
  storeLowTest_lowTested fun h => absurd h (placed_attention_ne s k)

theorem eraseDone_passed {b : Nat} {s : State} (hq : s.link.queue.length < 64) :
    eraseDone true b s =
      State.lowTested { s with store := { s.store with erasing := none, free := s.store.free ++ [b] } } := by
  rw [eraseDone, if_pos rfl, storeLowTest_eq (by exact hq)]

theorem eraseDone_failed {b : Nat} {s : State} (hq : s.link.queue.length < 64) :
    eraseDone false b s =
      (State.placed { s with store := { s.store with
        erasing := none, bad := if b ∈ s.store.bad then s.store.bad else s.store.bad ++ [b] } } .flashFault).lowTested := by
  rw [eraseDone, if_neg (by decide), place_eq_placed (by exact hq), storeLowTest_placed, badInsert_eq]

/-- The store when a message of the directory is reclaimed (R112, R113). -/
def Store.reclaimed (n : Nat) (m : Message) (t : Store) : Store :=
  { t with messages := t.messages.filter fun m => m.serial ≠ n
           dirty := t.dirty ++ (m.blocks.filter (!·.retire)).map (·.block)
           bad := ((m.blocks.filter (·.retire)).map (·.block)).foldl (fun l b => if b ∈ l then l else l ++ [b]) t.bad }

theorem reclaim_eq {n : Nat} {m : Message} {s : State} (hm : s.message n = some m)
    (hq : s.attention = 0 → s.link.queue.length < 64) :
    reclaim n s = State.lowTested { s with store := s.store.reclaimed n m } := by
  rw [reclaim, hm]
  exact (storeLowTest_lowTested (by exact hq)).trans (by simp only [releaseBlocks, badInsert_eq]; rfl)

/-- What a mark's completion gives the store, the mark being no longer in progress (R111). -/
theorem markDone_heard {n : Nat} {s : State} (pass : Bool) (h : s.store.marking = some (n, .heard)) :
    markDone pass s =
      if pass then { s with store := { s.store with marking := none } }
      else place .flashFault { s with store := { s.store with marking := none } } := by
  simp only [markDone, h, markFailed]

theorem markDone_deleted {n : Nat} {s : State} (pass : Bool) (h : s.store.marking = some (n, .deleted)) :
    markDone pass s =
      reclaim n (if pass then { s with store := { s.store with marking := none } }
        else place .flashFault { s with store := { s.store with marking := none } }) := by
  simp only [markDone, h, markFailed]
  cases pass <;> rfl

/-- Settles O50. -/
theorem erasesAndMarksComplete : Obligations.ErasesAndMarksComplete := by
  intro s hreset hqueue
  have herase (ok : Bool) : exec (.eraseComplete ok) s = .next (takeErase ok s) := event_taken hreset
  have hmark (ok : Bool) : exec (.markComplete ok) s = .next (takeMark ok s) := event_taken hreset
  simp only [herase, hmark, takeErase, takeMark, endOp_idle, drainTest_eq]
  refine ⟨fun b hop => ?erase, fun page spare n hop => ⟨fun hheard => ?heard, fun m hdeleted hm => ?deleted⟩,
    fun hop ok => ?noErase, fun hop ok => ?noMark⟩
  case erase =>
    simp only [hop]
    exact ⟨congrArg _ (eraseDone_passed hqueue), congrArg _ (eraseDone_failed hqueue)⟩
  case heard =>
    simp only [hop]
    refine ⟨congrArg _ (congrArg _ (markDone_heard (s := s.opEnded true []) true hheard)), congrArg _ (congrArg _ ?_)⟩
    exact (markDone_heard (s := s.opEnded false []) false hheard).trans (place_eq_placed (by exact hqueue) _)
  case deleted =>
    simp only [hop]
    refine ⟨congrArg _ (congrArg _ ?_), congrArg _ (congrArg _ ?_)⟩
    · exact (markDone_deleted (s := s.opEnded true []) true hdeleted).trans (reclaim_eq hm fun _ => hqueue)
    · rw [markDone_deleted false (by exact hdeleted), if_neg (by decide), place_eq_placed (by exact hqueue)]
      exact reclaim_eq hm fun h => absurd h (placed_attention_ne _ _)
  case noErase =>
    split
    · exact absurd ‹_› (hop _)
    · rfl
  case noMark =>
    split
    · exact absurd ‹_› (hop _ _)
    · rfl

/-! ## Prompt jobs -/

theorem State.placed_holder (s : State) (k : Attention) : (s.placed k).link.holder = s.link.holder := by
  rw [State.placed]
  split <;> rfl

/-- The reply of a prompt job, with an entry free (R179). -/
theorem jobReply_eq {h : Held} {s : State} (hh : s.link.holder = some h) (hq : s.link.queue.length < 64) (st : Status)
    (data : List Octet) :
    jobReply st data s = State.answered { s with store := { s.store with job := .none } } h.tag st data := by
  rw [jobReply, buildReply_eq (h := h) (by exact hh), if_pos (by exact hq)]
  rfl

/-- The reply of a prompt job that failed: FLASH_FAULT comes first (R91, R184). -/
theorem jobReply_fault {h : Held} {s : State} (hh : s.link.holder = some h) (hq : s.link.queue.length < 63) (st : Status)
    (data : List Octet) :
    jobReply st data (faultIf true s) =
      State.answered { s.placed .flashFault with store := { (s.placed .flashFault).store with job := .none } } h.tag st data := by
  have hlength := State.placed_length s .flashFault
  rw [faultIf, if_pos rfl, place_eq_placed (by omega)]
  exact jobReply_eq ((State.placed_holder s _).trans hh) (by omega) st data

theorem LoadBuffer.matches_iff (b : LoadBuffer) (d : Vector Octet 512) :
    b.matches d = true ↔ ∀ i : Fin 512, b.sent[i] = true → b.data[i] = d[i] := by
  simp only [LoadBuffer.matches, List.all_eq_true, List.mem_finRange, true_implies, Bool.or_eq_true, Bool.not_eq_true',
    beq_iff_eq]
  exact forall_congr' fun i => by cases b.sent[i] <;> simp

theorem blankOctets_iff {n : Nat} (d : Vector Octet n) : blankOctets d.toList = true ↔ ∀ i : Fin n, d[i] = 0xFF := by
  simp only [blankOctets, List.all_eq_true, beq_iff_eq, Vector.mem_toList_iff]
  constructor
  · exact fun h i => h _ (Vector.getElem_mem i.isLt)
  · intro h o ho
    obtain ⟨i, hi, rfl⟩ := Vector.getElem_of_mem ho
    exact h ⟨i, hi⟩

/-- A prompt-area erase completes, the failed count and list being what its status makes of them (R126). -/
theorem promptEraseDone_eq {next failed : Nat} {l : List Nat} {s : State} (ok : Bool)
    (h : s.store.job = .promptErase next failed l) :
    promptEraseDone ok s =
      let failed' := if ok = true then failed else failed + 1
      let l' := if ok = true ∨ 28 ≤ l.length then l else l ++ [next]
      if next + 1 < s.store.promptBlocks then s.setJob (.promptErase (next + 1) failed' l')
      else jobReply .ok (octets2 failed' ++ l'.flatMap octets2) (faultIf (0 < failed') s) := by
  simp only [promptEraseDone, h, Bool.or_eq_true, decide_eq_true_eq]

theorem exec_promptEraseComplete {s : State} {b : Nat} (hreset : s.resetLow = false) (hop : s.port.op = some (.promptErase b))
    (ok : Bool) : exec (.promptEraseComplete ok) s = .next (promptEraseDone ok (s.opEnded ok [])) :=
  event_handed hreset (by simp only [takePromptErase, hop, endOp_idle])

theorem exec_promptProgramComplete {s : State} {page : Nat} {data spare : List Octet} (hreset : s.resetLow = false)
    (hop : s.port.op = some (.promptProgram page data spare)) (ok : Bool) :
    exec (.promptProgramComplete ok) s = .next (promptProgramDone ok (s.opEnded ok [])) :=
  event_handed hreset (by simp only [takePromptProgram, hop, endOp_idle])

theorem exec_promptReadComplete {s : State} {page : Nat} (hreset : s.resetLow = false)
    (hop : s.port.op = some (.promptRead page)) :
    (∀ d, exec (.promptReadComplete (.page d)) s = .next (promptPageRead (some d) (s.opEnded true d.toList))) ∧
      exec (.promptReadComplete .fail) s = .next (promptPageRead none (s.opEnded false [])) :=
  ⟨fun d => event_handed hreset (by simp only [takePromptRead, hop, endOp_idle]),
    event_handed hreset (by simp only [takePromptRead, hop, endOp_idle])⟩

theorem exec_promptSpareComplete {s : State} {page : Nat} (hreset : s.resetLow = false)
    (hop : s.port.op = some (.promptReadSpare page)) :
    (∀ d, exec (.promptReadComplete (.spare d)) s = .next (promptSpareRead (some d) (s.opEnded true d.toList))) ∧
      exec (.promptReadComplete .fail) s = .next (promptSpareRead none (s.opEnded false [])) :=
  ⟨fun d => event_handed hreset (by simp only [takePromptRead, hop, endOp_idle]),
    event_handed hreset (by simp only [takePromptRead, hop, endOp_idle])⟩

/-- What a READ_PAGE gives a verify (R125). -/
theorem promptPageRead_verify {q : Nat} {s : State} (h : s.store.job = .promptVerify q) :
    (∀ d, promptPageRead (some d) s =
      jobReply (if ∀ i : Fin 512, s.store.buffer.sent[i] = true → s.store.buffer.data[i] = d[i] then .ok else .mismatch) [] s) ∧
    promptPageRead none s = jobReply .mismatch [] (faultIf true s) := by
  simp only [promptPageRead, h, LoadBuffer.matches_iff, implies_true, and_self]

/-- What a READ_PAGE gives a blank check (R125). -/
theorem promptPageRead_blank {q : Nat} {s : State} (h : s.store.job = .promptBlank q) :
    (∀ d, promptPageRead (some d) s = s.setJob (.promptBlankSpare q (d.toList.all (· == 0xFF)))) ∧
    promptPageRead none s = jobReply .notBlank [] (faultIf true s) := by
  simp only [promptPageRead, h, blankOctets, implies_true, and_self]

/-- What a READ_SPARE gives a blank check (R125). -/
theorem promptSpareRead_eq {q : Nat} {blank : Bool} {s : State} (h : s.store.job = .promptBlankSpare q blank) :
    (∀ d, promptSpareRead (some d) s =
      jobReply (if blank = true ∧ ∀ i : Fin 16, d[i] = 0xFF then .ok else .notBlank) [] s) ∧
    promptSpareRead none s = jobReply .notBlank [] (faultIf true s) := by
  simp only [promptSpareRead, h, Bool.and_eq_true, blankOctets_iff, implies_true, and_self]

/-- Settles O52. -/
theorem promptCompletions : Obligations.PromptCompletions := by
  intro h s hreset hh hq ends
  have hreply (ok : Bool) (data : List Octet) (st : Status) (answer : List Octet) :
      jobReply st answer (s.opEnded ok data) = ends (s.opEnded ok data) st answer :=
    jobReply_eq (s := s.opEnded ok data) hh (Nat.lt_succ_of_lt hq) st answer
  have hfault (ok : Bool) (st : Status) (answer : List Octet) :
      jobReply st answer (faultIf true (s.opEnded ok [])) = ends ((s.opEnded ok []).placed .flashFault) st answer :=
    jobReply_fault (s := s.opEnded ok []) hh hq st answer
  refine ⟨?erase, fun page data spare hop => ?program, fun page q hop hjob => ?verify, fun page q hop hjob => ?blank,
    fun page q blank hop hjob => ?blankSpare⟩
  case erase =>
    intro b next failed l ok hop hjob failed' l' z
    rw [exec_promptEraseComplete hreset hop, promptEraseDone_eq (s := s.opEnded ok []) ok hjob]
    have hends (data : List Octet) :
        jobReply .ok data (faultIf (0 < failed') z) = ends (if failed' = 0 then z else z.placed .flashFault) .ok data := by
      by_cases hnone : failed' = 0
      · rw [if_pos hnone, decide_eq_false (Nat.not_lt.mpr (Nat.le_of_eq hnone))]
        exact hreply ok [] .ok data
      · rw [if_neg hnone, decide_eq_true (Nat.pos_of_ne_zero hnone)]
        exact hfault ok .ok data
    exact ⟨fun hmore => congrArg _ (if_pos hmore),
      fun hlast => congrArg _ ((if_neg (Nat.not_lt.mpr hlast)).trans (hends _))⟩
  case program =>
    rw [exec_promptProgramComplete hreset hop, exec_promptProgramComplete hreset hop]
    exact ⟨congrArg _ (hreply true [] .ok []), congrArg _ (hfault false .full [])⟩
  case verify =>
    obtain ⟨hpassed, hfailed⟩ := exec_promptReadComplete hreset hop
    refine ⟨fun d => ?_, ?_⟩
    · rw [hpassed, (promptPageRead_verify (s := s.opEnded true d.toList) hjob).1, hreply]
      rfl
    · rw [hfailed, (promptPageRead_verify (s := s.opEnded false []) hjob).2, hfault]
  case blank =>
    obtain ⟨hpassed, hfailed⟩ := exec_promptReadComplete hreset hop
    refine ⟨fun d => ?_, ?_⟩
    · rw [hpassed, (promptPageRead_blank (s := s.opEnded true d.toList) hjob).1]
      rfl
    · rw [hfailed, (promptPageRead_blank (s := s.opEnded false []) hjob).2, hfault]
  case blankSpare =>
    obtain ⟨hpassed, hfailed⟩ := exec_promptSpareComplete hreset hop
    refine ⟨fun d => ?_, ?_⟩
    · rw [hpassed, (promptSpareRead_eq (s := s.opEnded true d.toList) hjob).1, hreply]
    · rw [hfailed, (promptSpareRead_eq (s := s.opEnded false []) hjob).2, hfault]

end Sys2Proof.Machine
end


section
-- The proofs are elaborated one after another: the waiting threads would take the memory that the check allows.
set_option Elab.async false
/-! SUPPORT. FLASH_TIMEOUT and the ends of recovery and of the start (R94, R95). What a failed completion does reads neither the
port's state nor its pins, so that it commutes with what the timeout leaves there. -/

namespace Sys2Proof.Machine

/-- `s` with the port in state `a`, its pins having carried `d`. -/
def State.pins (a : PortState) (d : FlashDrive) (s : State) : State :=
  { s with port := { s.port with state := a, drive := d } }

theorem pins_reads (a : PortState) (d : FlashDrive) (s : State) : (s.pins a d).attention = s.attention ∧ (s.pins a d).freeEntries = s.freeEntries ∧
    (s.pins a d).link = s.link ∧ (s.pins a d).store = s.store ∧ (s.pins a d).message = s.message ∧
    (s.pins a d).programming = s.programming ∧ (s.pins a d).canAllocate = s.canAllocate ∧
    (s.pins a d).chan = s.chan ∧ (s.pins a d).ring = s.ring ∧ (s.pins a d).encoder = s.encoder ∧
    (s.pins a d).room = s.room ∧ (s.pins a d).programLeft = s.programLeft ∧ (s.pins a d).programHeld = s.programHeld ∧
    (s.pins a d).readHeld = s.readHeld := ⟨rfl, rfl, rfl, rfl, rfl, rfl, rfl, rfl, rfl, rfl, rfl, rfl, rfl, rfl⟩

section
variable {a : PortState} {d : FlashDrive} {s z : State} (h : z = s.pins a d)
include h

theorem place_pins (k : Attention) : place k z = (place k s).pins a d := by
  subst h
  simp only [place, pins_reads]
  split
  · rfl
  split
  · rfl
  split <;> rfl

theorem offerNotice_pins (f : OutFrame) : offerNotice f z = (offerNotice f s).pins a d := by
  subst h
  simp only [offerNotice, pins_reads]
  split
  · rfl
  · exact place_pins (by rfl) _

theorem buildReply_pins (st : Status) (l : List Octet) : buildReply st l z = (buildReply st l s).pins a d := by
  subst h
  simp only [buildReply, pins_reads]
  split
  · rfl
  split <;> rfl

theorem storeLowTest_pins : storeLowTest z = (storeLowTest s).pins a d := by
  subst h
  by_cases hlow : s.store.mounted = true ∧
      s.store.free.length + s.store.dirty.length + (if s.store.erasing.isSome then 1 else 0) < s.store.lowWater
  · rw [storeLowTest, storeLowTest, if_pos hlow, if_pos (by exact hlow)]
    exact place_pins (by rfl) _
  · rw [storeLowTest, storeLowTest, if_neg hlow, if_neg (by exact hlow)]

theorem reclaim_pins (n : Nat) : reclaim n z = (reclaim n s).pins a d := by
  subst h
  simp only [reclaim, pins_reads]
  split
  · rfl
  · exact storeLowTest_pins (by rfl)

theorem markFailed_pins (k : MarkKind) (n : Nat) : markFailed k n z = (markFailed k n s).pins a d := by
  cases k with
  | heard => exact place_pins h _
  | deleted => exact reclaim_pins (place_pins h _) n

theorem queueMark_pins (k : MarkKind) (n : Nat) : queueMark k n z = (queueMark k n s).pins a d := by
  subst h
  cases k
  all_goals
    simp only [queueMark, pins_reads]
    split
    · rfl
    split
    · rfl
    · exact markFailed_pins (by rfl) _ n

theorem settle_pins (n : Nat) : settle n z = (settle n s).pins a d := by
  subst h
  simp only [settle, pins_reads]
  split
  · rfl
  split
  · exact queueMark_pins (by rfl) _ n
  · rfl

theorem deletePath_pins (n : Nat) : deletePath n z = (deletePath n s).pins a d := by
  subst h
  simp only [deletePath, pins_reads]
  split
  · rfl
  split
  · rfl
  split
  · exact reclaim_pins (by rfl) n
  · exact settle_pins (by rfl) n

theorem commit_pins (n v : Nat) : commit n v z = (commit n v s).pins a d := by
  subst h
  simp only [commit, pins_reads]
  split
  · rfl
  split
  · exact deletePath_pins (by rfl) n
  · rfl

theorem allocate_pins (n g : Nat) : allocate n g z = (allocate n g s).pins a d := by
  subst h
  simp only [allocate, pins_reads]
  split
  · rfl
  · exact storeLowTest_pins (by rfl)

theorem givePage_pins (n : Nat) : givePage n z = ((givePage n s).1, (givePage n s).2.pins a d) := by
  subst h
  have hallocated := allocate_pins (s := s) (a := a) (d := d) rfl n 1
  simp only [givePage, pins_reads, hallocated]
  repeat' split
  all_goals rfl

theorem startList_pins (c : ChannelIx) (l : List PlayItem) : startList c l z = (startList c l s).pins a d := by
  induction l generalizing s z with
  | nil => rw [h]; rfl
  | cons i l ih =>
    cases i with
    | message n => rw [h]; rfl
    | prompt id =>
      have hstore : z.store = s.store := by rw [h]; rfl
      cases hp : s.store.prompts[id] with
      | none =>
        simp only [startList, hstore, hp]
        exact ih (place_pins h _)
      | some e =>
        simp only [startList, hstore, hp]
        rw [h]
        rfl

theorem setList_pins (c : ChannelIx) (l : List PlayItem) : setList c l z = (setList c l s).pins a d := by
  subst h
  exact startList_pins (by rfl) c l

theorem leaveMessage_pins (c : ChannelIx) : leaveMessage c z = (leaveMessage c s).pins a d := by
  subst h
  simp only [leaveMessage, pins_reads]
  split
  · exact settle_pins (by rfl) _
  · rfl

theorem enterFree_pins (c : ChannelIx) : enterFree c z = (enterFree c s).pins a d := by
  subst h
  have hleft := leaveMessage_pins (s := s) (a := a) (d := d) rfl c
  simp only [enterFree, pins_reads, hleft]
  split <;> rfl

theorem closingEnd_pins (c : ChannelIx) : closingEnd c z = (closingEnd c s).pins a d := by
  subst h
  simp only [closingEnd, pins_reads]
  split
  · exact enterFree_pins (offerNotice_pins (by rfl) _) c
  · exact enterFree_pins (by rfl) c

theorem enterClosing_pins (c : ChannelIx) (l : List PlayItem) : enterClosing c l z = (enterClosing c l s).pins a d := by
  have hlist : setList c l (z.updChan c fun x => { x with state := .closing }) =
      (setList c l (s.updChan c fun x => { x with state := .closing })).pins a d := setList_pins (by rw [h]; rfl) c l
  simp only [enterClosing, hlist, pins_reads]
  split
  · exact closingEnd_pins (by rfl) c
  · rfl

theorem flushEnd_pins (c : ChannelIx) : flushEnd c z = (flushEnd c s).pins a d := by
  subst h
  cases hcurrent : (s.chan c).current with
  | none =>
    simp only [flushEnd, pins_reads, hcurrent]
    split
    · exact enterClosing_pins (by rfl) c _
    · exact enterFree_pins (by rfl) c
  | some n =>
    have hcommitted := commit_pins (s := s) (a := a) (d := d) rfl n (s.encoder c).voiceFrames
    simp only [flushEnd, pins_reads, hcurrent, hcommitted]
    split
    · exact enterClosing_pins (by rfl) c _
    · exact enterFree_pins (by rfl) c

theorem flushTest_pins (c : ChannelIx) : flushTest c z = (flushTest c s).pins a d := by
  subst h
  simp only [flushTest, pins_reads]
  split
  · exact flushEnd_pins (by rfl) c
  · rfl

theorem exhaust_pins (c : ChannelIx) : exhaust c z = (exhaust c s).pins a d := by
  subst h
  have hplaced : (if s.store.free.isEmpty then place .storeFull (s.pins a d) else s.pins a d) =
      (if s.store.free.isEmpty then place .storeFull s else s).pins a d := by
    split
    · exact place_pins (by rfl) _
    · rfl
  simp only [exhaust, pins_reads, hplaced]
  generalize (if s.store.free.isEmpty then place .storeFull s else s) = y
  have hdiscarded (f : Ring → Ring) : (y.pins a d).updRing c f = (y.updRing c f).pins a d := rfl
  simp only [hdiscarded, pins_reads]
  split
  · exact flushTest_pins (by rfl) c
  · exact flushTest_pins (by rfl) c

theorem raiseProgram_pins (c : ChannelIx) : raiseProgram c z = (raiseProgram c s).pins a d := by
  subst h
  have hgiven := givePage_pins (s := s) (a := a) (d := d) rfl ((s.chan c).current.getD 0)
  simp only [raiseProgram, pins_reads, hgiven]
  split
  · rcases hgiven : givePage ((s.chan c).current.getD 0) s with ⟨_ | ⟨b, p⟩, z⟩
    · exact exhaust_pins (by rfl) c
    · rfl
  · rfl

theorem raisePrograms_pins (c : ChannelIx) : raisePrograms c z = (raisePrograms c s).pins a d :=
  raiseProgram_pins (raiseProgram_pins h c) c

theorem flushProgrammed_pins (c : ChannelIx) :
    flushTest c (raisePrograms c z) = (flushTest c (raisePrograms c s)).pins a d := flushTest_pins (raisePrograms_pins h c) c

theorem retryProgram_pins (c : ChannelIx) (n b : Nat) : retryProgram c n b z = (retryProgram c n b s).pins a d := by
  subst h
  have hallocated := allocate_pins (s := s) (a := a) (d := d) rfl n 1
  simp only [retryProgram, pins_reads, hallocated]
  split
  · rfl
  split
  · rfl
  split
  · rfl
  · exact exhaust_pins (by rfl) c

theorem blockRetired_pins (n b : Nat) : blockRetired n b z = (blockRetired n b s).pins a d := by
  subst h
  exact place_pins (by rfl) _

theorem programDone_pins (pass : Bool) (c : ChannelIx) (n b p : Nat) (head : Bool) :
    programDone pass c n b p head z = (programDone pass c n b p head s).pins a d := by
  subst h
  cases pass with
  | false =>
    simp only [programDone, Bool.false_eq_true, if_false]
    exact retryProgram_pins (blockRetired_pins rfl n b) c n b
  | true =>
    simp only [programDone, if_true, programPassed]
    exact flushProgrammed_pins (by rfl) c

theorem programAccepted_pins (pass : Bool) (n b p : Nat) (head : Bool) :
    programAccepted pass n b p head z = (programAccepted pass n b p head s).pins a d := by
  subst h
  simp only [programAccepted, pins_reads]
  cases pass with
  | false =>
    split
    · exact settle_pins (blockRetired_pins (by rfl) n b) n
    · exact place_pins (by rfl) _
  | true =>
    split
    · exact settle_pins (by rfl) n
    · rfl

theorem heldProgramDone_pins (pass : Bool) (c : ChannelIx) (n b p : Nat) (head : Bool) :
    heldProgramDone pass c n b p head z = (heldProgramDone pass c n b p head s).pins a d := by
  subst h
  have haccepted := programAccepted_pins (s := s) (a := a) (d := d) rfl pass n b p head
  simp only [heldProgramDone, pins_reads, haccepted]
  split
  · exact raisePrograms_pins (by rfl) c
  · exact flushTest_pins (by rfl) c

theorem readFailed_pins (c : ChannelIx) (k : Nat) : readDone none c k z = (readDone none c k s).pins a d := by
  subst h
  refine place_pins ?_ _
  rcases hitem : (s.ring c).item with _ | ⟨id⟩ | ⟨n⟩ <;> simp only [pins_reads, hitem] <;> rfl

theorem eraseDone_pins (pass : Bool) (b : Nat) : eraseDone pass b z = (eraseDone pass b s).pins a d := by
  subst h
  refine storeLowTest_pins ?_
  cases pass with
  | false => exact place_pins (by rfl) _
  | true => rfl

theorem markDone_pins (pass : Bool) : markDone pass z = (markDone pass s).pins a d := by
  subst h
  simp only [markDone, pins_reads]
  split
  · rfl
  case h_2 n k _ =>
    cases pass with
    | false => exact markFailed_pins (by rfl) k n
    | true =>
      cases k with
      | heard => rfl
      | deleted => exact reclaim_pins (by rfl) n

/-! The prompt jobs and the mount. -/

theorem faultIf_pins (failed : Bool) : faultIf failed z = (faultIf failed s).pins a d := by
  cases failed with
  | false => exact h
  | true => exact place_pins h _

theorem jobReply_pins (st : Status) (l : List Octet) : jobReply st l z = (jobReply st l s).pins a d := by
  subst h
  exact buildReply_pins (by rfl) st l

theorem promptEraseDone_pins (pass : Bool) : promptEraseDone pass z = (promptEraseDone pass s).pins a d := by
  subst h
  simp only [promptEraseDone, pins_reads]
  split
  · split
    · rfl
    · exact jobReply_pins (faultIf_pins (by rfl) _) _ _
  · rfl

theorem promptReadFailed_pins : promptPageRead none z = (promptPageRead none s).pins a d := by
  subst h
  have hreply (st : Status) : jobReply st [] (faultIf true (s.pins a d)) = (jobReply st [] (faultIf true s)).pins a d :=
    jobReply_pins (faultIf_pins (by rfl) _) _ _
  cases hjob : s.store.job <;> simp only [promptPageRead, pins_reads, hjob, hreply]

theorem promptSpareFailed_pins : promptSpareRead none z = (promptSpareRead none s).pins a d := by
  subst h
  have hreply (st : Status) : jobReply st [] (faultIf true (s.pins a d)) = (jobReply st [] (faultIf true s)).pins a d :=
    jobReply_pins (faultIf_pins (by rfl) _) _ _
  cases hjob : s.store.job <;> simp only [promptSpareRead, pins_reads, hjob, hreply]

theorem enterMailboxes_pins (l : List Message) : enterMailboxes l z = (enterMailboxes l s).pins a d := by
  subst h
  exact List.foldl_hom (State.pins a d) fun _ _ => rfl

theorem evaluateLamps_pins (l : List RoomIx) :
    l.foldl (fun s r => evaluateLamp r s) z = (l.foldl (fun s r => evaluateLamp r s) s).pins a d := by
  subst h
  exact List.foldl_hom (State.pins a d) fun _ _ => rfl

theorem placeIf_pins (k : Attention) (p : Prop) [Decidable p] :
    (if p then place k z else z) = (if p then place k s else s).pins a d := by
  split
  · exact place_pins h k
  · exact h

theorem mountEnd_pins (m : MountJob) : mountEnd m z = (mountEnd m s).pins a d := by
  have hblocks : z.store.promptBlocks = s.store.promptBlocks := by rw [h]; rfl
  have hlast {y y' : State} (hy : y' = y.pins a d) :
      { place .mountDone y' with service := .setup } = State.pins a d { place .mountDone y with service := .setup } := by
    rw [place_pins hy]
    rfl
  simp only [mountEnd, hblocks]
  refine hlast (evaluateLamps_pins (storeLowTest_pins ?_) _)
  rw [placeIf_pins (enterMailboxes_pins h _) .dirFull]
  rfl

theorem mountNext_pins (m : MountJob) : mountNext m z = (mountNext m s).pins a d := by
  subst h
  simp only [mountNext, pins_reads]
  split
  · rfl
  · exact mountEnd_pins (by rfl) m

theorem mountReadFailed_pins : mountReadDone none z = (mountReadDone none s).pins a d := by
  subst h
  have hfault := faultIf_pins (s := s) (a := a) (d := d) rfl true
  simp only [mountReadDone, pins_reads, Option.isNone_none, hfault]
  split
  · split
    · exact mountNext_pins (by rfl) _
    · exact mountNext_pins (by rfl) _
  · rfl

/-- The failed completion of any operation. -/
theorem opFailed_pins (op : FlashOp) : opFailed op z = (opFailed op s).pins a d := by
  cases op with
  | ringProgram c n b p head data spare =>
    have hleft : z.programLeft c = s.programLeft c := by rw [h]; rfl
    simp only [opFailed, hleft]
    split
    · exact heldProgramDone_pins h false c n b p head
    · exact programDone_pins h false c n b p head
  | ringRead c k page =>
    have hheld : z.readHeld c = s.readHeld c := by rw [h]; rfl
    simp only [opFailed, hheld]
    split
    · rw [h]; rfl
    · exact readFailed_pins h c k
  | erase b => exact eraseDone_pins h false b
  | mark => exact markDone_pins h false
  | mountRead => exact mountReadFailed_pins h
  | promptErase => exact promptEraseDone_pins h false
  | promptProgram => exact jobReply_pins (faultIf_pins h _) _ _
  | promptRead => exact promptReadFailed_pins h
  | promptReadSpare => exact promptSpareFailed_pins h

end

theorem State.drains_pins (a : PortState) (d : FlashDrive) (s : State) : (s.pins a d).drains = s.drains.pins a d := by
  unfold State.drains
  split
  case isTrue h => rw [if_pos (by exact h)]; rfl
  case isFalse h => rw [if_neg (by exact h)]

theorem State.drains_drains (s : State) : s.drains.drains = s.drains := by
  by_cases h : s.drains.service = .suspending
  · have hstays : s.drains = s := by
      unfold State.drains at h ⊢
      split
      · rename_i hdrained
        rw [if_pos hdrained] at h
        cases h
      · rfl
    rw [hstays, hstays]
  · exact if_neg fun hdrained => h hdrained.1

/-- What the failing status of the operation in progress leaves (R94). -/
theorem exec_failedCompletion {s : State} {op : FlashOp} (hreset : s.resetLow = false) (hop : s.port.op = some op) :
    ∃ u, exec (failedCompletion s op) s = .next u ∧ u.drains = (opFailed op (s.opEnded false [])).drains := by
  cases op with
  | ringProgram c n b p head data spare =>
    by_cases hleft : s.programLeft c = true
    · refine ⟨drainTest (heldProgramDone false c n b p head (s.opEnded false [])), ?_, ?_⟩
      · rw [failedCompletion, if_pos hleft]
        exact event_handed hreset (by rw [takeHeldProgram, hop]; exact if_pos hleft)
      · rw [drainTest_eq, State.drains_drains, opFailed, if_pos (by exact hleft)]
    · refine ⟨drainTest (programDone false c n b p head (s.opEnded false [])), ?_, ?_⟩
      · rw [failedCompletion, if_neg hleft]
        exact event_handed hreset (by rw [takeProgram, hop]; exact if_neg hleft)
      · rw [drainTest_eq, State.drains_drains, opFailed, if_neg (by exact hleft)]
  | ringRead c k page =>
    by_cases hheld : s.readHeld c = true
    · refine ⟨heldReadDone c (s.opEnded false []), ?_, ?_⟩
      · rw [failedCompletion, if_pos hheld]
        exact event_handed hreset (by simp only [takeHeldRead, hop, if_pos hheld, endOp_idle])
      · rw [opFailed, if_pos (by exact hheld)]
    · refine ⟨readDone none c k (s.opEnded false []), ?_, ?_⟩
      · rw [failedCompletion, if_neg hheld]
        exact event_handed hreset (by simp only [takeRead, hop, if_neg hheld, endOp_idle])
      · rw [opFailed, if_neg (by exact hheld)]
  | mark page spare =>
    refine ⟨drainTest (markDone false (s.opEnded false [])), ?_, ?_⟩
    · exact event_handed hreset (by simp only [takeMark, hop, endOp_idle])
    · rw [drainTest_eq, State.drains_drains, opFailed]
  | erase b => exact ⟨_, event_handed hreset (by simp only [takeErase, hop, endOp_idle]; rfl), rfl⟩
  | mountRead page => exact ⟨_, event_handed hreset (by simp only [takeMountRead, hop, endOp_idle]; rfl), rfl⟩
  | promptErase b => exact ⟨_, exec_promptEraseComplete hreset hop false, rfl⟩
  | promptProgram page data spare => exact ⟨_, exec_promptProgramComplete hreset hop false, rfl⟩
  | promptRead page => exact ⟨_, (exec_promptReadComplete hreset hop).2, rfl⟩
  | promptReadSpare page => exact ⟨_, (exec_promptSpareComplete hreset hop).2, rfl⟩

/-- Settles O53. -/
theorem timeoutAndRecovery : Obligations.TimeoutAndRecovery := by
  intro s hreset
  have htimeout : exec .flashTimeout s = .next (takeTimeout s) := event_taken hreset
  refine ⟨fun hop => ?idle, fun op hop => ?timeout, ?recovery, ?start⟩
  case idle => rw [htimeout, takeTimeout, hop]
  case timeout =>
    obtain ⟨u, hexec, hu⟩ := exec_failedCompletion hreset hop
    refine ⟨u, hexec, ?_⟩
    have hended : endOp .recovering [.command 0xFF] s = (s.opEnded false []).pins .recovering (.cycles [.command 0xFF]) := rfl
    simp only [htimeout, takeTimeout, hop, drainTest_eq]
    rw [hended, opFailed_pins rfl op, State.drains_pins, ← hu, ← State.drains_pins]
    rfl
  case recovery =>
    refine event_handed hreset ?_
    by_cases h : s.port.state = .recovering
    · rw [takeRecoveryEnd, if_pos h, if_pos h]
    · rw [takeRecoveryEnd, if_neg h, if_neg h]
  case start =>
    refine event_handed hreset ?_
    by_cases h : s.port.state = .starting
    · rw [takeStartEnd, if_pos h, if_pos h]
    · rw [takeStartEnd, if_neg h, if_neg h]

end Sys2Proof.Machine
end


section
-- The proofs are elaborated one after another: the waiting threads would take the memory that the check allows.
set_option Elab.async false
/-! SUPPORT. Dialling and connection (R149–R156): the longest match of the table of prefixes, and what it decides. -/

namespace Sys2Proof.Machine

/-! ## The longest match (R149) -/

/-- What a fold over a list of entries finds: an entry of the list that leads the digits, none of the list's being longer. -/
def IsLongest (digits : List Nat) (l : List (Option DigitEntry)) : Option DigitEntry → Prop
  | none => ∀ e, some e ∈ l → ¬ e.digits <+: digits
  | some e => some e ∈ l ∧ e.digits <+: digits ∧
      ∀ e', some e' ∈ l → e'.digits <+: digits → e'.digits.length ≤ e.digits.length

/-- An entry that does not lead the digits changes nothing. -/
theorem IsLongest.passed {digits : List Nat} {l : List (Option DigitEntry)} {best : Option DigitEntry} (h : IsLongest digits l best)
    {o : Option DigitEntry} (ho : ∀ e, o = some e → ¬ e.digits <+: digits) : IsLongest digits (l ++ [o]) best := by
  have hmem {e : DigitEntry} (he : some e ∈ l ++ [o]) (hleads : e.digits <+: digits) : some e ∈ l := by
    rcases List.mem_append.mp he with he | he
    · exact he
    · exact absurd hleads (ho e (List.mem_singleton.mp he).symm)
  cases best with
  | none => exact fun e he hleads => h e (hmem he hleads) hleads
  | some b =>
    obtain ⟨hb, hleads, hlongest⟩ := h
    exact ⟨List.mem_append_left _ hb, hleads, fun e he hleads => hlongest e (hmem he hleads) hleads⟩

/-- A longer entry that leads the digits takes the place of the best. -/
theorem IsLongest.replaced {digits : List Nat} {l : List (Option DigitEntry)} {best : Option DigitEntry} (h : IsLongest digits l best)
    {x : DigitEntry} (hx : x.digits <+: digits) (hlonger : ∀ b, best = some b → b.digits.length < x.digits.length) :
    IsLongest digits (l ++ [some x]) (some x) := by
  refine ⟨List.mem_append_right _ (List.mem_singleton.mpr rfl), hx, fun e he hleads => ?_⟩
  rcases List.mem_append.mp he with he | he
  · cases best with
    | none => exact absurd hleads (h e he)
    | some b => exact (h.2.2 e he hleads).trans (hlonger b rfl).le
  · obtain rfl := Option.some.inj (List.mem_singleton.mp he)
    exact le_rfl

theorem longestMatch_isLongest (digits : List Nat) (l : List (Option DigitEntry)) :
    IsLongest digits l (longestMatch digits l) := by
  induction l using List.reverseRecOn with
  | nil => exact fun e he => absurd he List.not_mem_nil
  | append_singleton l o ih =>
    rw [longestMatch, List.foldl_append]
    change IsLongest digits (l ++ [o]) (match o with
      | some x => if x.digits.isPrefixOf digits && (longestMatch digits l).all (fun b => decide (b.digits.length < x.digits.length))
          then some x else longestMatch digits l
      | none => longestMatch digits l)
    cases o with
    | none => exact ih.passed fun e he => nomatch he
    | some x =>
      dsimp only
      by_cases hx : x.digits <+: digits
      case neg =>
        rw [if_neg (by simp [hx])]
        exact ih.passed fun e he => by rwa [← Option.some.inj he]
      by_cases hlonger : ∀ b, longestMatch digits l = some b → b.digits.length < x.digits.length
      · rw [if_pos (by simpa [hx, Option.all_eq_true] using hlonger)]
        exact ih.replaced hx hlonger
      · rw [if_neg (by rw [Bool.and_eq_true, Option.all_eq_true]; simpa [hx] using hlonger)]
        obtain ⟨b, hb, hlong⟩ : ∃ b, longestMatch digits l = some b ∧ x.digits.length ≤ b.digits.length := by
          simpa using hlonger
        rw [hb] at ih ⊢
        obtain ⟨hmem, hleads, hlongest⟩ := ih
        refine ⟨List.mem_append_left _ hmem, hleads, fun e he heads => ?_⟩
        rcases List.mem_append.mp he with he | he
        · exact hlongest e he heads
        · rwa [Option.some.inj (List.mem_singleton.mp he)]

theorem State.entry_mem (s : State) (e : DigitEntry) :
    some e ∈ s.tariff.entries.toList ↔ ∃ i : Fin 512, s.tariff.entries[i] = some e := by
  rw [Vector.mem_toList_iff, Vector.mem_iff_getElem]
  exact ⟨fun ⟨i, hi, h⟩ => ⟨⟨i, hi⟩, h⟩, fun ⟨i, h⟩ => ⟨i.val, i.isLt, h⟩⟩

/-- The entry found is a longest match (R149). -/
theorem longestMatch_some {s : State} {digits : List Nat} {e : DigitEntry}
    (h : longestMatch digits s.tariff.entries.toList = some e) : LongestMatch s digits e := by
  have hlongest := longestMatch_isLongest digits s.tariff.entries.toList
  rw [h] at hlongest
  obtain ⟨hmem, hleads, hmax⟩ := hlongest
  exact ⟨(s.entry_mem e).mp hmem, hleads, fun j e' he' => hmax e' ((s.entry_mem e').mpr ⟨j, he'⟩)⟩

/-- With no entry found there is no match (R149). -/
theorem longestMatch_none {s : State} {digits : List Nat} (h : longestMatch digits s.tariff.entries.toList = none)
    (e : DigitEntry) : ¬ LongestMatch s digits e := by
  have hlongest := longestMatch_isLongest digits s.tariff.entries.toList
  rw [h] at hlongest
  exact fun hmatch => hlongest e ((s.entry_mem e).mpr hmatch.held) hmatch.leads

/-! ## DIGIT (R151) -/

/-- The meter of a trunk in DIALLING. -/
theorem State.dialling_eq {s : State} {t : TrunkIx} {m : MeterIx} {x : Meter} (ht : (s.trunk t).meter = some m)
    (hm : s.meter m = some x) : s.dialling t = if x.state = .dialling then some (m, x) else none := by
  simp only [State.dialling, ht, hm]

theorem State.dialling_eq_none {s : State} {t : TrunkIx}
    (h : ∀ m x, (s.trunk t).meter = some m → s.meter m = some x → x.state ≠ .dialling) : s.dialling t = none := by
  cases ht : (s.trunk t).meter with
  | none => simp only [State.dialling, ht]
  | some m =>
    cases hm : s.meter m with
    | none => simp only [State.dialling, ht, hm]
    | some x => rw [State.dialling_eq ht hm, if_neg (h m x ht hm)]

/-- A cut for PREFIX (R151). -/
theorem digitCut_eq (m : MeterIx) (x : Meter) (s : State) :
    digitCut m x s =
      { s.denied x.trunk x.room .barredDigits with
        meters := s.meters.set m (some { x with state := .cut, timer := none, held := some 0 }) } := by
  rw [digitCut, deny_eq, State.denied_setMeter]

theorem takeDigit_eq {t : TrunkIx} {ds : List Nat} {s : State} (ha : s.active = true) (hmin : 1 ≤ ds.length)
    (hmax : ds.length ≤ 20) (hds : ∀ d ∈ ds, d ≤ 9) :
    takeDigit t ds s = (s.dialling t).elim s fun x => dial x.1 x.2 ds s := by
  have hfits : (s.active && digitsFit ds) = true := by
    simp only [ha, Bool.true_and, digitsFit, Bool.and_eq_true, List.all_eq_true, decide_eq_true_eq]
    exact ⟨⟨hmin, hmax⟩, hds⟩
  rw [takeDigit, if_pos hfits]
  cases s.dialling t <;> rfl

/-- Settles O31. -/
theorem digitsDialled : Obligations.DigitsDialled := by
  intro t ds s hreset ha hmin hmax hds
  have hexec : exec (.digit t ds) s = .next (takeDigit t ds s) := event_taken hreset
  rw [hexec, takeDigit_eq ha hmin hmax hds]
  refine ⟨fun hnone => ?idle, fun m x ht hm hdialling => ?dialling⟩
  case idle => rw [State.dialling_eq_none hnone]; rfl
  case dialling =>
    intro k y bars
    rw [State.dialling_eq ht hm, if_pos hdialling]
    change (_ → Host.Outcome.next (dial m x ds s) = _) ∧ (_ → _ → Host.Outcome.next (dial m x ds s) = _)
    have hdial : dial m x ds s = match longestMatch y.digits s.tariff.entries.toList with
        | some e => if s.bars e.bar x.room then digitCut m y s else s.setMeter m (some y)
        | none => s.setMeter m (some y) := rfl
    cases hmatch : longestMatch y.digits s.tariff.entries.toList with
    | none =>
      rw [hdial, hmatch]
      exact ⟨fun _ => rfl, fun ⟨e, he⟩ => absurd he (longestMatch_none hmatch e)⟩
    | some e =>
      have hlongest := longestMatch_some hmatch
      rw [hdial, hmatch]
      refine ⟨fun hopen => ?_, fun _ hbars => ?_⟩
      · exact congrArg _ (if_neg (hopen e hlongest))
      · exact congrArg _ ((if_pos (hbars e hlongest)).trans (digitCut_eq m y s))

/-! ## Connection (R156) -/

/-- The meter of a connection (R156, step 3). -/
def Meter.connected (s : State) (timed : Bool) (x : Meter) : Meter :=
  { x with state := .connected, answered := true, timer := none
           answer := some (s.clock.day, s.clock.seconds), period := some s.periodInForce
           flags := { x.flags with timedAnswer := x.flags.timedAnswer || timed
                                   clockUnset := x.flags.clockUnset || s.clock.unset } }

theorem answer_free (m : MeterIx) (timed : Bool) (x : Meter) (s : State) :
    answer m timed .free x s =
      s.setMeter m (some { x.connected s timed with flags := { (x.connected s timed).flags with free := true } }) := rfl

theorem answer_barred {m : MeterIx} {timed : Bool} {b : Fin 32} {x : Meter} {s : State}
    (hbarred : (s.room x.room).barred = true) :
    answer m timed (.meter b) x s = creditCut m { x.connected s timed with band := some b } s := if_pos hbarred

/-- A metered answer in a room not barred: C0 is charged, and a P0 of 0 brings the first unit boundary (R156). -/
theorem answer_charged {m : MeterIx} {timed : Bool} {b : Fin 32} {x : Meter} {s : State}
    (hopen : (s.room x.room).barred = false) :
    let bp := s.bandPeriod b s.periodInForce
    let z : State := evaluateRoom x.room (s.setMeter m
      (some { Meter.adds bp.c0 { x.connected s timed with band := some b } with countdown := some bp.p0 }))
    answer m timed (.meter b) x s = if bp.p0 = 0 then boundary m z else z := by
  refine (if_neg ?_ : answer m timed (.meter b) x s = _)
  simp [hopen]

theorem connect_matched {m : MeterIx} {x : Meter} {e : DigitEntry} {s : State} (hm : s.meter m = some x)
    (he : longestMatch x.digits s.tariff.entries.toList = some e) (timed : Bool) :
    connect m timed s = answer m timed e.action x s := by simp only [connect, hm, he]

theorem connect_unmatched {m : MeterIx} {x : Meter} {s : State} (hm : s.meter m = some x)
    (hnone : longestMatch x.digits s.tariff.entries.toList = none) (timed : Bool) :
    connect m timed s =
      if s.bars s.tariff.defaultBar x.room then digitCut m x s else answer m timed s.tariff.defaultAction x s := by
  simp only [connect, hm, hnone]

/-- The action used (R156, steps 1 and 2): the longest match's, or the default entry's unless it bars the room's class. -/
theorem connect_used {m : MeterIx} {x : Meter} {s : State} {a : Action} (hm : s.meter m = some x) (timed : Bool)
    (h : ((∃ e, LongestMatch s x.digits e) ∧ ∀ e, LongestMatch s x.digits e → e.action = a) ∨
      ((∀ e, ¬LongestMatch s x.digits e) ∧ s.bars s.tariff.defaultBar x.room = false ∧ s.tariff.defaultAction = a)) :
    connect m timed s = answer m timed a x s := by
  cases hmatch : longestMatch x.digits s.tariff.entries.toList with
  | none =>
    rcases h with ⟨⟨e, he⟩, -⟩ | ⟨-, hopen, rfl⟩
    · exact absurd he (longestMatch_none hmatch e)
    · rw [connect_unmatched hm hmatch, if_neg (by simp [hopen])]
  | some e =>
    rcases h with ⟨-, haction⟩ | ⟨hnone, -⟩
    · rw [connect_matched hm hmatch, ← haction e (longestMatch_some hmatch)]
    · exact absurd (longestMatch_some hmatch) (hnone e)

/-- The two events that connect a DIALLING meter (R148, R156). -/
theorem exec_connects {timed : Bool} {m : MeterIx} {x : Meter} {s : State} (hreset : s.resetLow = false)
    (hm : s.meter m = some x) (hdialling : x.state = .dialling) (hexpired : timed = true → x.timer = some 0)
    (htrunk : timed = false → s.active = true ∧ (s.trunk x.trunk).meter = some m) :
    exec (if timed then .timedAnswerExpiry m else .answered x.trunk) s = .next (connect m timed s) := by
  cases timed with
  | true =>
    refine event_handed hreset ?_
    rw [timedExpiry, hm]
    exact if_pos ⟨hdialling, hexpired rfl⟩
  | false =>
    obtain ⟨ha, ht⟩ := htrunk rfl
    refine event_handed hreset ?_
    rw [takeAnswered, if_pos ha, State.dialling_eq ht hm, if_pos hdialling]

/-- Settles O32. -/
theorem callsConnected : Obligations.CallsConnected := by
  intro timed m x s hreset hm hdialling hexpired htrunk
  have hexec := exec_connects hreset hm hdialling hexpired htrunk
  intro event p y barsDefault used
  rw [hexec]
  refine ⟨fun hnone hbars => ?cut, fun hused => ?free, fun b hused hbarred => ?barred, ?charged⟩
  case cut =>
    cases hmatch : longestMatch x.digits s.tariff.entries.toList with
    | none =>
      rw [connect_unmatched hm hmatch]
      exact congrArg _ ((if_pos hbars).trans (digitCut_eq m x s))
    | some e => exact absurd (longestMatch_some hmatch) (hnone e)
  case free => rw [connect_used hm timed hused, answer_free]; rfl
  case barred =>
    rw [connect_used hm timed hused, answer_barred hbarred, creditCut_eq, State.denied_setMeter]
    rfl
  case charged =>
    intro b hused hopen bp z
    rw [connect_used hm timed hused, answer_charged hopen]
    refine ⟨fun hp0 => congrArg _ (if_neg hp0), fun hp0 => (congrArg _ (if_pos hp0)).trans ?_⟩
    have hz : z.resetLow = false := by simpa [z, State.setMeter] using hreset
    have hmeter : z.meter m = some { Meter.adds bp.c0 { y with band := some b } with countdown := some bp.p0 } := by
      simp [z, State.meter, State.setMeter]
    have hdue : boundaryDue m z = boundary m z := by
      rw [boundaryDue, hmeter]
      exact if_pos ⟨rfl, congrArg some hp0⟩
    exact (event_handed hz hdue).symm

end Sys2Proof.Machine
end


section
-- The proofs are elaborated one after another: the waiting threads would take the memory that the check allows.
set_option Elab.async false
/-! SUPPORT. Clearing and checkout completion (R30, R158–R161), and seizure (R146, R147). -/

namespace Sys2Proof.Machine

/-! ## Evaluations and charge records -/

/-- An evaluation changes the room table and the lamp order queue alone. -/
theorem RoomLocal.apart {g : RoomIx → State → State} (h : RoomLocal g) (r : RoomIx) (z : State) :
    g r z = { z with rooms := (g r z).rooms, lamps := (g r z).lamps } := by
  have hlamps : (g r z).lamps = _ := congrArg State.lamps (h.frame r z)
  exact (h.frame r z).trans (by rw [hlamps])

theorem evaluateRoom_room (r : RoomIx) (z : State) :
    ∃ b, (evaluateRoom r z).room r = { z.room r with barred := b, lamp := ((evaluateRoom r z).room r).lamp } := by
  refine ⟨barredAfter (z.room r).creditLimit (z.exposure r) (z.classOf r).creditManual (z.room r).barred, ?_⟩
  rw [evaluateRoom, evaluateLamp_room, if_pos rfl, evaluateBarring, State.updRoom, State.room_setRoom_same]
  rfl

theorem State.bills_checkouts (z : State) (k : Nat) (c : ChargeRecord) :
    State.bills { z with checkouts := k } c = { z.bills c with checkouts := k } := by
  by_cases h : 224 ≤ (z.charges ++ [c]).length
  · rw [State.bills, State.bills, if_pos (by exact h), if_pos (by exact h)]
    rfl
  · rw [State.bills, State.bills, if_neg (by exact h), if_neg (by exact h)]

/-- What an evaluation has changed does not matter to an append. -/
theorem evaluateRoom_bills (r : RoomIx) (z : State) (c : ChargeRecord) :
    (evaluateRoom r z).bills c = { z.bills c with rooms := (evaluateRoom r z).rooms, lamps := (evaluateRoom r z).lamps } := by
  have happly (rooms : Vector Room 2048) (lamps : LampControl) :
      State.bills { z with rooms := rooms, lamps := lamps } c = { z.bills c with rooms := rooms, lamps := lamps } := by
    by_cases h : 224 ≤ (z.charges ++ [c]).length
    · rw [State.bills, State.bills, if_pos (by exact h), if_pos (by exact h)]
      rfl
    · rw [State.bills, State.bills, if_neg (by exact h), if_neg (by exact h)]
  have hevaluated := happly (evaluateRoom r z).rooms (evaluateRoom r z).lamps
  rwa [← evaluateRoom_local.apart r z] at hevaluated

/-! ## Checkout completion (R30) -/

/-- A room in CHECKOUT_PENDING with no open meter: its FINAL record joins the charge queue, and it becomes VACANT. -/
theorem checkoutTest_completes {r : RoomIx} {z : State} (hpending : (z.room r).occupancy = .checkoutPending)
    (hopen : (z.room r).openMeters = 0) (hq : 223 ≤ z.charges.length → z.attention = 0 → z.link.queue.length < 64) :
    ∃ u, checkoutTest r z = u ∧
      u = { z.bills (.final (finalRecord r (z.room r))) with
            rooms := u.rooms, lamps := u.lamps, checkouts := z.checkouts - 1 } ∧
      (∀ r', r' ≠ r → u.room r' = z.room r') ∧ u.room r = { vacated (z.room r) with lamp := (u.room r).lamp } := by
  obtain ⟨y, hy⟩ : ∃ y, State.bills { z with checkouts := z.checkouts - 1 } (.final (finalRecord r (z.room r))) = y := ⟨_, rfl⟩
  have happend : appendCharge (.final (finalRecord r (z.room r))) { z with checkouts := z.checkouts - 1 } = y :=
    (appendCharge_eq (by exact hq) _).trans hy
  have htest : checkoutTest r z = evaluateRoom r (y.updRoom r vacated) := by
    rw [checkoutTest, if_pos ⟨hpending, hopen⟩]
    exact congrArg (fun y => evaluateRoom r (y.updRoom r vacated)) happend
  have hrooms : y.rooms = z.rooms := by
    rw [← hy, State.bills_checkouts, State.bills]
    split <;> rfl
  have hroom (r' : RoomIx) : y.room r' = z.room r' := congrArg (·[r']) hrooms
  refine ⟨_, htest, ?_, fun r' hne => ?_, ?_⟩
  · refine (evaluateRoom_local.apart r _).trans ?_
    rw [State.bills_checkouts] at hy
    rw [← hy]
    rfl
  · rw [evaluateRoom_local.other r _ r' hne, State.updRoom, State.room_setRoom, if_neg (Ne.symm hne), hroom]
  · have hbarred : ((evaluateRoom r (y.updRoom r vacated)).room r).barred = false := by
      rw [evaluateRoom, evaluateLamp_room, if_pos rfl, evaluateBarring, State.updRoom, State.room_setRoom_same, State.updRoom,
        State.room_setRoom_same]
      simp only [lampEvaluated, vacated, barredAfter, ne_eq, not_true_eq_false, false_and, if_false]
      exact ite_self false
    obtain ⟨b, hb⟩ := evaluateRoom_room r (y.updRoom r vacated)
    have hfalse : b = false := by rw [← hbarred, hb]
    have hvacated : (y.updRoom r vacated).room r = vacated (z.room r) := by rw [State.updRoom, State.room_setRoom_same, hroom]
    rw [hvacated, hfalse] at hb
    exact hb

/-! ## Clearing (R158–R161) -/

/-- The duration of a call, written as R159 writes it. -/
theorem duration_eq (day second : Nat) (c : Clock) :
    duration day second c = ((((c.day + 65536 - day) % 65536 : Nat) : Int) * 86400 + c.seconds - second).toNat := by
  rw [duration, Nat.cast_mul, ← add_sub_assoc]
  rfl

theorem Meter.priced_iff (x : Meter) : x.priced = true ↔ x.state = .connected ∨ (x.state = .cut ∧ x.answered = true) := by
  simp [Meter.priced]

/-- The CALL record of a priced close (R160): its base is 0 in the grace time and at least Cmin for a metered call that was not
cut for credit. -/
theorem callRecord_eq {x : Meter} {c : Clock} {k : ClassRecord} {cmin d base : Nat}
    (hd : duration (x.answer.getD (0, 0)).1 (x.answer.getD (0, 0)).2 c = d)
    (hbase : (if d < k.grace then 0
      else if x.band.isSome = true ∧ x.flags.free = false ∧ x.flags.cutCredit = false then max x.base cmin else x.base) = base) :
    callRecord x c k cmin =
      { room := x.room, extension := x.extension, trunk := x.trunk, digits := x.digits, band := x.band
        answerDay := (x.answer.getD (0, 0)).1, answerSecond := (x.answer.getD (0, 0)).2, duration := d, units := x.units
        base := base, final := min (markedUp base k.markup) 999999
        flags := { x.flags with clockUnset := x.flags.clockUnset || c.unset
                                grace := x.flags.grace || decide (d < k.grace)
                                saturated := x.flags.saturated || decide (999999 < markedUp base k.markup) } } := by
  subst hd hbase
  simp [callRecord, and_assoc, Config.maxCharge]

/-- `s` when meter `m` with record `x` has been closed, before its room is evaluated (R158). -/
def State.meterClosed (s : State) (m : MeterIx) (x : Meter) : State :=
  let call := callRecord x s.clock (s.classOf x.room) (s.cminOf x)
  { (if x.priced = true then s.bills (.call call) else s) with
    trunks := s.trunks.set x.trunk { s.trunk x.trunk with mute := false, meter := none }
    meters := s.meters.set m none
    rooms := s.rooms.set x.room
      { s.room x.room with
        openMeters := (s.room x.room).openMeters - 1
        balance := if x.priced = true then min ((s.room x.room).balance + call.final) 9999999 else (s.room x.room).balance } }

/-- `s` with the mute of trunk `t` cleared. -/
def State.unmuted (s : State) (t : TrunkIx) : State := s.updTrunk t fun x => { x with mute := false }

theorem clearTrunk_idle {t : TrunkIx} {s : State} (ht : (s.trunk t).meter = none) : clearTrunk t s = s.unmuted t := by
  have hnone : ((s.unmuted t).trunk t).meter = none := by
    rw [State.unmuted, State.trunk_updTrunk_same]
    exact ht
  rw [State.unmuted] at hnone
  simp only [clearTrunk, hnone, State.unmuted]

theorem State.bills_unmuted (s : State) (t : TrunkIx) (c : ChargeRecord) :
    (s.unmuted t).bills c = (s.bills c).unmuted t := by
  by_cases h : 224 ≤ (s.charges ++ [c]).length
  · rw [State.bills, State.bills, if_pos (by exact h), if_pos (by exact h)]
    rfl
  · rw [State.bills, State.bills, if_neg (by exact h), if_neg (by exact h)]
    rfl

theorem State.bills_keeps (s : State) (c : ChargeRecord) :
    (s.bills c).rooms = s.rooms ∧ (s.bills c).trunks = s.trunks ∧ (s.bills c).meters = s.meters ∧
      (s.bills c).checkouts = s.checkouts := by
  rw [State.bills]
  split <;> exact ⟨rfl, rfl, rfl, rfl⟩

/-- A second append finds its place as the first did: CHARGES_HIGH is placed once. -/
theorem State.bills_space {s : State} (h : s.charges.length < 222 ∨ s.link.queue.length < 64) (c : ChargeRecord) :
    223 ≤ (s.bills c).charges.length → (s.bills c).attention = 0 → (s.bills c).link.queue.length < 64 := by
  by_cases hhigh : 224 ≤ (s.charges ++ [c]).length
  · rw [State.bills, if_pos (by exact hhigh)]
    exact fun _ h0 => absurd h0 (placed_attention_ne _ _)
  · rw [State.bills, if_neg (by exact hhigh)]
    intro hlong _
    rw [List.length_append, List.length_singleton] at hlong
    change s.link.queue.length < 64
    omega

/-- What a priced close and the freeing of the meter write (R158). -/
theorem freeMeter_pricedClose {m : MeterIx} {x : Meter} {s : State} (hpriced : x.priced = true)
    (hq : 223 ≤ s.charges.length → s.attention = 0 → s.link.queue.length < 64) :
    freeMeter m x (pricedClose x (s.unmuted x.trunk)) = s.meterClosed m x := by
  have happend (call : CallRecord) : appendCharge (.call call) (s.unmuted x.trunk) = (s.bills (.call call)).unmuted x.trunk := by
    rw [appendCharge_eq (by exact hq), State.bills_unmuted]
  obtain ⟨call, hcall⟩ : ∃ call, callRecord x s.clock (s.classOf x.room) (s.cminOf x) = call := ⟨_, rfl⟩
  have hcall' : callRecord x (s.unmuted x.trunk).clock ((s.unmuted x.trunk).classOf x.room) ((s.unmuted x.trunk).cminOf x) = call :=
    hcall
  obtain ⟨hrooms, htrunks, hmeters, -⟩ := s.bills_keeps (.call call)
  simp only [pricedClose, hcall', happend, State.meterClosed, hcall, if_pos hpriced]
  generalize s.bills (.call call) = y at hrooms htrunks hmeters ⊢
  simp [freeMeter, State.unmuted, State.updRoom, State.setRoom, State.room, State.updTrunk, State.trunk, State.setMeter, hrooms,
    htrunks, hmeters, Config.maxBalance]

theorem freeMeter_unpriced {m : MeterIx} {x : Meter} {s : State} (hpriced : ¬ x.priced = true) :
    freeMeter m x (s.unmuted x.trunk) = s.meterClosed m x := by
  simp [State.meterClosed, if_neg hpriced, freeMeter, State.unmuted, State.updRoom, State.setRoom, State.room, State.updTrunk,
    State.trunk, State.setMeter]

theorem clearTrunk_closes {m : MeterIx} {x : Meter} {s : State} (ht : (s.trunk x.trunk).meter = some m)
    (hm : s.meter m = some x) (hq : 223 ≤ s.charges.length → s.attention = 0 → s.link.queue.length < 64) :
    clearTrunk x.trunk s = checkoutTest x.room (evaluateRoom x.room (s.meterClosed m x)) := by
  have hmeter : ((s.unmuted x.trunk).trunk x.trunk).meter = some m := by
    rw [State.unmuted, State.trunk_updTrunk_same]
    exact ht
  have hunmuted : (s.updTrunk x.trunk fun x => { x with mute := false }) = s.unmuted x.trunk := rfl
  have hm' : (s.unmuted x.trunk).meter m = some x := hm
  simp only [clearTrunk, hunmuted, hmeter, closeMeter, hm']
  by_cases hpriced : x.priced = true
  · rw [if_pos hpriced, freeMeter_pricedClose hpriced hq]
  · rw [if_neg hpriced, freeMeter_unpriced hpriced]

/-- Settles O34. -/
theorem callsCleared : Obligations.CallsCleared := by
  intro t s hreset ha
  have hexec : exec (.cleared t) s = .next (clearTrunk t s) := event_handed hreset (if_pos ha)
  rw [hexec]
  refine ⟨fun ht => congrArg _ (clearTrunk_idle ht), ?_⟩
  intro m x ht hm htrunk hspace r k priced ans d cmin base final call freed
  subst htrunk
  have hcall : callRecord x s.clock k (s.cminOf x) = call := callRecord_eq (duration_eq _ _ _) rfl
  have hpriced : x.priced = true ↔ priced := x.priced_iff
  have hfreed : s.meterClosed m x = freed := by
    rw [State.meterClosed, hcall, if_congr hpriced rfl rfl, if_congr hpriced rfl rfl]
  have hq : 223 ≤ s.charges.length → s.attention = 0 → s.link.queue.length < 64 := by
    intro hlong _
    omega
  have hroom : freed.room r = { s.room r with
      openMeters := (s.room r).openMeters - 1
      balance := if priced then min ((s.room r).balance + call.final) 9999999 else (s.room r).balance } :=
    State.room_setRoom_same _ r _
  have hother (r' : RoomIx) (hne : r' ≠ r) : freed.room r' = s.room r' :=
    (State.room_setRoom s r r' _).trans (if_neg (Ne.symm hne))
  obtain ⟨b, hevaluated⟩ := evaluateRoom_room r freed
  rw [clearTrunk_closes ht hm hq, hfreed]
  refine ⟨fun hstays => ?stays, ?completes⟩
  case stays =>
    refine congrArg _ (if_neg ?_)
    rw [hevaluated, hroom]
    rintro ⟨hpending, hopen⟩
    rcases hstays with hstays | hstays
    · exact hstays hpending
    · have : (s.room r).openMeters - 1 = 0 := hopen
      omega
  case completes =>
    intro hpending hlast last
    have hspace' : 223 ≤ (evaluateRoom r freed).charges.length → (evaluateRoom r freed).attention = 0 →
        (evaluateRoom r freed).link.queue.length < 64 := by
      simp only [evaluateRoom_frame]
      by_cases hp : priced
      · simpa [freed, if_pos hp] using State.bills_space hspace (.call call)
      · simp only [freed, if_neg hp]
        exact hq
    obtain ⟨u, htest, hu, hothers, hvacated⟩ := checkoutTest_completes (r := r) (z := evaluateRoom r freed)
      (by rw [hevaluated, hroom]; exact hpending) (by rw [hevaluated, hroom]; exact Nat.sub_eq_zero_of_le hlast.le) hspace'
    refine ⟨u, congrArg _ htest, ?_, fun r' hne => ?_, ?_⟩
    · have hrecord : ChargeRecord.final (finalRecord r ((evaluateRoom r freed).room r)) = last := by
        rw [hevaluated, hroom]
        simp only [finalRecord, last, hroom]
      have hcount : (evaluateRoom r freed).checkouts = s.checkouts := by
        rw [(evaluateRoom_frame r freed).2.2.2.2.2.2.2.1]
        by_cases hp : priced
        · simp only [freed, if_pos hp, (s.bills_keeps _).2.2.2]
        · simp only [freed, if_neg hp]
      rw [hrecord, evaluateRoom_bills, hcount] at hu
      exact hu
    · rw [hothers r' hne, evaluateRoom_local.other r freed r' hne, hother r' hne]
    · rw [hvacated, hevaluated]
      rfl

end Sys2Proof.Machine
end


section
-- The proofs are elaborated one after another: the waiting threads would take the memory that the check allows.
set_option Elab.async false
/-! SUPPORT. Seizure (R146, R147): the free meter, the denials, and the meter of an earlier call. -/

namespace Sys2Proof.Machine

/-- The first place of a table that passes a test. -/
theorem findIdx?_toList {α : Type} {n : Nat} {v : Vector α n} {p : α → Bool} {i : Fin n} (hi : p v[i] = true)
    (hlow : ∀ j < i, ¬ p v[j] = true) : v.toList.findIdx? p = some i.val := by
  rw [List.findIdx?_eq_some_iff_getElem]
  refine ⟨by simp, by simpa using hi, fun j hj => ?_⟩
  simpa using hlow ⟨j, hj.trans i.isLt⟩ hj

theorem State.freeMeterIx_eq {s : State} {m : MeterIx} (hm : s.meter m = none) (hlow : ∀ m' < m, s.meter m' ≠ none) :
    s.freeMeterIx = some m := by
  have hfound : s.meters.toList.findIdx? Option.isNone = some m.val :=
    findIdx?_toList (i := m) (Option.isNone_iff_eq_none.mpr hm) fun j hj h => hlow j hj (Option.isNone_iff_eq_none.mp h)
  rw [State.freeMeterIx, hfound]
  exact congrArg some (Fin.ext (Nat.mod_eq_of_lt m.isLt))

theorem State.freeMeterIx_eq_none {s : State} (h : ∀ m, s.meter m ≠ none) : s.freeMeterIx = none := by
  cases hm : s.freeMeterIx with
  | none => rfl
  | some m => exact absurd (State.freeMeterIx_free hm) (h m)

/-- A denial mutes the trunk, whether or not its mute was cleared before (R147). -/
theorem State.unmuted_denied (s : State) (t : TrunkIx) (r : RoomIx) (why : Denial) :
    (s.unmuted t).denied t r why = s.denied t r why := by
  have htrunks : (s.unmuted t).trunks.set t { (s.unmuted t).trunk t with mute := true } =
      s.trunks.set t { s.trunk t with mute := true } := by
    simp [State.unmuted, State.updTrunk, State.trunk]
  by_cases hq : s.link.queue.length < 64
  · rw [State.denied, State.denied, if_pos (by exact hq), if_pos hq, htrunks]
    rfl
  · rw [State.denied, State.denied, if_neg (by exact hq), if_neg hq, htrunks]
    rfl

theorem takeSeize_eq {t : TrunkIx} {x : Nat} {s : State} (ha : s.active = true) (hx : x ≤ 999999) :
    takeSeize t x s = seize t x s := by
  have hfits : (s.active && extensionFits x) = true := by
    rw [ha, Bool.true_and]
    exact decide_eq_true hx
  rw [takeSeize, if_pos hfits]

theorem State.active_iff (s : State) : s.active = true ↔ s.service ≠ .setup ∧ s.service ≠ .mounting := by
  rw [State.active]
  split <;> simp [*]

/-- A seizure for a trunk with no meter (R146). -/
theorem seize_idle {t : TrunkIx} {x : Nat} {s : State} (ht : (s.trunk t).meter = none) :
    seize t x s =
      (s.lookup x).elim (s.unmuted t) fun r =>
        if (s.room r).occupancy ≠ .occupied then s.denied t r .vacant
        else if (s.classOf r).billing then seizeRoom t r x (s.unmuted t) else s.unmuted t := by
  have hold : closeOld t s = s := by simp only [closeOld, ht]
  have hlookup : (s.unmuted t).lookup x = s.lookup x := rfl
  have hunmuted : (s.updTrunk t fun e => { e with mute := false }) = s.unmuted t := rfl
  simp only [seize, hold, hunmuted, hlookup, deny_eq, State.unmuted_denied]
  cases s.lookup x <;> rfl

/-- Into an empty set with no entry free, a kind brings OUTBOUND_FULL with it (R184, R15). -/
theorem place_empty_full {s : State} (h0 : s.attention = 0) (hq : 64 ≤ s.link.queue.length) (k : Attention) :
    place k s = { s with attention := attentionBit k ||| attentionBit .outboundFull } := by
  have hhas : ¬ attentionHas s.attention k = true := by
    rw [attentionHas_iff, h0]
    exact fun h => attentionBit_ne k (or_eq_zero h).2
  have hfree : ¬ 1 ≤ s.freeEntries := by
    simp only [State.freeEntries, Config.outboundEntries]
    omega
  rw [place, if_neg hhas, if_neg (not_not_intro h0), if_neg hfree]
  rfl

/-- CHARGES_FULL placed after the denial (R146, R165): its ATTENTION frame finds an entry after the DENY_CALL's. -/
theorem place_chargesFull_denied (s : State) (t : TrunkIx) (r : RoomIx) :
    place .chargesFull (s.denied t r .capacity) =
      { s.denied t r .capacity with
        attention := s.attention ||| attentionBit .chargesFull |||
          if 64 ≤ s.link.queue.length ∨ (s.link.queue.length = 63 ∧ s.attention = 0) then attentionBit .outboundFull else 0
        link := { s.link with queue := s.link.queue ++
          (if s.link.queue.length < 64 then [.denyCall t .capacity] else []) ++
          if s.attention = 0 ∧ s.link.queue.length < 63 then [.attention] else [] } } := by
  rcases Nat.lt_or_ge s.link.queue.length 64 with hq | hq
  case inl =>
    rw [State.denied, if_pos hq]
    by_cases h0 : s.attention = 0
    · rcases Nat.lt_or_ge s.link.queue.length 63 with hroom | hroom
      · rw [place_eq_placed (by simp only [List.length_append, List.length_singleton]; omega)]
        simp [State.placed, h0, hq, hroom, Nat.not_le.mpr hq, Nat.ne_of_lt hroom]
      · have hlast : s.link.queue.length = 63 := by omega
        rw [place_empty_full (by exact h0) (by simp only [List.length_append, List.length_singleton]; omega)]
        simp [h0, hlast]
    · rw [place_placed (by exact fun h => absurd h h0)]
      have hnot : ¬ (64 ≤ s.link.queue.length ∨ (s.link.queue.length = 63 ∧ s.attention = 0)) := by
        rintro (h | ⟨-, h⟩)
        · omega
        · exact h0 h
      have hzero (a : BitVec 16) : a ||| 0 = a := BitVec.or_zero
      rw [if_neg hnot, State.placed]
      simp only [if_neg h0, if_pos hq, if_neg (fun h : s.attention = 0 ∧ s.link.queue.length < 63 => h0 h.1), List.append_nil,
        hzero]
  case inr =>
    have hfull : ¬ s.link.queue.length < 64 := by omega
    have hne : s.attention ||| attentionBit .outboundFull ≠ 0 := fun h => attentionBit_ne .outboundFull (or_eq_zero h).2
    rw [State.denied, if_neg hfull, place_placed (by exact fun h => absurd h hne), State.placed]
    simp only [if_neg hne, if_pos (Or.inl hq : 64 ≤ s.link.queue.length ∨ (s.link.queue.length = 63 ∧ s.attention = 0)),
      if_neg hfull, if_neg (fun h : s.attention = 0 ∧ s.link.queue.length < 63 => hfull (h.2.trans (by decide))),
      List.append_nil, BitVec.or_assoc, BitVec.or_comm (attentionBit .outboundFull)]

/-- The end of a seizure in an OCCUPIED room with billing enabled (R146, steps 4 and 5). -/
theorem seizeRoom_free {t : TrunkIx} {r : RoomIx} {x : Nat} {m : MeterIx} {s : State} (hopen : (s.room r).barred = false)
    (hm : s.meter m = none) (hlow : ∀ m' < m, s.meter m' ≠ none) :
    seizeRoom t r x (s.unmuted t) =
      if s.charges.length + s.openMeters + s.checkouts + 1 ≤ 256 then
        { s with
          trunks := s.trunks.set t { s.trunk t with mute := false, meter := some m }
          rooms := s.rooms.set r { s.room r with openMeters := (s.room r).openMeters + 1 }
          meters := s.meters.set m (some (allocated t r x (s.classOf r).timedAnswer)) }
      else place .chargesFull (s.denied t r .capacity) := by
  have hfree : (s.unmuted t).freeMeterIx = some m := State.freeMeterIx_eq (by exact hm) (by exact hlow)
  have hbarred : ¬ ((s.unmuted t).room r).barred = true := by simpa [State.unmuted] using hopen
  have hadmits : (s.unmuted t).admits = true ↔ s.charges.length + s.openMeters + s.checkouts + 1 ≤ 256 :=
    decide_eq_true_iff
  rw [seizeRoom, if_neg hbarred, hfree]
  dsimp only
  by_cases hroom : s.charges.length + s.openMeters + s.checkouts + 1 ≤ 256
  · rw [if_pos hroom, if_pos (hadmits.mpr hroom)]
    simp [allocateMeter, State.unmuted, State.updTrunk, State.trunk, State.updRoom, State.setRoom, State.room, State.setMeter,
      State.classOf]
  · rw [if_neg hroom, if_neg (fun h => hroom (hadmits.mp h)), deny_eq, State.unmuted_denied]

/-! ## A meter of an earlier call (R146, step 1) -/

/-- After a clearing the trunk has no meter, and the device is as active as before. -/
theorem clearTrunk_closed {m : MeterIx} {x : Meter} {s : State} (ht : (s.trunk x.trunk).meter = some m) (hm : s.meter m = some x) :
    ((clearTrunk x.trunk s).trunk x.trunk).meter = none ∧ (clearTrunk x.trunk s).service = s.service := by
  have hmeter : ((s.unmuted x.trunk).trunk x.trunk).meter = some m := by
    rw [State.unmuted, State.trunk_updTrunk_same]
    exact ht
  have hunmuted : (s.updTrunk x.trunk fun x => { x with mute := false }) = s.unmuted x.trunk := rfl
  have hm' : (s.unmuted x.trunk).meter m = some x := hm
  obtain ⟨y, hy⟩ : ∃ y, clearTrunk x.trunk s = checkoutTest x.room (evaluateRoom x.room (freeMeter m x y)) :=
    ⟨if x.priced = true then pricedClose x (s.unmuted x.trunk) else s.unmuted x.trunk,
      by simp only [clearTrunk, hunmuted, hmeter, closeMeter, hm']⟩
  refine ⟨?_, by simp only [clearTrunk_frame]⟩
  rw [hy, State.trunk, (checkoutTest_frame ..).2.2.2.2.2.2.2.2.2.2.2.2.1, evaluateRoom_local.apart]
  simp [freeMeter, State.updTrunk, State.updRoom, State.setRoom, State.setMeter]

/-- Settles O30. -/
theorem seizure : Obligations.Seizure := by
  intro t x s hreset hx cleared
  have hexec (z : State) (hz : z.resetLow = false) : exec (.seizeOut t x) z = .next (takeSeize t x z) := event_taken hz
  refine ⟨fun hidle => ?inactive, fun hsetup hmounting => ?active⟩
  case inactive =>
    have ha : s.active = false := by rcases hidle with h | h <;> simp [State.active, h]
    rw [hexec s hreset, takeSeize, if_neg (by simp [ha])]
  have ha : s.active = true := s.active_iff.mpr ⟨hsetup, hmounting⟩
  rw [hexec s hreset, takeSeize_eq ha hx]
  refine ⟨fun ht hunknown => ?unknown, fun r ht hr => ?known, fun m y ht hm htrunk => ?old⟩
  case unknown => rw [seize_idle ht, hunknown]; rfl
  case known =>
    rw [seize_idle ht, hr, Option.elim_some]
    refine ⟨fun hvacant => by rw [if_pos hvacant], fun hocc hbilling => ?free, fun hocc hbilling => ?billed⟩
    case free => rw [if_neg (not_not_intro hocc), if_neg (by simp [hbilling])]; rfl
    case billed =>
      rw [if_neg (not_not_intro hocc), if_pos hbilling]
      refine ⟨fun hbarred => ?credit, fun hopen hfull => ?capacity, fun m hopen hm hlow => ?metered⟩
      case credit => rw [seizeRoom, if_pos (by exact hbarred), deny_eq, State.unmuted_denied]
      case capacity =>
        have hbarred : ¬ ((s.unmuted t).room r).barred = true := by simpa [State.unmuted] using hopen
        have hnone : (s.unmuted t).freeMeterIx = none := State.freeMeterIx_eq_none (by exact hfull)
        rw [seizeRoom, if_neg hbarred, hnone, deny_eq, State.unmuted_denied]
      case metered =>
        rw [seizeRoom_free hopen hm hlow]
        refine ⟨fun hlong => ?_, fun hfits => congrArg _ (if_pos hfits)⟩
        rw [if_neg (Nat.not_le.mpr hlong), place_chargesFull_denied]
  case old =>
    intro marked
    subst htrunk
    have hmeter : marked.meter m = some { y with flags := { y.flags with interrupted := true } } :=
      State.meter_setMeter_same s m _
    obtain ⟨hgone, hservice⟩ := clearTrunk_closed (x := { y with flags := { y.flags with interrupted := true } }) (s := marked) ht hmeter
    refine ⟨clearTrunk y.trunk marked, event_handed hreset (if_pos (by exact ha)), ?_⟩
    have hold : closeOld y.trunk s = clearTrunk y.trunk marked := by simp only [closeOld, ht, hm]; rfl
    have hactive : (clearTrunk y.trunk marked).active = true := by
      rw [State.active, hservice]
      exact ha
    have hlow : (clearTrunk y.trunk marked).resetLow = false := by
      simpa using hreset
    rw [hexec _ hlow, takeSeize_eq hactive hx]
    have hnone : closeOld y.trunk (clearTrunk y.trunk marked) = clearTrunk y.trunk marked := by
      simp only [closeOld]
      rw [hgone]
    simp only [seize, hold, hnone]

end Sys2Proof.Machine
end


section
-- The proofs are elaborated one after another: the waiting threads would take the memory that the check allows.
set_option Elab.async false
/-! SUPPORT. START_SERVICE and SUSPEND (R69, R181, R182). -/

namespace Sys2Proof.Machine

/-- The silence code is the lowest code whose entry has the smallest magnitude (R69). -/
theorem silenceCodeOf_smallest {table : Vector Int 256} (h : ∀ j : Fin 256, (table[j]).natAbs ≤ 8192) :
    ∃ c : Fin 256, silenceCodeOf table = BitVec.ofNat 8 c.val ∧ (∀ j : Fin 256, (table[c]).natAbs ≤ (table[j]).natAbs) ∧
      ∀ j : Fin 256, j < c → (table[c]).natAbs < (table[j]).natAbs := by
  have hget (k : Fin 256) : table.toList[k.val]? = some table[k] := by simp
  rcases nearestFrom_spec 0 table.toList 0 0 16384 with ⟨-, hfar⟩ | ⟨j, e, he, hn, -, hle, hfirst⟩
  · have hbound := h 0
    have hdistance := hfar 0 _ (hget 0)
    rw [sub_zero] at hdistance
    omega
  · obtain ⟨hj, -⟩ := List.getElem?_eq_some_iff.mp he
    have hlt : j < 256 := by simpa using hj
    have hentry : table[(⟨j, hlt⟩ : Fin 256)] = e := Option.some.inj ((hget ⟨j, hlt⟩).symm.trans he)
    refine ⟨⟨j, hlt⟩, by rw [silenceCodeOf, recompand, hn, zero_add], fun k => ?_, fun k hk => ?_⟩
    · have := hle _ _ (hget k)
      rwa [sub_zero, sub_zero, ← hentry] at this
    · have := hfirst _ _ hk (hget k)
      rwa [sub_zero, sub_zero, ← hentry] at this

theorem Coder.complete_iff (c : Coder) : c.complete = true ↔ ∀ j : Fin 256, c.loaded[j] = true := by
  simp only [Coder.complete, List.all_eq_true, Vector.mem_toList_iff, id]
  constructor
  · exact fun h j => h _ (Vector.getElem_mem j.isLt)
  · intro h b hb
    obtain ⟨j, hj, rfl⟩ := Vector.getElem_of_mem hb
    exact h ⟨j, hj⟩

theorem State.startReady_iff (s : State) : s.startReady = true ↔
    s.store.geometrySet = true ∧ s.store.mounted = true ∧ ∀ j : Fin 256, s.coder.loaded[j] = true := by
  simp only [State.startReady, Bool.and_eq_true, Coder.complete_iff, and_assoc]

/-- SUSPEND asks every channel with a bound slot to close, in channel order, and tests the drain (R182). -/
theorem suspend_eq (s : State) :
    suspend s = State.drains (((List.finRange 32).filter fun c => (s.chan c).slot.isSome).foldl (fun z c => closeRequest c z)
      { s with service := .suspending }) := by
  rw [suspend, drainTest_eq, closeChannels]
  simp only [Bool.and_true]
  rfl

/-- A close request does nothing in FREE, FLUSH and CLOSING (R62). -/
theorem closeRequest_idle {c : ChannelIx} {s : State}
    (h : (s.chan c).state = .free ∨ (s.chan c).state = .flush ∨ (s.chan c).state = .closing) : closeRequest c s = s := by
  rw [closeRequest]
  rcases h with h | h | h <;> rw [h]

theorem closeRequests_idle {l : List ChannelIx} {s : State}
    (h : ∀ c ∈ l, (s.chan c).state = .free ∨ (s.chan c).state = .flush ∨ (s.chan c).state = .closing) :
    l.foldl (fun z c => closeRequest c z) s = s := by
  induction l with
  | nil => rfl
  | cons c l ih =>
    rw [List.foldl_cons, closeRequest_idle (h c List.mem_cons_self)]
    exact ih fun c' hc' => h c' (List.mem_cons_of_mem _ hc')

/-- The drain of a device whose channels are FREE and whose rings hold nothing for a program (R182). -/
theorem State.drains_free {s : State} (hfree : ∀ c, (s.chan c).state = .free)
    (hrings : ∀ c, (s.ring c).recorded = [] ∧ (s.ring c).held = []) :
    State.drains { s with service := .suspending } =
      { s with service := if s.store.marks = [] ∧ s.store.marking = none then .suspended else .suspending } := by
  have hrings' : ∀ c, (∀ p ∈ (s.ring c).recorded, p.status = .filling ∨ p.status = .full) ∧ .program ∉ (s.ring c).held :=
    fun c => by simp [hrings c]
  by_cases hmarks : s.store.marks = [] ∧ s.store.marking = none
  · rw [if_pos hmarks]
    exact if_pos ⟨rfl, hfree, hrings', hmarks⟩
  · rw [if_neg hmarks]
    exact if_neg fun h => hmarks h.2.2.2

theorem State.drains_of_busy {s : State} {c : ChannelIx} (h : (s.chan c).state ≠ .free) : s.drains = s :=
  if_neg fun hdrained => h (hdrained.2.1 c)

theorem closes_apart (l : List ChannelIx) (s : State) (k : Link) :
    State.drains (l.foldl (fun z c => z.closes c) { s with service := .suspending, link := k }) =
      { State.drains (l.foldl (fun z c => z.closes c) { s with service := .suspending }) with link := k } :=
  (congrArg State.drains (State.closes_link_fold l { s with service := .suspending } k)).trans (State.drains_link _ k)

/-- Settles O25. -/
theorem serviceCommands : Obligations.ServiceCommands := by
  intro tag s hready may
  have hmay : ((s.service = .setup ∧ s.startReady = true) ∨ s.service = .suspended) ↔ may := by
    rw [State.startReady_iff]
  refine ⟨fun hnot => event_refused hready (if_neg (by exact fun h => hnot (hmay.mp h))), fun hready' htable => ?start,
    fun hservice => event_refused hready (if_neg (by exact hservice)), fun hservice hfree hrings => ?free,
    fun hservice hflush hidle => ?idle, fun hservice hp hb hrecording => ?closes⟩
  case start =>
    obtain ⟨c, hcode, hsmallest, hlowest⟩ := silenceCodeOf_smallest htable
    have hwork : workStartService [] (s.held 0x41 tag []) = .done .ok [] (enterService (s.held 0x41 tag [])) :=
      if_pos (by exact hmay.mpr hready')
    refine ⟨_, c, event_effect hready hwork rfl, ?_, hsmallest, hlowest⟩
    rw [← hcode]
    rfl
  all_goals
    have hwork : workSuspend [] (s.held 0x42 tag []) = .done .ok [] (suspend (s.held 0x42 tag [])) := if_pos (by exact hservice)
    rw [suspend_eq] at hwork
  case free =>
    have hnone : (List.finRange 32).filter (fun c => ((s.held 0x42 tag []).chan c).slot.isSome) = [] :=
      List.filter_eq_nil_iff.mpr fun c _ hbound => by
        have hslot : (s.chan c).slot.isSome = true := hbound
        rw [(hfree c).2] at hslot
        exact absurd hslot (by decide)
    rw [hnone, List.foldl_nil, State.drains_free (s := s.held 0x42 tag []) (fun c => (hfree c).1) hrings] at hwork
    exact event_effect hready hwork rfl
  case idle =>
    obtain ⟨c, hc⟩ := hflush
    rw [closeRequests_idle (by exact fun c _ => hidle c),
      State.drains_of_busy (c := c) (by exact fun h => absurd (hc.symm.trans h) (by decide))] at hwork
    exact event_effect hready hwork rfl
  case closes =>
    intro bound closed
    rw [closeRequests_eq (by exact hp) (by exact hb) _ ((List.nodup_finRange 32).filter _) (by exact fun c _ => hrecording c)] at hwork
    have hclosed := closes_apart bound s (s.held 0x42 tag []).link
    have heffect := event_effect hready (hwork.trans (congrArg (Work.done .ok []) hclosed)) rfl
    rw [State.drains_link]
    exact heffect

end Sys2Proof.Machine
end


section
-- The proofs are elaborated one after another: the waiting threads would take the memory that the check allows.
set_option Elab.async false
/-! SUPPORT. Sweeps (R132–R136): the sense query, and the sweep from its shut test on. -/

namespace Sys2Proof.Machine

/-! ## The sense query (R136) -/

/-- The distance of a room from the sense cursor, in index order with wrapping. -/
def State.senseDistance (s : State) (r : RoomIx) : Nat := (r.val + 2048 - s.lamps.cursor.val) % 2048

/-- The senseable rooms from the cursor on, none left out. -/
def State.senseRooms (s : State) : List RoomIx :=
  let l := (List.finRange 2048).filter fun r => (s.room r).senseable
  l.filter (s.lamps.cursor ≤ ·) ++ l.filter (· < s.lamps.cursor)

theorem State.queryRooms_eq (s : State) : s.queryRooms = s.senseRooms.take 14 := by
  rw [State.queryRooms, State.roomsWhere_eq]
  rfl

theorem State.mem_senseRooms (s : State) (r : RoomIx) : r ∈ s.senseRooms ↔ (s.room r).senseable = true := by
  simp only [State.senseRooms, List.mem_append, List.mem_filter, List.mem_finRange, true_and, decide_eq_true_eq]
  rcases le_or_gt s.lamps.cursor r with h | h
  · simp [h, not_lt.mpr h]
  · simp [h, not_le.mpr h]

theorem State.senseRooms_pairwise (s : State) : s.senseRooms.Pairwise fun a b => s.senseDistance a < s.senseDistance b := by
  have hsorted : ((List.finRange 2048).filter fun r => (s.room r).senseable).Pairwise (· < ·) :=
    (List.pairwise_lt_finRange 2048).sublist List.filter_sublist
  have hcursor := s.lamps.cursor.isLt
  refine List.pairwise_append.mpr ⟨?_, ?_, fun a ha b hb => ?_⟩
  · refine (hsorted.sublist List.filter_sublist).imp_of_mem fun {a b} ha hb hab => ?_
    have hfrom : s.lamps.cursor.val ≤ a.val := of_decide_eq_true (List.mem_filter.mp ha).2
    have hlt : a.val < b.val := hab
    have hlast := b.isLt
    simp only [State.senseDistance]
    omega
  · refine (hsorted.sublist List.filter_sublist).imp_of_mem fun {a b} ha hb hab => ?_
    have hbelow : b.val < s.lamps.cursor.val := of_decide_eq_true (List.mem_filter.mp hb).2
    have hlt : a.val < b.val := hab
    simp only [State.senseDistance]
    omega
  · have hfrom : s.lamps.cursor.val ≤ a.val := of_decide_eq_true (List.mem_filter.mp ha).2
    have hbelow : b.val < s.lamps.cursor.val := of_decide_eq_true (List.mem_filter.mp hb).2
    have hlast := a.isLt
    simp only [State.senseDistance]
    omega

theorem Room.senseable_iff (x : Room) : x.senseable = true ↔
    x.loaded = true ∧ x.lamp.absent = false ∧
      (x.lamp.ordered = some .steady ∨ x.lamp.ordered = some .slow ∨ x.lamp.ordered = some .fast) := by
  rw [Room.senseable, Bool.and_eq_true, Bool.and_eq_true, Bool.not_eq_true', LampRecord.lit_iff, and_assoc]

theorem lampAdmitted_iff (s : State) : lampAdmitted s = true ↔ s.link.queue.length ≤ 32 := by
  have hreserve : Config.lampReserve ≤ s.freeEntries ↔ s.link.queue.length ≤ 32 := by
    simp only [State.freeEntries, Config.outboundEntries, Config.lampReserve]
    omega
  exact decide_eq_true_iff.trans hreserve

/-- The sense query takes the rooms in the order of their distance from the cursor. -/
theorem senseQuery_spec (s : State) : SenseQueried s (senseQuery s) := by
  unfold SenseQueried
  intro senseable distance
  have hmem (r : RoomIx) : r ∈ s.senseRooms ↔ senseable r := (s.mem_senseRooms r).trans (Room.senseable_iff _)
  refine ⟨fun hnone => ?none, fun hsome hroom => ?some⟩
  case none =>
    rw [senseQuery]
    split
    · rfl
    case h_2 last hlast =>
      refine if_neg fun hadmitted => ?_
      have hin : last ∈ s.queryRooms := List.mem_of_mem_getLast? hlast
      rw [State.queryRooms_eq] at hin
      have hsense := (hmem last).mp (List.mem_of_mem_take hin)
      have hspace := (lampAdmitted_iff s).mp hadmitted
      rcases hnone with h | h
      · exact h last hsense
      · omega
  case some =>
    obtain ⟨r, hr⟩ := hsome
    have hne : s.queryRooms ≠ [] := by
      rw [State.queryRooms_eq]
      have := List.ne_nil_of_mem ((hmem r).mpr hr)
      simpa using this
    obtain ⟨last, hlast⟩ : ∃ last, s.queryRooms.getLast? = some last := ⟨_, List.getLast?_eq_some_getLast hne⟩
    have hsplit : (s.senseRooms.take 14 ++ s.senseRooms.drop 14).Pairwise fun a b => s.senseDistance a < s.senseDistance b := by
      rw [List.take_append_drop]
      exact s.senseRooms_pairwise
    obtain ⟨hpair, -, hcross⟩ := List.pairwise_append.mp hsplit
    rw [← State.queryRooms_eq] at hpair hcross
    refine ⟨s.queryRooms, last, hlast, ?_, fun r hr => ?_, hpair, fun r hr hout => ?_, ?_⟩
    · rw [State.queryRooms_eq]
      exact List.length_take_le _ _
    · rw [State.queryRooms_eq] at hr
      exact (hmem r).mp (List.mem_of_mem_take hr)
    · have hrest : r ∈ s.senseRooms.drop 14 := by
        have hall := (hmem r).mpr hr
        rw [← List.take_append_drop 14 s.senseRooms, ← State.queryRooms_eq] at hall
        exact (List.mem_append.mp hall).resolve_left hout
      refine ⟨?_, hcross last (List.mem_of_mem_getLast? hlast) r hrest⟩
      have hlong : 14 < s.senseRooms.length := by
        have := List.length_pos_of_mem hrest
        rw [List.length_drop] at this
        omega
      rw [State.queryRooms_eq, List.length_take]
      omega
    · have hcursor : last + 1 = Fin.ofNat 2048 (last.val + 1) := Fin.ext (by simp [Fin.val_add, Fin.ofNat])
      rw [senseQuery, hlast]
      dsimp only
      rw [if_pos ((lampAdmitted_iff s).mpr hroom), hcursor]
      rfl

/-! ## The sweep counted, and its shut test (R132, R133) -/

/-- `s` with the pending sweep taken as sweep `number`. -/
def State.sweepCounted (number : Nat) (s : State) : State := { s with lamps := { s.lamps with due := false, sweeps := number } }

theorem exec_sweep {s : State} (hreset : s.resetLow = false) (hdue : s.lamps.due = true) :
    exec .sweep s = .next (sweepWork ((s.lamps.sweeps + 1) % 4294967296) (s.sweepCounted ((s.lamps.sweeps + 1) % 4294967296))) :=
  event_handed hreset (if_pos hdue)

/-- The shut test neither reads nor writes the sweep count. -/
theorem shutTest_counted (number : Nat) (s : State) : shutTest (s.sweepCounted number) = (shutTest s).sweepCounted number :=
  List.foldl_hom (State.sweepCounted number) fun _ _ => rfl

/-- The shut test of lamps that stand as it leaves them changes nothing (R132). -/
theorem shutTest_fixed {s : State} (h : ∀ r, (s.room r).lamp.shut =
    ((s.room r).lamp.offHook || (s.room r).lamp.fault || (s.room r).lamp.maint ||
      ((s.classOf r).lampManual && (s.room r).lamp.shut))) : shutTest s = s := by
  have hnone : (s.roomsWhere fun x => shutAfter (s.classes[x.cls]).lampManual x.lamp != x.lamp.shut) = [] := by
    rw [State.roomsWhere_eq, List.filter_eq_nil_iff]
    intro r _ hflipped
    rw [shutAfter_eq, bne_iff_ne] at hflipped
    exact hflipped (h r).symm
  rw [shutTest, hnone, List.foldl_nil]

theorem shut_again (off fault maint manual shut : Bool) :
    (off || fault || maint || (manual && shut)) =
      (off || fault || maint || (manual && (off || fault || maint || (manual && shut)))) := by
  revert off fault maint manual shut
  decide

/-- A second shut test finds nothing to do. -/
theorem shutTest_shutTest (s : State) : shutTest (shutTest s) = shutTest s := by
  obtain ⟨htest, hclasses, hrooms⟩ := shutTest_spec s
  rw [← htest] at hclasses hrooms
  refine shutTest_fixed fun r => ?_
  obtain ⟨hshut, hclass, hoff, hfault, hmaint⟩ := hrooms r
  have hmanual : ((shutTest s).classOf r).lampManual = (s.classOf r).lampManual := by
    simp only [State.classOf, hclasses, hclass]
  rw [hshut, hoff, hfault, hmaint, hmanual]
  exact shut_again ..

/-- What follows the shut test: the order frames, and on a sense turn with no frame refused the sense query (R133). -/
def sweepBuilt (number : Nat) (s : State) : State :=
  let built := buildOrders number s.lamps.queue [] [] 3 s
  if built.2 = false ∧ number % s.lamps.senseInterval = 0 then senseQuery built.1 else built.1

theorem sweepWork_eq (number : Nat) (s : State) : sweepWork number s = sweepBuilt number (shutTest s) := by
  simp only [sweepWork, sweepBuilt, Bool.and_eq_true, Bool.not_eq_true', decide_eq_true_eq]
  rfl

/-- The shut test leaves the pending sweep and the sweep count. -/
theorem shutTest_lamps (s : State) : (shutTest s).lamps = { s.lamps with queue := (shutTest s).lamps.queue } := by
  rw [shutTest]
  generalize s.roomsWhere (fun x => shutAfter (s.classes[x.cls]).lampManual x.lamp != x.lamp.shut) = l
  induction l using List.reverseRecOn with
  | nil => rfl
  | append_singleton l r ih =>
    rw [List.foldl_append, List.foldl_cons, List.foldl_nil]
    generalize l.foldl (fun s r => evaluateLamp r (s.updLamp r fun l => { l with shut := !l.shut })) s = z at ih ⊢
    have hlamps : (z.updLamp r fun l => { l with shut := !l.shut }).lamps = z.lamps := rfl
    rw [evaluateLamp, hlamps, ih]

/-- A sweep of the lamps as the shut test leaves them is the sweep itself (R132, R133). -/
theorem exec_sweep_tested {s : State} (hreset : s.resetLow = false) (hdue : s.lamps.due = true) :
    exec .sweep s = exec .sweep (shutTest s) := by
  have hlamps := shutTest_lamps s
  have hdue' : (shutTest s).lamps.due = true := by rw [hlamps]; exact hdue
  have hsweeps : (shutTest s).lamps.sweeps = s.lamps.sweeps := by rw [hlamps]
  have hreset' : (shutTest s).resetLow = false := by simpa only [shutTest_frame] using hreset
  rw [exec_sweep hreset hdue, exec_sweep hreset' hdue', hsweeps, sweepWork_eq, sweepWork_eq, shutTest_counted, shutTest_counted,
    shutTest_shutTest]

/-- A sweep of lamps that stand as the shut test leaves them. -/
theorem exec_sweep_fixed {s : State} (hreset : s.resetLow = false) (hdue : s.lamps.due = true)
    (hshut : ∀ r, (s.room r).lamp.shut = if (s.room r).lamp.offHook ∨ (s.room r).lamp.fault ∨ (s.room r).lamp.maint then true
      else (s.classOf r).lampManual && (s.room r).lamp.shut) :
    exec .sweep s = .next (sweepBuilt ((s.lamps.sweeps + 1) % 4294967296)
      (s.sweepCounted ((s.lamps.sweeps + 1) % 4294967296))) := by
  have hfixed : shutTest s = s := shutTest_fixed fun r => by
    have h := hshut r
    cases hoff : (s.room r).lamp.offHook <;> cases hfault : (s.room r).lamp.fault <;> cases hmaint : (s.room r).lamp.maint <;>
      simpa [hoff, hfault, hmaint] using h
  rw [exec_sweep hreset hdue, sweepWork_eq, shutTest_counted, hfixed]

/-! ## O37 -/

/-- Settles O37. -/
theorem senseQueriesWalkTheTable : Obligations.SenseQueriesWalkTheTable := by
  intro s hreset hdue hqueue hshut number counted senseable distance hturn
  have hcounted : s.sweepCounted number = counted := rfl
  have hbuilt : sweepBuilt number counted = senseQuery counted := by
    have hempty : counted.lamps.queue = [] := hqueue
    have hbuild : buildOrders number [] [] [] 3 counted = (counted, false) := by
      rw [buildOrders, if_pos rfl, State.withLampQueue, ← hempty]
    rw [sweepBuilt, hempty, hbuild]
    exact if_pos ⟨rfl, hturn⟩
  have hexec : exec .sweep s = .next (senseQuery counted) := by
    rw [exec_sweep_fixed hreset hdue hshut]
    exact congrArg _ hbuilt
  obtain ⟨hnone, hsome⟩ := senseQuery_spec counted
  rw [hexec]
  refine ⟨fun h => congrArg _ (hnone h), fun hr hroom => ?_⟩
  obtain ⟨l, last, hlast, hlong, hall, hpair, hpassed, hquery⟩ := hsome hr hroom
  exact ⟨l, last, hlast, hlong, hall, hpair, hpassed, congrArg _ hquery⟩

end Sys2Proof.Machine
end


section
-- The proofs are elaborated one after another: the waiting threads would take the memory that the check allows.
set_option Elab.async false
/-! SUPPORT. What a sweep takes from the lamp order queue (R134, R135), and what follows from it for a short queue and for a
full outbound queue. -/

namespace Sys2Proof.Machine

/-! ## A room that needs an order, and a room held off -/

theorem LampRecord.settled_eq_false (l : LampRecord) : l.settled = false ↔ l.target ≠ none ∧ l.target ≠ l.ordered := by
  rw [LampRecord.settled, Bool.or_eq_false_iff, Option.isNone_eq_false_iff, Option.isSome_iff_ne_none, beq_eq_false_iff_ne]

theorem heldOff_iff (number holdOff : Nat) (l : LampRecord) : heldOff number holdOff l = true ↔
    ∃ k, l.orderSweep = some k ∧ (number + 4294967296 - k) % 4294967296 ≤ holdOff := by
  unfold heldOff
  split
  next k hk => exact decide_eq_true_iff.trans ⟨fun h => ⟨k, hk, h⟩, fun ⟨_, hk', h⟩ => by cases hk.symm.trans hk'; exact h⟩
  next hk => simp [hk]

theorem State.orderable_iff (s : State) (number : Nat) (r : RoomIx) : s.orderable number r = true ↔
    (s.room r).lamp.settled = false ∧ ¬ heldOff number s.lamps.holdOff (s.room r).lamp = true := by
  simp only [State.orderable, Bool.and_eq_true, Bool.not_eq_true', Bool.not_eq_true]

theorem State.deferred_iff (s : State) (number : Nat) (r : RoomIx) : s.deferred number r = true ↔
    (s.room r).lamp.settled = false ∧ heldOff number s.lamps.holdOff (s.room r).lamp = true := by
  simp only [State.deferred, Bool.and_eq_true, Bool.not_eq_true']

/-! ## The taking of a sweep -/

/-- The rooms of `pre` that a sweep orders, in their order. -/
def State.dueRooms (s : State) (number : Nat) (pre : List RoomIx) : List RoomIx := pre.filter (s.orderable number)

/-- A sweep with its count made has taken `pre` and left `post`; of the rooms due it has sent `j` frames. -/
structure SweepTaken (s : State) (number : Nat) (pre post : List RoomIx) (j : Nat) (refused : Bool) (u : State) : Prop where
  queue : s.lamps.queue = pre ++ post
  admitted : 1 ≤ j → s.link.queue.length + j ≤ 33
  whole : refused = false → (s.dueRooms number pre).length ≤ 14 * j ∧ 14 * j < (s.dueRooms number pre).length + 14 ∧
    ((s.dueRooms number pre).length = 42 ∧ pre.getLast? = (s.dueRooms number pre).getLast? ∨
      (s.dueRooms number pre).length < 42 ∧ post = [])
  cut : refused = true → j < 3 ∧ 32 < s.link.queue.length + j ∧ 14 * j < (s.dueRooms number pre).length ∧
    ((s.dueRooms number pre).length = 14 * j + 14 ∧ pre.getLast? = (s.dueRooms number pre).getLast? ∨
      (s.dueRooms number pre).length < 14 * j + 14 ∧ post = [])
  state : u = { s with
    rooms := u.rooms
    lamps := { s.lamps with
      queue := (s.dueRooms number pre).drop (14 * j) ++ post ++ pre.filter (s.deferred number) }
    link := { s.link with queue := s.link.queue ++ orderFrames s j (s.dueRooms number pre) } }
  room : ∀ r, u.room r =
    if r ∈ (s.dueRooms number pre).take (14 * j) then (s.room r).orderSent number
    else if r ∈ pre ∧ (s.room r).lamp.settled = true then
      { s.room r with lamp := { (s.room r).lamp with queued := false } }
    else s.room r

/-- What the taking of a whole queue of distinct rooms comes to. -/
theorem sweepTaken_of_nodup (s : State) (number : Nat) (hnodup : s.lamps.queue.Nodup) :
    let out := buildOrders number s.lamps.queue [] [] 3 s
    ∃ pre post j, SweepTaken s number pre post j out.2 out.1 := by
  intro out
  obtain ⟨pre, post, j, hqueue, hadmitted, hwhole, hcut, hstate, hroom⟩ :=
    buildOrders_spec number s.lamps.queue [] [] 3 s (by simpa using hnodup) (by simp) (by omega)
  simp only [List.nil_append, List.append_nil] at hwhole hcut hstate hroom
  refine ⟨pre, post, j, hqueue, hadmitted, fun hfalse => ?_, fun htrue => ?_, hstate, hroom⟩
  · obtain ⟨hle, hlt, hends⟩ := hwhole hfalse
    exact ⟨hle, hlt, hends.imp (fun ⟨_, hlen, hlast⟩ => ⟨hlen, hlast⟩) fun ⟨hlen, hpost⟩ => ⟨hlen, hpost⟩⟩
  · obtain ⟨hj, hlt, _, hfull, hends⟩ := hcut htrue
    exact ⟨hj, hfull, hlt, hends⟩

/-- What follows the shut test, by the taking: on a sense turn with no frame refused the sense query. -/
theorem sweepBuilt_taken {s : State} {number : Nat} (hnodup : s.lamps.queue.Nodup) :
    ∃ pre post j refused u, SweepTaken s number pre post j refused u ∧
      sweepBuilt number s = if number % s.lamps.senseInterval = 0 ∧ refused = false then senseQuery u else u := by
  obtain ⟨pre, post, j, htaken⟩ := sweepTaken_of_nodup s number hnodup
  refine ⟨pre, post, j, _, _, htaken, ?_⟩
  have hturn : (buildOrders number s.lamps.queue [] [] 3 s).1.lamps.senseInterval = s.lamps.senseInterval := by
    rw [htaken.state]
  rw [sweepBuilt]
  exact if_congr (by rw [and_comm]) rfl rfl

namespace SweepTaken
variable {s u : State} {number j : Nat} {pre post : List RoomIx} {refused : Bool}

theorem due_length (h : SweepTaken s number pre post j refused u) :
    (s.dueRooms number pre).length ≤ s.lamps.queue.length := by
  rw [h.queue, List.length_append]
  exact (List.length_filter_le _ _).trans (Nat.le_add_right _ _)

/-- A short queue with room for one frame is taken whole, in one frame at the most (R135). -/
theorem short (h : SweepTaken s number pre post j refused u) (hshort : s.lamps.queue.length ≤ 14)
    (hroom : s.link.queue.length ≤ 32) :
    refused = false ∧ post = [] ∧ (s.dueRooms number pre).drop (14 * j) = [] ∧
      (s.dueRooms number pre).take (14 * j) = s.dueRooms number pre ∧
      orderFrames s j (s.dueRooms number pre) =
        (if s.dueRooms number pre = [] then [] else [.lampOrder ((s.dueRooms number pre).map s.orderOf)]) := by
  have hlen := h.due_length
  have hsent : refused = false := by
    by_contra hrefused
    obtain ⟨-, hfull, hleft, -⟩ := h.cut (Bool.not_eq_false _ ▸ hrefused)
    omega
  obtain ⟨hle, hlt, hends⟩ := h.whole hsent
  have hpost : post = [] := by
    rcases hends with ⟨h42, -⟩ | ⟨-, hpost⟩
    · omega
    · exact hpost
  refine ⟨hsent, hpost, List.drop_eq_nil_of_le hle, List.take_of_length_le hle, ?_⟩
  by_cases hnil : s.dueRooms number pre = []
  · have hj : j = 0 := by
      rw [hnil, List.length_nil] at hlt
      omega
    rw [if_pos hnil, hj, orderFrames, List.range_zero, List.map_nil]
  · have hpos := List.length_pos_iff.mpr hnil
    have hj : j = 1 := by omega
    rw [if_neg hnil, hj, orderFrames, List.range_one, List.map_singleton, Nat.mul_zero, List.drop_zero,
      List.take_of_length_le (by omega)]

/-- With no room for a frame and every room due, the first frame is refused and the taking leaves the state as it was
(R135). -/
theorem noRoom (h : SweepTaken s number pre post j refused u) (hfull : 32 < s.link.queue.length)
    (hne : s.lamps.queue ≠ []) (hdue : ∀ r ∈ s.lamps.queue, s.orderable number r = true) : refused = true ∧ u = s := by
  have hj : j = 0 := by
    by_contra hj
    have := h.admitted (by omega)
    omega
  have hpre : ∀ r ∈ pre, s.orderable number r = true := fun r hr => hdue r (by rw [h.queue]; exact List.mem_append_left _ hr)
  have hall : s.dueRooms number pre = pre := List.filter_eq_self.mpr hpre
  have hnone : pre.filter (s.deferred number) = [] := List.filter_eq_nil_iff.mpr fun r hr hdef =>
    ((s.orderable_iff number r).mp (hpre r hr)).2 ((s.deferred_iff number r).mp hdef).2
  have hrefused : refused = true := by
    by_contra hsent
    obtain ⟨hle, -, hends⟩ := h.whole (Bool.not_eq_true _ ▸ hsent)
    rw [hall, hj] at hle
    rw [hall] at hends
    have hnil : pre = [] := List.length_eq_zero_iff.mp (by omega)
    rcases hends with ⟨h42, -⟩ | ⟨-, hpost⟩
    · simp [hnil] at h42
    · exact hne (by rw [h.queue, hnil, hpost]; rfl)
  refine ⟨hrefused, ?_⟩
  have hsame : u.rooms = s.rooms := by
    refine Vector.ext fun i hi => ?_
    have hroom := h.room ⟨i, hi⟩
    have hkept : ¬ ((⟨i, hi⟩ : RoomIx) ∈ pre ∧ (s.room ⟨i, hi⟩).lamp.settled = true) := fun ⟨hin, hsettled⟩ =>
      Bool.false_ne_true (((s.orderable_iff number _).mp (hpre _ hin)).1.symm.trans hsettled)
    rwa [hj, Nat.mul_zero, List.take_zero, if_neg List.not_mem_nil, if_neg hkept] at hroom
  rw [h.state, hsame, hall, hj, hnone]
  simp only [Nat.mul_zero, List.drop_zero, List.append_nil, ← h.queue, orderFrames, List.range_zero, List.map_nil]

end SweepTaken

/-! ## O36 -/

/-- Settles O36. -/
theorem sweepsOrderLamps : Obligations.SweepsOrderLamps := by
  intro s hreset
  refine ⟨fun hdue => ?idle, ?tested, ?taken⟩
  case idle => exact event_handed hreset (if_neg (by rw [hdue]; exact Bool.false_ne_true))
  case tested =>
    intro hdue shut flipped tested
    obtain ⟨htested, -, hrooms⟩ := shutTest_spec s
    have hfold : shutTest s = tested := htested
    rw [← htested] at hrooms
    refine ⟨(exec_sweep_tested hreset hdue).trans (congrArg _ hfold), fun r => ?_⟩
    obtain ⟨hshut, -⟩ := hrooms r
    rw [← hfold]
    exact hshut
  case taken =>
    intro hdue hshut hnodup number needs held order
    have hneeds (r : RoomIx) : (s.room r).lamp.settled = false ↔ needs r := LampRecord.settled_eq_false _
    have hheld (r : RoomIx) : heldOff number s.lamps.holdOff (s.room r).lamp = true ↔ held r := heldOff_iff ..
    have hsettled (r : RoomIx) : (s.room r).lamp.settled = true ↔ ¬ needs r := by
      have hnot := not_congr (hneeds r)
      rwa [Bool.not_eq_false] at hnot
    have hdueIff (r : RoomIx) : (s.sweepCounted number).orderable number r = true ↔ needs r ∧ ¬ held r :=
      ((s.sweepCounted number).orderable_iff number r).trans (and_congr (hneeds r) (not_congr (hheld r)))
    have hoffIff (r : RoomIx) : (s.sweepCounted number).deferred number r = true ↔ needs r ∧ held r :=
      ((s.sweepCounted number).deferred_iff number r).trans (and_congr (hneeds r) (hheld r))
    obtain ⟨pre, post, j, refused, u, htaken, hbuilt⟩ := sweepBuilt_taken (s := s.sweepCounted number) (number := number) hnodup
    have hexec := exec_sweep_fixed hreset hdue hshut
    rw [hbuilt] at hexec
    have hmemDue (r : RoomIx) (hr : r ∈ pre) : r ∈ (s.sweepCounted number).dueRooms number pre ↔ needs r ∧ ¬ held r := by
      rw [State.dueRooms, List.mem_filter, hdueIff, and_iff_right hr]
    have hmemOff (r : RoomIx) (hr : r ∈ pre) : r ∈ pre.filter ((s.sweepCounted number).deferred number) ↔ needs r ∧ held r := by
      rw [List.mem_filter, hoffIff, and_iff_right hr]
    have hroom := htaken.room
    simp only [hsettled, show ∀ r, ((s.sweepCounted number).room r) = s.room r from fun _ => rfl] at hroom
    refine ⟨⟨_, u, pre, post, _, _, j, refused, hexec, htaken.queue, List.filter_sublist, hmemDue, List.filter_sublist, hmemOff,
      htaken.admitted, htaken.whole, htaken.cut, htaken.state, hroom, ?query⟩, fun hturn hshort hspace => ?short,
      fun hfull hne hall => ?full⟩
    case query =>
      by_cases hquery : number % s.lamps.senseInterval = 0 ∧ refused = false
      · rw [if_pos hquery, if_pos (by exact hquery)]
        exact senseQuery_spec u
      · rw [if_neg hquery, if_neg (by exact hquery)]
    case short =>
      obtain ⟨-, hpost, hleft, hsent, hframes⟩ := htaken.short hshort hspace
      have hqueue : s.lamps.queue = pre := htaken.queue.trans (by rw [hpost, List.append_nil])
      have hstate := htaken.state
      rw [hleft, hpost, hframes] at hstate
      rw [hsent] at hroom
      rw [if_neg fun h => hturn h.1] at hexec
      have hlamps : u.lamps.queue = pre.filter ((s.sweepCounted number).deferred number) := by rw [hstate]; rfl
      rw [hqueue]
      refine ⟨u, _, hexec, List.filter_sublist, hmemDue, ?_, hlamps ▸ List.filter_sublist, fun r hr => ?_, hroom⟩
      · rw [hlamps]
        exact hstate
      · rw [hlamps]
        exact hmemOff r hr
    case full =>
      obtain ⟨hrefused, hsame⟩ := htaken.noRoom hfull hne fun r hr => (hdueIff r).mpr (hall r hr)
      rw [if_neg fun h => by simp [hrefused] at h, hsame] at hexec
      exact hexec

end Sys2Proof.Machine
end


section
-- The proofs are elaborated one after another: the waiting threads would take the memory that the check allows.
set_option Elab.async false
/-! SUPPORT. The tick (R5) and the menu timer's expiry (R56). -/

namespace Sys2Proof.Machine

/-! ## A channel's record replaced -/

@[simp] theorem State.chan_withChan_same (s : State) (c : ChannelIx) (x : Channel) : (s.withChan c x).chan c = x := by
  simp [State.withChan, State.chan]

@[simp] theorem State.withChan_withChan (s : State) (c : ChannelIx) (x y : Channel) :
    (s.withChan c x).withChan c y = s.withChan c y := by
  simp [State.withChan]

theorem State.updChan_eq (s : State) (c : ChannelIx) (f : Channel → Channel) : s.updChan c f = s.withChan c (f (s.chan c)) := rfl

/-- Playing an item changes no channel record. -/
@[simp] theorem State.chan_starts (s : State) (c k : ChannelIx) (i : PlayItem) : (State.starts c i s).chan k = s.chan k := rfl

@[simp] theorem State.message_starts (s : State) (c : ChannelIx) (i : PlayItem) (n : Nat) :
    (State.starts c i s).message n = s.message n := rfl

theorem Ring.raiseRead_item (g : Ring) : g.raiseRead.item = g.item := by
  rw [Ring.raiseRead]
  split <;> rfl

/-- The channel plays the item started. -/
@[simp] theorem State.starts_item (s : State) (c : ChannelIx) (i : PlayItem) : ((State.starts c i s).ring c).item = some i := by
  simp only [State.starts, State.ring]
  rw [Fin.getElem_fin, Vector.getElem_set_self, Ring.raiseReads, Ring.raiseRead_item, Ring.raiseRead_item]

/-! ## A reader leaves a message that is not DELETING (R59) -/

/-- Settling leaves a message that is not DELETING alone (R113). -/
theorem settle_of_kept {s : State} {n : Nat} {m : Message} (hm : s.message n = some m) (hkept : m.state ≠ .deleting) :
    settle n s = s := by
  rw [settle, hm]
  exact if_neg fun h => hkept h.1

theorem leaveMessage_kept {s : State} {c : ChannelIx} {n : Nat} {m : Message} (hreading : (s.chan c).reading = true)
    (hcurrent : (s.chan c).current = some n) (hm : s.message n = some m) (hkept : m.state ≠ .deleting) :
    leaveMessage c s = (s.updChan c fun x => { x with reading := false, current := none }).updMessage n
      fun m => { m with readers := m.readers - 1 } := by
  rw [leaveMessage, hreading, hcurrent]
  refine settle_of_kept (m := { m with readers := m.readers - 1 }) ?_ hkept
  rw [State.message_updMessage _ _ _ _ (by simp), if_pos rfl]
  exact congrArg (Option.map _) hm

/-! ## The tick (R5) -/

theorem lowered_eq (t : Option Nat) : lowered t = t.map (· - 1) := by
  rcases t with _ | _ | n <;> rfl

theorem meterTick_eq (x : Meter) : meterTick x =
    { x with timer := x.timer.map (· - 1), countdown := if x.state = .connected then x.countdown.map (· - 1) else x.countdown } := by
  simp only [meterTick, lowered_eq]

/-- The tick given to an active device's lamps (R133). -/
theorem lampTick_eq (s : State) : lampTick s = { s with lamps :=
    if s.active = false then s.lamps
    else if s.lamps.period + 1 < s.lamps.lampPeriod then { s.lamps with period := s.lamps.period + 1 }
    else { s.lamps with period := 0, due := true } } := by
  rw [lampTick]
  by_cases hactive : s.active = true
  · simp only [hactive, if_true, Bool.true_eq_false, if_false]
    by_cases hend : s.lamps.period + 1 < s.lamps.lampPeriod
    · rw [if_pos hend, if_neg (Nat.not_le.mpr hend)]
    · rw [if_neg hend, if_pos (Nat.not_lt.mp hend)]
  · rw [if_neg hactive, if_pos (Bool.not_eq_true _ ▸ hactive)]

/-- A tick that is due in PRESENT. -/
theorem takeTick_due {s : State} (hpresent : s.highway.presence = .present) (hframes : s.clock.frames = 8000) :
    takeTick s = lampTick
      { s with clock := s.clock.tick
               channels := mapVector channelTick s.channels
               meters := if s.active then mapVector (Option.map meterTick) s.meters else s.meters } :=
  if_pos ⟨hframes, hpresent⟩

/-! ## The menu timer (R56) -/

theorem exec_menuTimerExpiry {s u : State} {c : ChannelIx} (hreset : s.resetLow = false) (hu : (menuExpiry c s).drains = u) :
    exec (.menuTimerExpiry c) s = .next u :=
  event_handed (f := fun s => drainTest (menuExpiry c s)) hreset ((drainTest_eq _).trans hu)

/-- The first expiry plays the menu again. -/
theorem menuExpiry_first {s : State} {c : ChannelIx} (hlisten : (s.chan c).state = .listen) (htimer : (s.chan c).timer = some 0)
    (hprompted : s.prompted) (hrepeats : (s.chan c).repeats = 0) :
    menuExpiry c s = State.starts c pAfterMenu
      (s.withChan c { s.chan c with timer := none, repeats := 1, playList := [pAfterMenu] }) := by
  have hplay : (s.updChan c fun x => { x with timer := none, repeats := 1 }).playable pAfterMenu := hprompted _
  have hlist : setList c [pAfterMenu] (s.updChan c fun x => { x with timer := none, repeats := 1 }) =
      State.starts c pAfterMenu (s.withChan c { s.chan c with timer := none, repeats := 1, playList := [pAfterMenu] }) := by
    rw [setList_eq hplay, State.chan_updChan_same, State.updChan_eq, State.withChan_withChan]
  simp only [menuExpiry]
  rw [if_pos ⟨hlisten, htimer⟩, if_pos hrepeats, playMenu, hlist]
  refine if_neg ?_
  rw [State.chan_starts, State.chan_withChan_same]
  exact List.cons_ne_nil _ _

/-- Another expiry leaves the message and closes. -/
theorem menuExpiry_again {s : State} {c : ChannelIx} (hlisten : (s.chan c).state = .listen) (htimer : (s.chan c).timer = some 0)
    (hrepeats : (s.chan c).repeats ≠ 0) :
    menuExpiry c s = enterClosing c [pGoodbye] (leaveMessage c (s.withChan c { s.chan c with timer := none })) := by
  simp only [menuExpiry]
  rw [if_pos ⟨hlisten, htimer⟩, if_neg hrepeats, State.updChan_eq]

theorem menuExpiry_idle {s : State} {c : ChannelIx} (h : (s.chan c).timer ≠ some 0 ∨ (s.chan c).state ≠ .listen) :
    menuExpiry c s = s :=
  if_neg fun ⟨hlisten, htimer⟩ => h.elim (· htimer) (· hlisten)

/-- CLOSING with [GOODBYE], from a state whose prompts are those of a directory with every entry. -/
theorem enterClosing_goodbye {s z : State} (hprompted : s.prompted) (hprompts : z.store.prompts = s.store.prompts)
    (c : ChannelIx) : enterClosing c [pGoodbye] z =
      State.starts c pGoodbye (z.withChan c { z.chan c with state := .closing, playList := [pGoodbye] }) := by
  refine enterClosing_eq ?_ c []
  show z.store.prompts[_] ≠ none
  rw [hprompts]
  exact hprompted _

/-! ## O8 -/

/-- Settles O8. -/
theorem tickAdvancesClockAndTimers : Obligations.TickAdvancesClockAndTimers := by
  refine ⟨fun s hreset hpresent hframes hseconds => ?tick, fun c s hreset => ?expiry⟩
  case tick =>
    refine ⟨_, event_handed hreset (takeTick_due hpresent hframes), ?_⟩
    rw [lampTick_eq]
    refine ⟨rfl, ?_, ?_, ?_, fun c => ?_, fun m => ?_, rfl⟩
    · simp only [Clock.tick]; split <;> rfl
    · simp only [Clock.tick]; split <;> rfl
    · simp only [Clock.tick, Config.secondsPerDay, Nat.reduceEqDiff]
      split <;> exact ⟨rfl, rfl, rfl⟩
    · simp only [State.chan, getElem_mapVector, channelTick, lowered_eq]
    · by_cases hactive : s.active = true
      · simp only [State.meter, if_pos hactive, getElem_mapVector]
        exact congrArg (Option.map · _) (funext meterTick_eq)
      · simp only [State.meter, if_neg hactive]
  case expiry =>
    intro x idle
    refine ⟨fun hnot => ?idle, fun hlisten htimer hprompted => ⟨fun hfirst => ?first, fun hagain hblank => ?again,
      fun n m hagain hreading hcurrent hm hkept => ?reader⟩⟩
    case idle => exact exec_menuTimerExpiry hreset (congrArg _ (menuExpiry_idle hnot))
    case first =>
      refine exec_menuTimerExpiry hreset ?_
      rw [menuExpiry_first hlisten htimer hprompted hfirst]
      refine State.drains_of_busy (c := c) ?_
      rw [State.chan_starts, State.chan_withChan_same]
      exact fun hfree => nomatch hlisten.symm.trans hfree
    case again =>
      refine exec_menuTimerExpiry hreset ?_
      have hleaves : leaveMessage c idle = idle.leaves c := leaveMessage_eq (.inr hblank)
      rw [menuExpiry_again hlisten htimer hagain, hleaves,
        enterClosing_goodbye (s := s) hprompted (Channel.leaves_prompts _ _ _), State.leaves_chan, State.chan_withChan_same]
      refine State.drains_of_busy (c := c) ?_
      rw [State.chan_starts, State.chan_withChan_same]
      exact fun h => nomatch h
    case reader =>
      have hchan : idle.chan c = { x with timer := none } := State.chan_withChan_same ..
      have hleaves := leaveMessage_kept (s := idle) (c := c) (by rw [hchan]; exact hreading) (by rw [hchan]; exact hcurrent) hm hkept
      refine ⟨_, exec_menuTimerExpiry hreset rfl, ?_⟩
      rw [menuExpiry_again hlisten htimer hagain, hleaves, enterClosing_goodbye (s := s) hprompted (by rfl),
        State.drains_of_busy (c := c) (by rw [State.chan_starts, State.chan_withChan_same]; exact fun h => nomatch h)]
      rw [State.chan_starts, State.chan_withChan_same, State.message_starts, State.starts_item, State.chan_updMessage,
        State.chan_updChan_same]
      refine ⟨?_, rfl, rfl, rfl, rfl⟩
      show State.message (State.updMessage _ n _) n = _
      rw [State.message_updMessage _ _ _ _ (by simp), if_pos rfl]
      exact congrArg (Option.map _) hm

end Sys2Proof.Machine
end


section
-- The proofs are elaborated one after another: the waiting threads would take the memory that the check allows.
set_option Elab.async false
/-! SUPPORT. One highway frame (R1, R2): its speech slots in order, the octets of slots 126 and 127, and what it leaves. -/

namespace Sys2Proof.Machine

/-! ## The speech slots in order -/

/-- What a speech slot carries by the bindings, mutes and delay line of `s`. -/
def State.slotUse (s : State) (k : Fin 126) : SlotUse :=
  match s.highway.bindings[k] with
  | some c => .channel c
  | none => .carries (if s.mutedSlots.contains k.val then s.coder.quiet else s.highway.delay[k])

theorem State.slotUse_bound {s : State} {k : Fin 126} {c : ChannelIx} (h : s.highway.bindings[k] = some c) :
    s.slotUse k = .channel c := by
  rw [State.slotUse, h]

theorem State.slotUse_unbound {s : State} {k : Fin 126} (h : s.highway.bindings[k] = none) :
    s.slotUse k = .carries (if s.mutedSlots.contains k.val then s.coder.quiet else s.highway.delay[k]) := by
  rw [State.slotUse, h]

theorem State.slotUses_eq (s : State) : s.slotUses = (List.finRange 126).map s.slotUse := by
  refine List.ext_getElem (by simp [State.slotUses]) fun i hi _ => ?_
  have hi' : i < 126 := by simpa [State.slotUses] using hi
  cases hbound : s.highway.bindings[i] <;> simp [State.slotUses, State.slotUse, hbound]

/-- The uses of the speech slots with the octets received in them. -/
def State.frameUses (s : State) (hin : List Octet) : List (SlotUse × Octet) :=
  (List.finRange 126).map fun k => (s.slotUse k, hin.getD k.val 0xFF)

theorem inbound_getElem (hin : List Octet) (k : Fin 128) : (inbound hin)[k] = hin.getD k.val 0xFF := getElem_vectorOf ..

theorem State.zip_slotUses (s : State) (hin : List Octet) : s.slotUses.zip (inbound hin).toList = s.frameUses hin := by
  rw [State.slotUses_eq]
  refine List.ext_getElem (by simp [State.frameUses]) fun i hi _ => ?_
  have hi' : i < 126 := by simpa using hi
  have hoctet := inbound_getElem hin ⟨i, by omega⟩
  simpa [State.frameUses] using hoctet

/-- The state after a speech slot. -/
def slotStep (z : State) : SlotUse × Octet → State
  | (.channel c, o) => (boundFrame c o z).2
  | (.carries _, _) => z

/-- The octet a speech slot carries. -/
def slotOctet (z : State) : SlotUse × Octet → Octet
  | (.channel c, o) => (boundFrame c o z).1
  | (.carries x, _) => x

theorem speechSlots_snd (us : List SlotUse) (os : List Octet) (z : State) :
    (speechSlots us os z).2 = (us.zip os).foldl slotStep z := by
  induction us generalizing os z with
  | nil => simp [speechSlots]
  | cons u us ih => cases u <;> cases os <;> simp [speechSlots, slotStep, ih]

theorem speechSlots_fst (us : List SlotUse) (os : List Octet) (z : State) (i : Nat) :
    (speechSlots us os z).1[i]? =
      ((us.zip os)[i]?).map (slotOctet (((us.zip os).take i).foldl slotStep z)) := by
  induction us generalizing os z i with
  | nil => simp [speechSlots]
  | cons u us ih => cases u <;> cases os <;> cases i <;> simp [speechSlots, slotStep, slotOctet, ih]

theorem speechSlots_length (us : List SlotUse) (os : List Octet) (z : State) :
    (speechSlots us os z).1.length = (us.zip os).length := by
  induction us generalizing os z with
  | nil => simp [speechSlots]
  | cons u us ih => cases u <;> cases os <;> simp [speechSlots, ih]

/-- With no slot bound the speech slots change nothing. -/
theorem frameUses_unbound {s : State} (h : ∀ k : Fin 126, s.highway.bindings[k] = none) (hin : List Octet) (z : State) :
    (s.frameUses hin).foldl slotStep z = z := by
  rw [State.frameUses, List.foldl_map]
  refine List.foldl_fixed' (fun k => ?_) _
  rw [State.slotUse_unbound (h k), slotStep]

/-! ## Slots 126 and 127 -/

/-- The octets of slots 126 and 127 of a frame taken, the transmitter having its turn in a whole one. -/
def linkSlots (hin : List Octet) (z : State) : Octet × State :=
  slot127 (decide (128 ≤ hin.length)) (hin.getD 127 0xFF) (takeSlot126 (hin.getD 126 0xFF) z)

theorem slot127_snd (n : Nat) (o : Octet) (z : State) :
    (slot127 (decide (128 ≤ n)) o z).2 = takeSlot127 o (if n < 128 then z else z.sent) := by
  by_cases h : n < 128
  · rw [slot127, decide_eq_false (Nat.not_le.mpr h), if_pos h]
    rfl
  · rw [slot127, decide_eq_true (Nat.not_lt.mp h), if_neg h, ← transmit_eq]
    rfl

theorem slot127_whole (n : Nat) (o : Octet) (z : State) (h : 128 ≤ n) :
    (slot127 (decide (128 ≤ n)) o z).1 = z.toSend.1.headD 0xFF := by
  rw [slot127, decide_eq_true h]
  rfl

/-- A framer in HUNT passes over an octet that is not a SYNC. -/
theorem Framer.take_hunt {o : Octet} (h : o ≠ 0x7E) : Framer.take o .hunt = (.hunt, none) := by
  rw [Framer.take, if_neg h]

theorem takeSlot126_quiet {z : State} {o : Octet} (hhunt : z.link.framer126 = .hunt) (ho : o ≠ 0x7E) : takeSlot126 o z = z := by
  have hlink : { z.link with framer126 := .hunt } = z.link := by rw [← hhunt]
  simp only [takeSlot126, hhunt, Framer.take_hunt ho, Option.elim, hlink]

theorem takeSlot127_quiet {z : State} {o : Octet} (hhunt : z.link.framer127 = .hunt) (ho : o ≠ 0x7E) : takeSlot127 o z = z := by
  have hlink : { z.link with framer127 := .hunt } = z.link := by rw [← hhunt]
  simp only [takeSlot127, hhunt, Framer.take_hunt ho, Option.elim, hlink]

/-- With no slot bound a frame delivered in slot 126 is handed over as it is. -/
theorem takeSlot126_unbound {z : State} (h : ∀ k : Fin 126, z.highway.bindings[k] = none) (o : Octet) :
    takeSlot126 o z =
      ((z.link.framer126.take o).2.elim { z with link := { z.link with framer126 := (z.link.framer126.take o).1 } } fun f =>
        snoop f { z with link := { z.link with framer126 := (z.link.framer126.take o).1 } }) := by
  rw [takeSlot126]
  exact congrArg (Option.elim _ _) (funext fun f => congrArg (snoop f) (encodersSettled_unbound h))

theorem takeSlot127_unbound {z : State} (h : ∀ k : Fin 126, z.highway.bindings[k] = none) (o : Octet) :
    takeSlot127 o z =
      ((z.link.framer127.take o).2.elim { z with link := { z.link with framer127 := (z.link.framer127.take o).1 } } fun f =>
        dispatch f { z with link := { z.link with framer127 := (z.link.framer127.take o).1 } }) := by
  rw [takeSlot127]
  exact congrArg (Option.elim _ _) (funext fun f => congrArg (dispatch f) (encodersSettled_unbound h))

theorem State.sent_highway (z : State) : z.sent.highway = z.highway := by
  rw [← transmit_eq, (transmit_frame z).2.2.1]

/-! ## The whole frame -/

theorem State.drains_highway (s : State) (h : Highway) :
    State.drains { s with highway := h } = { s.drains with highway := h } := by
  rw [← drainTest_eq, ← drainTest_eq]
  have hd : State.drained { s with highway := h } = s.drained := rfl
  simp only [drainTest, hd]
  split <;> rfl

/-- The presence of a device that has just had an HFS pulse (R7). -/
def State.begun (s : State) : State := { s with highway := { s.highway with presence := .present, missing := 0 } }

/-- The state after the speech slots of a frame and the drain test. -/
def State.spoken (s : State) (hin : List Octet) : State := ((s.frameUses hin).foldl slotStep s.begun).drains

/-- The octets of the speech slots of a frame. -/
def State.speech (s : State) (hin : List Octet) : List Octet := (speechSlots s.slotUses (inbound hin).toList s.begun).1

theorem State.speech_length (s : State) (hin : List Octet) : (s.speech hin).length = 126 := by
  rw [State.speech, speechSlots_length, State.zip_slotUses, State.frameUses, List.length_map, List.length_finRange]

theorem State.speech_getElem (s : State) (hin : List Octet) (k : Fin 126) :
    (s.speech hin)[k.val]? =
      some (slotOctet (((s.frameUses hin).take k.val).foldl slotStep s.begun) (s.slotUse k, hin.getD k.val 0xFF)) := by
  rw [State.speech, speechSlots_fst, State.zip_slotUses]
  simp [State.frameUses]

/-- A highway frame out of highway loss. -/
theorem takeFrame_present {s : State} {hin : List Octet} (hreset : s.resetLow = false) (hpresent : s.highway.presence ≠ .lost) :
    takeFrame hin s =
      { (linkSlots hin (s.spoken hin)).2 with
        highway := { (linkSlots hin (s.spoken hin)).2.highway with
          delay := inbound hin
          hout := (s.speech hin ++ [s.highway.delay[126], (linkSlots hin (s.spoken hin)).1]).take hin.length }
        clock := (linkSlots hin (s.spoken hin)).2.clock.frameEnd } := by
  have hpulse : pulse s = s.begun := by
    rw [pulse, if_neg hpresent]
    rfl
  have huses : s.begun.slotUses = s.slotUses := rfl
  have hspoken : drainTest (speechSlots s.slotUses (inbound hin).toList s.begun).2 = s.spoken hin := by
    rw [drainTest_eq, speechSlots_snd, State.zip_slotUses]
    rfl
  have h126 : (inbound hin)[126] = hin.getD 126 0xFF := inbound_getElem hin 126
  have h127 : (inbound hin)[127] = hin.getD 127 0xFF := inbound_getElem hin 127
  rw [takeFrame, if_neg (by rw [hreset]; exact Bool.false_ne_true), hpulse, frameSlots, huses, hspoken, h126, h127]
  rfl

/-- With no slot bound a frame starts from the drain test. -/
theorem State.spoken_unbound {s : State} (h : ∀ k : Fin 126, s.highway.bindings[k] = none) (hin : List Octet) :
    s.spoken hin = { s.drains with highway := { s.highway with presence := .present, missing := 0 } } := by
  rw [State.spoken, frameUses_unbound h]
  exact State.drains_highway s _

end Sys2Proof.Machine
end


section
-- The proofs are elaborated one after another: the waiting threads would take the memory that the check allows.
set_option Elab.async false
/-! SUPPORT. The transmitter and the framers in a highway frame with no slot bound (R8–R16). -/

namespace Sys2Proof.Machine

theorem exec_highwayFrame {s : State} {hin : List Octet} (hreset : s.resetLow = false) (hpresent : s.highway.presence ≠ .lost) :
    exec (.highwayFrame hin) s = .next
      { (linkSlots hin (s.spoken hin)).2 with
        highway := { (linkSlots hin (s.spoken hin)).2.highway with
          delay := inbound hin
          hout := (s.speech hin ++ [s.highway.delay[126], (linkSlots hin (s.spoken hin)).1]).take hin.length }
        clock := (linkSlots hin (s.spoken hin)).2.clock.frameEnd } :=
  congrArg _ (takeFrame_present hreset hpresent)

/-- The octet of slot 127, by a whole frame. -/
theorem State.hout_127 {s : State} {hin : List Octet} (hwhole : hin.length = 128) (o d : Octet) :
    ((s.speech hin ++ [d, o]).take hin.length)[127]? = some o := by
  rw [List.getElem?_take_of_lt (by omega), List.getElem?_append_right (by rw [State.speech_length]; decide), State.speech_length]
  rfl

/-- The framers in HUNT pass over a frame without a SYNC for them: only the transmitter moves. -/
theorem linkSlots_quiet {z : State} {hin : List Octet} (h126 : z.link.framer126 = .hunt) (h127 : z.link.framer127 = .hunt)
    (ho126 : hin.getD 126 0xFF ≠ 0x7E) (ho127 : hin.getD 127 0xFF ≠ 0x7E) :
    (linkSlots hin z).2 = if hin.length < 128 then z else z.sent := by
  rw [linkSlots, takeSlot126_quiet h126 ho126, slot127_snd]
  refine takeSlot127_quiet ?_ ho127
  split
  · exact h127
  · rw [← transmit_eq]
    exact h127

theorem linkSlots_whole {z : State} {hin : List Octet} (h126 : z.link.framer126 = .hunt) (ho126 : hin.getD 126 0xFF ≠ 0x7E)
    (hwhole : hin.length = 128) : (linkSlots hin z).1 = z.toSend.1.headD 0xFF := by
  rw [linkSlots, takeSlot126_quiet h126 ho126, slot127_whole _ _ _ (Nat.le_of_eq hwhole.symm)]

/-! ## What the transmitter sends (R14) -/

theorem State.sends_next {z : State} {o : Octet} {l : List Octet} (h : z.link.sending = o :: l) :
    z.toSend.1.headD 0xFF = o ∧ z.sent = { z with link := { z.link with sending := l } } := by
  rw [State.toSend, State.sent, h]
  exact ⟨rfl, rfl⟩

theorem State.sends_nothing {z : State} (h : z.link.sending = []) (hqueue : z.link.queue = []) :
    z.toSend.1.headD 0xFF = 0xFF ∧ z.sent = z := by
  rw [State.toSend, State.sent, h, hqueue]
  exact ⟨rfl, rfl⟩

theorem State.sends_sync {z : State} {f : OutFrame} {rest : List OutFrame} (h : z.link.sending = [])
    (hqueue : z.link.queue = f :: rest) : z.toSend.1.headD 0xFF = 0x7E ∧
      z.sent = { z with link := { z.link with
        sending := (envelope f.addr f.kind (f.payload z.attention)).tail, queue := rest } } := by
  rw [State.toSend, State.sent, h, hqueue]
  exact ⟨rfl, rfl⟩

/-! ## O6 -/

/-- Settles O6. -/
theorem transmitterSendsInSlot127 : Obligations.TransmitterSendsInSlot127 := by
  refine ⟨fun s hin hreset hpresent hservice hquiet hlen ho126 ho127 => ?quiet,
    fun s hin hreset hpresent hunbound hlen => ?general⟩
  case quiet =>
    obtain ⟨hunbound, h126, h127⟩ := hquiet
    have hspoken : s.spoken hin = s.begun := by
      rw [State.spoken_unbound hunbound, ← drainTest_eq, drainTest_of_not_suspending hservice]
      rfl
    have hrest := linkSlots_quiet (z := s.begun) h126 h127 ho126 ho127
    refine ⟨_, exec_highwayFrame hreset (by rw [hpresent]; exact fun h => nomatch h), ?_⟩
    rw [hspoken, hrest]
    have hsent (hcut : ¬ hin.length < 128) : (if hin.length < 128 then s.begun else s.begun.sent) = s.begun.sent := if_neg hcut
    refine ⟨?_, ?_, ?_, fun hcut => ?_, fun hwhole => ?_⟩
    · rw [← transmit_eq]
      split <;> rfl
    · rw [← transmit_eq]
      split <;> rfl
    · rw [← transmit_eq]
      split <;> rfl
    · rw [if_pos hcut]
      rfl
    · rw [hsent (by omega)]
      have hoctet := linkSlots_whole (z := s.begun) h126 ho126 hwhole
      refine ⟨fun o l hsending => ?_, fun hsending hqueue => ?_, fun f rest hsending hqueue => ?_⟩
      · obtain ⟨hhead, hstate⟩ := State.sends_next (z := s.begun) hsending
        exact ⟨(State.hout_127 hwhole ..).trans (congrArg some (hoctet.trans hhead)), by rw [hstate]; rfl⟩
      · obtain ⟨hhead, hstate⟩ := State.sends_nothing (z := s.begun) hsending hqueue
        exact ⟨(State.hout_127 hwhole ..).trans (congrArg some (hoctet.trans hhead)), by rw [hstate]; rfl⟩
      · obtain ⟨hhead, hstate⟩ := State.sends_sync (z := s.begun) hsending hqueue
        exact ⟨(State.hout_127 hwhole ..).trans (congrArg some (hoctet.trans hhead)), by rw [hstate]; rfl⟩
  case general =>
    intro begun r126 taken126 heard sent r127 taken127 done
    have hlink : s.drains.link = s.link := by
      rw [← drainTest_eq]
      simp
    have hspoken : s.spoken hin = begun := (State.spoken_unbound hunbound hin).trans rfl
    have hheard : takeSlot126 (hin.getD 126 0xFF) begun = heard := by
      refine (takeSlot126_unbound (z := begun) hunbound _).trans ?_
      rw [congrArg Link.framer126 (show begun.link = s.link from hlink)]
    have hhighway : heard.highway = begun.highway := by
      cases hr : r126.2 with
      | none => simp only [heard, hr, Option.elim]; rfl
      | some f => simp only [heard, hr, Option.elim, snoop_frame]; rfl
    have hsent : sent.highway = begun.highway := by
      simp only [sent]
      split
      · exact hhighway
      · rw [State.sent_highway, hhighway]
    have hdone : (linkSlots hin (s.spoken hin)).2 = done := by
      rw [hspoken, linkSlots, hheard, slot127_snd]
      exact takeSlot127_unbound (fun k => by rw [hsent]; exact hunbound k) _
    refine ⟨_, exec_highwayFrame hreset hpresent, inbound_getElem hin, ?_⟩
    rw [hdone]
    rfl

end Sys2Proof.Machine
end


section
-- The proofs are elaborated one after another: the waiting threads would take the memory that the check allows.
set_option Elab.async false
/-! SUPPORT. What an operation of one channel leaves alone: the records of the other channels, and of the highway all but the
slot bindings (R2, R3). -/

namespace Sys2Proof.Machine

/-- `t` has the channel records of `s` but for channel `c`, and its highway but for the bindings. -/
structure ChannelLocal (c : ChannelIx) (s t : State) : Prop where
  others : ∀ k, k ≠ c → t.chan k = s.chan k
  highway : t.highway = { s.highway with bindings := t.highway.bindings }

section
variable {s z t : State} {c : ChannelIx}

theorem ChannelLocal.refl (c : ChannelIx) (s : State) : ChannelLocal c s s := ⟨fun _ _ => rfl, rfl⟩

theorem ChannelLocal.trans (h : ChannelLocal c s z) (k : ChannelLocal c z t) : ChannelLocal c s t where
  others j hj := (k.others j hj).trans (h.others j hj)
  highway := by rw [k.highway, h.highway]

/-! ## The state's operations -/

/-- An operation that writes no channel record and nothing of the highway. -/
theorem ChannelLocal.same (h : ChannelLocal c s z) (hchannels : t.channels = z.channels) (hhighway : t.highway = z.highway) :
    ChannelLocal c s t :=
  h.trans ⟨fun k _ => by rw [State.chan, hchannels, State.chan], by rw [hhighway]⟩

theorem ChannelLocal.updChan (h : ChannelLocal c s z) (f : Channel → Channel) : ChannelLocal c s (z.updChan c f) :=
  h.trans ⟨fun k hk => by rw [State.chan_updChan, if_neg (Ne.symm hk)], rfl⟩

theorem ChannelLocal.bind (h : ChannelLocal c s z) (k : Fin 126) (o : Option ChannelIx) : ChannelLocal c s (z.bind k o) :=
  h.trans ⟨fun _ _ => rfl, rfl⟩

theorem ChannelLocal.updRing (h : ChannelLocal c s z) (k : ChannelIx) (f : Ring → Ring) : ChannelLocal c s (z.updRing k f) :=
  h.same rfl rfl

theorem ChannelLocal.updEncoder (h : ChannelLocal c s z) (k : ChannelIx) (f : Encoder → Encoder) :
    ChannelLocal c s (z.updEncoder k f) :=
  h.same rfl rfl

theorem ChannelLocal.place (h : ChannelLocal c s z) (k : Attention) : ChannelLocal c s (place k z) :=
  h.same (by simp) (by simp)

theorem ChannelLocal.offerNotice (h : ChannelLocal c s z) (f : OutFrame) : ChannelLocal c s (offerNotice f z) :=
  h.same (by simp) (by simp)

theorem ChannelLocal.drainTest (h : ChannelLocal c s z) : ChannelLocal c s (drainTest z) :=
  h.same (by simp) (by simp)

theorem ChannelLocal.updMessage (h : ChannelLocal c s z) (n : Nat) (f : Message → Message) :
    ChannelLocal c s (z.updMessage n f) :=
  h.same rfl rfl

theorem ChannelLocal.settle (h : ChannelLocal c s z) (n : Nat) : ChannelLocal c s (settle n z) := h.same (by simp) (by simp)

theorem ChannelLocal.deletePath (h : ChannelLocal c s z) (n : Nat) : ChannelLocal c s (deletePath n z) :=
  h.same (by simp) (by simp)

theorem ChannelLocal.commit (h : ChannelLocal c s z) (n v : Nat) : ChannelLocal c s (commit n v z) := h.same (by simp) (by simp)

theorem ChannelLocal.makeHeard (h : ChannelLocal c s z) (n : Nat) : ChannelLocal c s (makeHeard n z) :=
  h.same (by simp) (by simp)

theorem ChannelLocal.createMessage (h : ChannelLocal c s z) (r : RoomIx) : ChannelLocal c s (createMessage r z) :=
  h.same (by simp) (by simp)

theorem ChannelLocal.evaluateLamp (h : ChannelLocal c s z) (r : RoomIx) : ChannelLocal c s (evaluateLamp r z) :=
  h.same (by simp) (by simp)

/-! ## Play lists, freeing and closing -/

theorem ChannelLocal.takeItem (h : ChannelLocal c s z) (k : ChannelIx) (i : PlayItem) (pages : List Nat) :
    ChannelLocal c s (takeItem k i pages z) :=
  h.same rfl rfl

theorem ChannelLocal.startList (h : ChannelLocal c s z) (l : List PlayItem) : ChannelLocal c s (startList c l z) := by
  induction l generalizing z with
  | nil => exact h.updChan _
  | cons i l ih =>
    cases i with
    | prompt id =>
      rw [Machine.startList]
      split
      · exact ih (h.place _)
      · exact (h.updChan _).takeItem ..
    | message n => exact (h.updChan _).takeItem ..

theorem ChannelLocal.setList (h : ChannelLocal c s z) (l : List PlayItem) : ChannelLocal c s (setList c l z) :=
  (h.updRing c Ring.leave).startList l

theorem ChannelLocal.leaveMessage (h : ChannelLocal c s z) : ChannelLocal c s (leaveMessage c z) := by
  unfold Machine.leaveMessage
  dsimp only
  split
  · exact ((h.updChan _).updMessage ..).settle _
  · exact h.updChan _

theorem ChannelLocal.enterFree (h : ChannelLocal c s z) : ChannelLocal c s (enterFree c z) := by
  have hfreed := (h.leaveMessage.updRing c Ring.leave).updChan fun x =>
    { x with state := .free, playList := [], keyHolder := none, timer := none, slot := none }
  unfold Machine.enterFree
  dsimp only
  split
  · exact hfreed.bind _ _
  · exact hfreed

theorem ChannelLocal.closingEnd (h : ChannelLocal c s z) : ChannelLocal c s (closingEnd c z) := by
  unfold Machine.closingEnd
  split
  · exact (h.offerNotice _).enterFree
  · exact h.enterFree

/-- A play list set, and what follows it when it has emptied. -/
theorem ChannelLocal.listed (h : ChannelLocal c s z) (l : List PlayItem) {f : State → State}
    (hf : ∀ {y : State}, ChannelLocal c s y → ChannelLocal c s (f y)) :
    ChannelLocal c s
      (if ((Machine.setList c l z).chan c).playList = [] then f (Machine.setList c l z) else Machine.setList c l z) :=
  iteInduction (fun _ => hf (h.setList l)) fun _ => h.setList l

theorem ChannelLocal.enterClosing (h : ChannelLocal c s z) (l : List PlayItem) : ChannelLocal c s (enterClosing c l z) :=
  (h.updChan _).listed l fun h => h.closingEnd

/-! ## Recording -/

theorem ChannelLocal.flushEnd (h : ChannelLocal c s z) : ChannelLocal c s (flushEnd c z) := by
  have hidle {y : State} (hy : ChannelLocal c s y) : ChannelLocal c s
      ((y.updEncoder c fun e => { e with state := .idle }).updChan c fun x => { x with current := none }) :=
    (hy.updEncoder c _).updChan _
  have hends {y : State} (hy : ChannelLocal c s y) (l : List PlayItem) (b : Bool) :
      ChannelLocal c s (if b then Machine.enterClosing c l y else Machine.enterFree c y) :=
    iteInduction (fun _ => hy.enterClosing l) fun _ => hy.enterFree
  unfold Machine.flushEnd
  dsimp only
  refine hends (hidle ?_) _ _
  split
  · exact h.commit ..
  · exact h

theorem ChannelLocal.flushTest (h : ChannelLocal c s z) : ChannelLocal c s (flushTest c z) :=
  iteInduction (fun _ => h.flushEnd) fun _ => h

theorem ChannelLocal.exhaust (h : ChannelLocal c s z) : ChannelLocal c s (exhaust c z) := by
  have hended {y : State} (hy : ChannelLocal c s y) (l : List PlayItem) : ChannelLocal c s (Machine.flushTest c
      (if ((y.updRing c fun r => { r.discard with ended := true, exhausted := true }).chan c).state = .record then
        ((y.updRing c fun r => { r.discard with ended := true, exhausted := true }).updEncoder c Encoder.finish).updChan c
          fun x => { x with state := .flush, playList := l }
       else y.updRing c fun r => { r.discard with ended := true, exhausted := true })) :=
    (iteInduction (motive := ChannelLocal c s) (fun _ => ((hy.updRing c _).updEncoder c _).updChan _)
      fun _ => hy.updRing c _).flushTest
  unfold Machine.exhaust
  dsimp only
  cases z.store.free.isEmpty
  · exact hended h _
  · exact hended (h.place _) _

theorem ChannelLocal.givePage (h : ChannelLocal c s z) (n : Nat) : ChannelLocal c s (givePage n z).2 :=
  h.same (by simp) (by simp)

theorem ChannelLocal.raiseProgram (h : ChannelLocal c s z) : ChannelLocal c s (raiseProgram c z) := by
  unfold Machine.raiseProgram
  split
  case isFalse => exact h
  have hgiven := h.givePage (((z.chan c).current).getD 0)
  split
  case h_1 b p z' e =>
    rw [e] at hgiven
    exact ChannelLocal.same (z := z') hgiven rfl rfl
  case h_2 z' e =>
    rw [e] at hgiven
    exact hgiven.exhaust

theorem ChannelLocal.raisePrograms (h : ChannelLocal c s z) : ChannelLocal c s (raisePrograms c z) :=
  h.raiseProgram.raiseProgram

theorem ChannelLocal.recordingEnd (h : ChannelLocal c s z) (l : List PlayItem) (gone : Bool) :
    ChannelLocal c s (recordingEnd c l gone z) :=
  (((h.updEncoder c _).updRing c _).updChan _).raisePrograms.flushTest

theorem ChannelLocal.offerStream (h : ChannelLocal c s z) (voice : Bool) (l : List Octet) :
    ChannelLocal c s (offerStream c voice l z) := by
  unfold Machine.offerStream
  split
  case isFalse => exact h
  have hadded := h.updRing c fun r => l.foldl Ring.add r
  exact ChannelLocal.raisePrograms (iteInduction (motive := ChannelLocal c s) (fun _ => hadded.updEncoder c _) fun _ => hadded)

/-! ## Retrieval and deposit -/

theorem ChannelLocal.startMenuTimer (h : ChannelLocal c s z) : ChannelLocal c s (startMenuTimer c z) := by
  unfold Machine.startMenuTimer
  split
  · exact h.updChan _
  · exact h

theorem ChannelLocal.playMenu (h : ChannelLocal c s z) : ChannelLocal c s (playMenu c z) :=
  h.listed [pAfterMenu] fun h => h.startMenuTimer

theorem ChannelLocal.replayEnd (h : ChannelLocal c s z) : ChannelLocal c s (replayEnd c z) := by
  unfold Machine.replayEnd
  dsimp only
  split
  · exact ((h.makeHeard _).updChan _).playMenu
  · exact (h.updChan _).playMenu

theorem ChannelLocal.chooseNext (h : ChannelLocal c s z) : ChannelLocal c s (chooseNext c z) := by
  unfold Machine.chooseNext
  split
  · exact ((h.updChan _).updMessage ..).listed _ fun h => h.replayEnd
  · exact (h.updChan _).enterClosing _

theorem ChannelLocal.enterAnnounce (h : ChannelLocal c s z) (l : List PlayItem) : ChannelLocal c s (enterAnnounce c l z) :=
  (h.updChan _).listed l fun h => h.chooseNext

theorem ChannelLocal.enterRecord (h : ChannelLocal c s z) (r : RoomIx) : ChannelLocal c s (enterRecord c r z) :=
  (((h.createMessage r).updChan _).updEncoder c _).updRing c _

theorem ChannelLocal.toneEnd (h : ChannelLocal c s z) : ChannelLocal c s (toneEnd c z) := by
  unfold Machine.toneEnd
  repeat' split
  · exact (h.updRing c _).enterRecord _
  · exact (h.place _).enterClosing _
  · exact h

theorem ChannelLocal.enterGreet (h : ChannelLocal c s z) (l : List PlayItem) : ChannelLocal c s (enterGreet c l z) :=
  (h.updChan _).listed l fun h => h.toneEnd

/-! ## Items that end, and keys -/

theorem ChannelLocal.listEmptied (h : ChannelLocal c s z) : ChannelLocal c s (listEmptied c z) := by
  unfold Machine.listEmptied
  split
  · exact h.toneEnd
  · exact h.chooseNext
  · exact h.replayEnd
  · exact h.startMenuTimer
  · exact h.closingEnd
  all_goals exact h

theorem ChannelLocal.itemEnd (h : ChannelLocal c s z) : ChannelLocal c s (itemEnd c z) :=
  h.listed _ fun h => h.listEmptied

theorem ChannelLocal.messageKey (h : ChannelLocal c s z) (k : Key) : ChannelLocal c s (messageKey c k z) := by
  have hidle := h.updChan fun x => { x with timer := none }
  unfold Machine.messageKey
  dsimp only
  split
  · exact h
  split
  · exact (hidle.updChan _).listed _ fun h => h.replayEnd
  · exact (hidle.makeHeard _).leaveMessage.chooseNext
  · refine ChannelLocal.enterAnnounce (ChannelLocal.leaveMessage ?_) _
    split
    · exact iteInduction (fun _ => (hidle.deletePath _).evaluateLamp _) fun _ => hidle.deletePath _
    · exact hidle.deletePath _
  · exact hidle.leaveMessage.enterClosing _
  · exact h

theorem ChannelLocal.channelKey (h : ChannelLocal c s z) (k : Key) : ChannelLocal c s (channelKey c k z) := by
  have hheld : ChannelLocal c s (if (z.chan c).keyHolder.isNone then z.updChan c fun x => { x with keyHolder := some k } else z) :=
    iteInduction (fun _ => h.updChan _) fun _ => h
  unfold Machine.channelKey
  dsimp only
  split
  · exact h
  · exact iteInduction (fun _ => h.enterGreet _) fun _ => h
  · split
    · split
      · exact h.updMessage ..
      · exact h
    · exact h.recordingEnd ..
    · exact h
  · exact (h.setList _).chooseNext
  · exact h.messageKey k
  · exact h.messageKey k
  · exact hheld
  · exact hheld

/-! ## Diverts, SLOT_CLEAR, close requests and reset -/

theorem ChannelLocal.startDialogue (h : ChannelLocal c s z) (p : Purpose) : ChannelLocal c s (startDialogue c p z) := by
  cases p with
  | deposit =>
    change ChannelLocal c s (startDeposit c z)
    unfold startDeposit
    repeat' split
    · exact h.enterClosing _
    · exact h.enterClosing _
    · exact h.enterClosing _
    · exact (h.place _).enterClosing _
    · exact h.enterGreet _
  | retrieve =>
    change ChannelLocal c s (startRetrieve c z)
    unfold startRetrieve
    split
    · exact h.enterClosing _
    · exact iteInduction (fun _ => h.enterClosing _) fun _ =>
        iteInduction (fun _ => h.enterClosing _) fun _ => h.enterAnnounce _
  | notice =>
    change ChannelLocal c s (startNotice c z)
    unfold startNotice
    split <;> exact h.enterClosing _

theorem ChannelLocal.grant (h : ChannelLocal c s z) (k : Fin 126) (x : Nat) (p : Purpose) : ChannelLocal c s (grant c k x p z) :=
  ((h.updChan _).bind k _).startDialogue p

theorem ChannelLocal.slotCleared (h : ChannelLocal c s z) : ChannelLocal c s (slotCleared c z) := by
  unfold Machine.slotCleared
  split
  · exact h.recordingEnd ..
  · exact h.updChan _
  · exact h
  all_goals exact h.enterFree

theorem ChannelLocal.closeRequest (h : ChannelLocal c s z) : ChannelLocal c s (closeRequest c z) := by
  unfold Machine.closeRequest
  split
  · exact h.enterClosing _
  · exact h.recordingEnd ..
  · exact h.leaveMessage.enterClosing _
  · exact h.leaveMessage.enterClosing _
  · exact h.leaveMessage.enterClosing _
  all_goals exact h

theorem ChannelLocal.channelReset (h : ChannelLocal c s z) : ChannelLocal c s (channelReset c z) := by
  have hfreed {y : State} (hy : ChannelLocal c s y) : ChannelLocal c s (Machine.enterFree c
      ((y.updRing c fun r => r.discardReset.leave).updEncoder c fun _ => Encoder.reset)) :=
    ((hy.updRing c _).updEncoder c _).enterFree
  have hdeleted : ChannelLocal c s (if (z.chan c).state = .record ∨ (z.chan c).state = .flush then
      match (z.chan c).current with
      | some n => Machine.deletePath n z
      | none => z
    else z) := by
    split
    · split
      · exact h.deletePath _
      · exact h
    · exact h
  unfold Machine.channelReset
  dsimp only
  split
  · exact (hfreed hdeleted).offerNotice _
  · exact hfreed hdeleted

/-! ## Encoder steps and the speech slots -/

theorem ChannelLocal.speechFrameEnd (h : ChannelLocal c s z) : ChannelLocal c s (speechFrameEnd c z) := by
  have hruns {y : State} (l : List (List Octet)) (hy : ChannelLocal c s y) :
      ChannelLocal c s (l.foldl (fun s run => Machine.offerStream c false run s) y) := by
    induction l generalizing y with
    | nil => exact hy
    | cons a l ih => exact ih (hy.offerStream ..)
  unfold Machine.speechFrameEnd
  dsimp only
  split
  · split
    · exact h.updEncoder c _
    · exact (hruns _ (h.updEncoder c _)).offerStream ..
  · exact h

theorem ChannelLocal.maxLength (h : ChannelLocal c s z) : ChannelLocal c s (maxLength c z) :=
  iteInduction (fun _ => h.recordingEnd ..) fun _ => h

theorem ChannelLocal.noVoice (h : ChannelLocal c s z) : ChannelLocal c s (noVoice c z) :=
  iteInduction (fun _ => h.recordingEnd ..) fun _ => h

theorem ChannelLocal.playFrame (h : ChannelLocal c s z) : ChannelLocal c s (playFrame c z).2 := by
  unfold Machine.playFrame
  split
  · exact h
  split
  · exact h
  · exact h.itemEnd
  · exact h.same rfl rfl
  · exact h.same rfl rfl

theorem ChannelLocal.boundFrame (h : ChannelLocal c s z) (o : Octet) : ChannelLocal c s (boundFrame c o z).2 :=
  ChannelLocal.playFrame (iteInduction (motive := ChannelLocal c s) (fun _ => h.updEncoder c _) fun _ => h)

end

end Sys2Proof.Machine
end


section
-- The proofs are elaborated one after another: the waiting threads would take the memory that the check allows.
set_option Elab.async false
/-! SUPPORT. Highway loss and return (R7–R9, R64, R161). -/

namespace Sys2Proof.Machine

/-! ## The sync windows (R7, R8) -/

theorem takeWindowEnd_untimed {s : State} (h : s.highway.presence ≠ .present) : takeWindowEnd s = s := if_neg h

theorem takeWindowEnd_missed {s : State} (h : s.highway.presence = .present) (hcount : s.highway.missing + 1 < 16) :
    takeWindowEnd s = { s with highway := { s.highway with missing := s.highway.missing + 1 } } := by
  rw [takeWindowEnd, if_pos h]
  exact if_neg (Nat.not_le.mpr hcount)

theorem takeWindowEnd_lost {s : State} (h : s.highway.presence = .present) (hcount : s.highway.missing = 15) :
    takeWindowEnd s = highwayLoss { s with highway := { s.highway with missing := 16 } } := by
  rw [takeWindowEnd, if_pos h, hcount]
  exact if_pos (Nat.le_refl _)

/-! ## The return (R9, R64) -/

/-- A highway frame in highway loss is that frame in PRESENT, after the return actions. -/
theorem takeFrame_lost {s : State} {hin : List Octet} (hreset : s.resetLow = false) (hlost : s.highway.presence = .lost) :
    takeFrame hin s = takeFrame hin (highwayReturn s).begun := by
  have hpulse : pulse s = (highwayReturn s).begun := by
    rw [pulse, if_pos hlost]
    rfl
  have hagain : pulse (highwayReturn s).begun = (highwayReturn s).begun := by
    rw [pulse, if_neg (by exact fun h => nomatch h)]
    rfl
  have hreset' : (highwayReturn s).begun.resetLow = false := (highwayReturn_frame s).2.1.trans hreset
  rw [takeFrame, if_neg (by rw [hreset]; exact Bool.false_ne_true), takeFrame,
    if_neg (by rw [hreset']; exact Bool.false_ne_true), hpulse, hagain]

theorem ran_cons {i : Instr} {s z : State} (h : exec i s = .next z) (l : List Instr) : ran (i :: l) s = ran l z := by
  rw [ran, List.foldl_cons]
  simp only [h]
  rfl

/-- A SLOT_CLEAR for the slot of a bound channel. -/
theorem exec_slotClear_bound {z : State} {c : ChannelIx} {k : Fin 126} (hreset : z.resetLow = false) (hz : BindingsOneToOne z)
    (hk : (z.chan c).slot = some k) : exec (.slotClear (BitVec.ofNat 8 k.val)) z = .next (drainTest (slotCleared c z)) := by
  have hslot : k.val = (BitVec.ofNat 8 k.val).toNat := by
    have := k.isLt
    simp only [BitVec.toNat_ofNat]
    omega
  have hbound : z.boundTo (BitVec.ofNat 8 k.val) = some c := (z.boundTo_eq hslot).trans ((hz.bound k c).mpr hk)
  refine event_handed hreset ?_
  rw [takeSlotClear, hbound]

/-- The clearing of the bound channels is a SLOT_CLEAR for each of their slots, in channel order (R64). -/
theorem ran_slotClears (f : ChannelIx → Option (Fin 126)) (l : List ChannelIx) {z : State} (hnodup : l.Nodup)
    (hreset : z.resetLow = false) (hz : BindingsOneToOne z) (hf : ∀ c ∈ l, (z.chan c).slot = f c) :
    ran ((l.filterMap f).map fun k => Instr.slotClear (BitVec.ofNat 8 k.val)) z =
      .next ((l.filter fun c => (f c).isSome).foldl (fun s c => drainTest (slotCleared c s)) z) := by
  induction l generalizing z with
  | nil => rfl
  | cons c l ih =>
    obtain ⟨hc, hl⟩ := List.nodup_cons.mp hnodup
    have hslot := hf c (List.mem_cons_self ..)
    cases hk : f c with
    | none =>
      rw [List.filterMap_cons_none hk, List.filter_cons_of_neg (by simp [hk])]
      exact ih hl hreset hz fun c' hc' => hf c' (List.mem_cons_of_mem _ hc')
    | some k =>
      rw [List.filterMap_cons_some hk, List.filter_cons_of_pos (by simp [hk]), List.map_cons,
        ran_cons (exec_slotClear_bound hreset hz (hslot.trans hk)), List.foldl_cons]
      have hlocal : ChannelLocal c z (drainTest (slotCleared c z)) := (ChannelLocal.refl c z).slotCleared.drainTest
      refine ih hl (by simpa using hreset) (((Keeps.refl z).slotCleared c).drainTest.bindings hz) fun c' hc' => ?_
      rw [hlocal.others c' fun h => hc (h ▸ hc')]
      exact hf c' (List.mem_cons_of_mem _ hc')

/-- With no channel bound the return clears none. -/
theorem clearBound_unbound {s : State} (h : ∀ c, (s.chan c).slot = none) : clearBound s = s := by
  have hnone : (channelIndices.filter fun c => (s.chan c).slot.isSome) = [] :=
    List.filter_eq_nil_iff.mpr fun c _ => by rw [h c]; exact Bool.false_ne_true
  rw [clearBound, hnone]
  rfl

/-! ## The octets of unbound slots (R2) -/

/-- The slots of muted trunks (R2, R4). -/
theorem State.mutedSlots_contains (s : State) (k : Fin 126) :
    s.mutedSlots.contains k.val = true ↔ ∃ u : TrunkIx, (s.trunk u).mute = true ∧ (s.trunk u).slot = some k := by
  simp only [List.contains_iff_mem, State.mutedSlots, List.mem_filterMap, Vector.mem_toList_iff, Vector.mem_iff_getElem]
  constructor
  · rintro ⟨x, ⟨i, hi, rfl⟩, hx⟩
    cases hmute : s.trunks[i].mute with
    | false => simp [hmute] at hx
    | true =>
      simp only [hmute, if_true, Option.map_eq_some_iff] at hx
      obtain ⟨j, hj, hval⟩ := hx
      exact ⟨⟨i, hi⟩, hmute, hj.trans (congrArg some (Fin.ext hval))⟩
  · rintro ⟨u, hmute, hslot⟩
    refine ⟨s.trunk u, ⟨u.val, u.isLt, rfl⟩, ?_⟩
    rw [if_pos hmute, hslot]
    rfl

/-- The octet of an unbound speech slot. -/
theorem State.hout_unbound {s : State} {hin : List Octet} {k : Fin 126} (hk : k.val < hin.length)
    (hunbound : s.highway.bindings[k] = none) (l : List Octet) :
    ((s.speech hin ++ l).take hin.length)[k.val]? =
      some (if ∃ u : TrunkIx, (s.trunk u).mute = true ∧ (s.trunk u).slot = some k then s.coder.silence.getD 0xFF
        else s.highway.delay[k]) := by
  rw [List.getElem?_take_of_lt hk, List.getElem?_append_left (by rw [State.speech_length]; exact k.isLt), State.speech_getElem,
    State.slotUse_unbound hunbound, slotOctet]
  exact congrArg some (if_congr (s.mutedSlots_contains k) rfl rfl)

/-- Placing an attention kind leaves the framers. -/
theorem place_framers (k : Attention) (s : State) : (place k s).link.framer126 = s.link.framer126 ∧
    (place k s).link.framer127 = s.link.framer127 := by
  unfold place
  repeat' split
  all_goals exact ⟨rfl, rfl⟩

/-! ## O7 -/

/-- Settles O7. -/
theorem lossAndReturn : Obligations.LossAndReturn := by
  refine ⟨fun s hreset => ⟨fun huntimed => ?untimed, fun hpresent hcount => ?missed, fun hpresent hcount => ?lost⟩,
    fun s hin hreset hlost hservice hquiet hunbound hcut => ?quiet, fun s hin hreset hlost hbindings hspace => ?bound⟩
  case untimed => exact event_handed hreset (takeWindowEnd_untimed huntimed)
  case missed => exact event_handed hreset (takeWindowEnd_missed hpresent hcount)
  case lost =>
    refine ⟨_, event_handed hreset (takeWindowEnd_lost hpresent hcount), rfl, fun m => ?_⟩
    simp only [highwayLoss, State.meter, getElem_mapVector]
    rfl
  case quiet =>
    obtain ⟨hbindings, h126, h127⟩ := hquiet
    obtain ⟨y, hy⟩ : ∃ y, y = ({ place .holdExit s with
        highway := { s.highway with presence := .present, missing := 0, delay := Vector.replicate 128 0xFF } } : State) := ⟨_, rfl⟩
    have hreturn : (highwayReturn s).begun = y := by
      rw [highwayReturn, clearBound_unbound (by simpa [State.chan] using hunbound), State.begun, hy]
      simp
    obtain ⟨hframer126, hframer127⟩ := place_framers .holdExit s
    have hframe := takeFrame_lost (hin := hin) hreset hlost
    rw [hreturn] at hframe
    have hservice' : y.service ≠ .suspending := by rw [hy]; simpa using hservice
    have hspoken : y.spoken hin = y := by
      rw [State.spoken_unbound (by rw [hy]; exact hbindings), ← drainTest_eq, drainTest_of_not_suspending hservice', hy]
    have hsilent (i : Nat) (hi : 126 ≤ i) : hin.getD i 0xFF ≠ 0x7E := by
      rw [List.getD_eq_default _ _ (by omega)]
      decide
    have hrest : (linkSlots hin y).2 = y := by
      rw [linkSlots_quiet (by rw [hy]; exact hframer126.trans h126) (by rw [hy]; exact hframer127.trans h127)
        (hsilent 126 (by omega)) (hsilent 127 (by omega)), if_pos (by omega)]
    rw [takeFrame_present (s := y) (by rw [hy]; simpa using hreset) (by rw [hy]; exact fun h => nomatch h), hspoken, hrest] at hframe
    refine ⟨_, congrArg Host.Outcome.next hframe, ?_, ?_, ?_, inbound_getElem hin, fun k hk hmuted => ?_, ?_⟩
    · rw [hy]
    · rw [hy]
    · rw [hy]
      exact place_has .holdExit s
    · refine (State.hout_unbound hk (by rw [hy]; exact hbindings k) _).trans ?_
      rw [if_neg (by rw [hy]; simpa [State.trunk] using hmuted), hy]
      simp
    · rw [hy]
      simp
  case bound =>
    intro bound exit begun
    have hreset' : begun.resetLow = false := hreset
    refine ⟨clearBound begun, ?_, ?_⟩
    · exact ran_slotClears (fun c => (s.chan c).slot) (List.finRange 32) (List.nodup_finRange 32) hreset
        ⟨hbindings.bound, hbindings.free, hbindings.unmapped⟩ fun _ _ => rfl
    · have hreturn : highwayReturn s = clearBound begun := by
        rw [highwayReturn, place_eq_placed hspace]
      exact congrArg Host.Outcome.next ((takeFrame_lost hreset hlost).trans (by rw [hreturn]; rfl))

end Sys2Proof.Machine
end


section
-- The proofs are elaborated one after another: the waiting threads would take the memory that the check allows.
set_option Elab.async false
/-! SUPPORT. A highway frame leaves the device in PRESENT with count 0 (R7): nothing that a frame brings about writes the
presence or the missing-sync count. -/

namespace Sys2Proof.Machine

/-! ## The commands of slot 127 and the highway -/

@[simp] theorem Work.after_done (st : Status) (data : List Octet) (z : State) : (Work.done st data z).after = z := rfl
@[simp] theorem Work.after_deferred (z : State) : (Work.deferred z).after = z := rfl
@[simp] theorem Work.after_refuse (st : Status) (z : State) : (Work.refuse st z).after = z := rfl

theorem checkedRoom_highway {query loaded : Bool} {a b : Octet} {ok : Bool} {z : State} {k : RoomIx → Work}
    (hk : ∀ r, (k r).after.highway = z.highway) : (checkedRoom query loaded a b ok z k).after.highway = z.highway := by
  unfold checkedRoom
  repeat' split
  case isFalse.isTrue.isFalse.isFalse => exact hk _
  all_goals rfl

theorem mapTrunk_highway (t : TrunkIx) (slot : Option (Fin 126)) (z : State) :
    (mapTrunk t slot z).after.highway = z.highway := by
  unfold mapTrunk
  split <;> rfl

theorem workLoadTrunk_highway (fields : List Octet) (z : State) : (workLoadTrunk fields z).after.highway = z.highway := by
  unfold workLoadTrunk
  dsimp only
  repeat' split
  all_goals simp [mapTrunk_highway]

theorem workSetGeometry_highway (fields : List Octet) (z : State) : (workSetGeometry fields z).after.highway = z.highway := by
  unfold workSetGeometry
  repeat' split
  all_goals rfl

theorem workQueryStatus_highway (fields : List Octet) (z : State) : (workQueryStatus fields z).after.highway = z.highway := by
  unfold workQueryStatus
  repeat' split
  all_goals simp

theorem workStartService_highway (fields : List Octet) (z : State) : (workStartService fields z).after.highway = z.highway := by
  unfold workStartService
  repeat' split
  all_goals simp

theorem workClearAttention_highway (fields : List Octet) (z : State) : (workClearAttention fields z).after.highway = z.highway := by
  unfold workClearAttention
  repeat' split
  all_goals simp

theorem workSetClock_highway (fields : List Octet) (z : State) : (workSetClock fields z).after.highway = z.highway := by
  unfold workSetClock
  repeat' split
  all_goals simp

theorem workLoadExpansion_highway (fields : List Octet) (z : State) : (workLoadExpansion fields z).after.highway = z.highway := by
  unfold workLoadExpansion
  repeat' split
  all_goals simp

theorem workMount_highway (fields : List Octet) (z : State) : (workMount fields z).after.highway = z.highway := by
  unfold workMount
  repeat' split
  all_goals simp

theorem workQueryStore_highway (fields : List Octet) (z : State) : (workQueryStore fields z).after.highway = z.highway := by
  unfold workQueryStore
  repeat' split
  all_goals simp

theorem workPromptErase_highway (fields : List Octet) (z : State) : (workPromptErase fields z).after.highway = z.highway := by
  unfold workPromptErase
  repeat' split
  all_goals simp

theorem workPromptPage_highway (fields : List Octet) (z : State) : (workPromptPage fields z).after.highway = z.highway := by
  unfold workPromptPage
  dsimp only
  repeat' split
  all_goals simp

theorem workPromptCommit_highway (fields : List Octet) (z : State) : (workPromptCommit fields z).after.highway = z.highway := by
  unfold workPromptCommit
  repeat' split
  all_goals simp

theorem workPromptVerify_highway (fields : List Octet) (z : State) : (workPromptVerify fields z).after.highway = z.highway := by
  unfold workPromptVerify
  repeat' split
  all_goals simp

theorem workPromptBlank_highway (fields : List Octet) (z : State) : (workPromptBlank fields z).after.highway = z.highway := by
  unfold workPromptBlank
  repeat' split
  all_goals simp

theorem workPromptDir_highway (fields : List Octet) (z : State) : (workPromptDir fields z).after.highway = z.highway := by
  unfold workPromptDir
  dsimp only
  repeat' split
  all_goals simp

theorem workLampResync_highway (fields : List Octet) (z : State) : (workLampResync fields z).after.highway = z.highway := by
  unfold workLampResync
  repeat' split
  all_goals simp

theorem workReleaseCharges_highway (fields : List Octet) (z : State) : (workReleaseCharges fields z).after.highway = z.highway := by
  unfold workReleaseCharges
  dsimp only
  repeat' split
  all_goals simp

theorem workLoadClass_highway (fields : List Octet) (z : State) : (workLoadClass fields z).after.highway = z.highway := by
  unfold workLoadClass
  dsimp only
  repeat' split
  all_goals simp

theorem workLoadPrefix_highway (fields : List Octet) (z : State) : (workLoadPrefix fields z).after.highway = z.highway := by
  unfold workLoadPrefix
  dsimp only
  repeat' split
  all_goals simp

theorem workLoadBand_highway (fields : List Octet) (z : State) : (workLoadBand fields z).after.highway = z.highway := by
  unfold workLoadBand
  dsimp only
  repeat' split
  all_goals simp

theorem workLoadSchedule_highway (fields : List Octet) (z : State) : (workLoadSchedule fields z).after.highway = z.highway := by
  unfold workLoadSchedule
  dsimp only
  repeat' split
  all_goals simp

theorem workLoadParameters_highway (fields : List Octet) (z : State) : (workLoadParameters fields z).after.highway = z.highway := by
  unfold workLoadParameters
  repeat' split
  all_goals simp

theorem workLoadRoom_highway (fields : List Octet) (z : State) : (workLoadRoom fields z).after.highway = z.highway := by
  unfold workLoadRoom
  split
  case h_2 => rfl
  refine checkedRoom_highway fun r => ?_
  repeat' split
  all_goals simp

theorem workCheckIn_highway (fields : List Octet) (z : State) : (workCheckIn fields z).after.highway = z.highway := by
  unfold workCheckIn
  split
  case h_2 => rfl
  refine checkedRoom_highway fun r => ?_
  repeat' split
  all_goals simp

theorem workSetCredit_highway (fields : List Octet) (z : State) : (workSetCredit fields z).after.highway = z.highway := by
  unfold workSetCredit
  split
  case h_2 => rfl
  refine checkedRoom_highway fun r => ?_
  repeat' split
  all_goals simp

theorem workPostPayment_highway (fields : List Octet) (z : State) : (workPostPayment fields z).after.highway = z.highway := by
  unfold workPostPayment
  split
  case h_2 => rfl
  refine checkedRoom_highway fun r => ?_
  repeat' split
  all_goals simp

theorem workUnbar_highway (fields : List Octet) (z : State) : (workUnbar fields z).after.highway = z.highway := by
  unfold workUnbar
  split
  case h_2 => rfl
  refine checkedRoom_highway fun r => ?_
  repeat' split
  all_goals simp

theorem workDeskFlag_highway (fields : List Octet) (z : State) : (workDeskFlag fields z).after.highway = z.highway := by
  unfold workDeskFlag
  split
  case h_2 => rfl
  refine checkedRoom_highway fun r => ?_
  repeat' split
  all_goals simp

theorem workDeleteMessages_highway (fields : List Octet) (z : State) : (workDeleteMessages fields z).after.highway = z.highway := by
  unfold workDeleteMessages
  split
  case h_2 => rfl
  refine checkedRoom_highway fun r => ?_
  simp

theorem workQueryRoom_highway (fields : List Octet) (z : State) : (workQueryRoom fields z).after.highway = z.highway := by
  unfold workQueryRoom
  split
  case h_2 => rfl
  refine checkedRoom_highway fun r => ?_
  simp

theorem workLampForce_highway (fields : List Octet) (z : State) : (workLampForce fields z).after.highway = z.highway := by
  unfold workLampForce
  split
  case h_2 => rfl
  refine checkedRoom_highway fun r => ?_
  simp

theorem workLampResume_highway (fields : List Octet) (z : State) : (workLampResume fields z).after.highway = z.highway := by
  unfold workLampResume
  split
  case h_2 => rfl
  refine checkedRoom_highway fun r => ?_
  repeat' split
  all_goals simp

theorem workFetchCharges_highway (tag : Octet) (fields : List Octet) (z : State) :
    (workFetchCharges tag fields z).after.highway = z.highway := by
  unfold workFetchCharges
  repeat' split
  all_goals simp

theorem workLoadTable_highway (fields : List Octet) (z : State) : (workLoadTable fields z).after.highway = z.highway := by
  unfold workLoadTable
  repeat' split
  all_goals simp [workLoadClass_highway, workLoadPrefix_highway, workLoadBand_highway, workLoadSchedule_highway,
    workLoadParameters_highway]

/-! ## The highway but for its bindings -/

/-- `t` has the highway of `s` but for the bindings. -/
def Synced (s t : State) : Prop := t.highway = { s.highway with bindings := t.highway.bindings }

section
variable {s z t : State}

theorem Synced.refl (s : State) : Synced s s := rfl

theorem Synced.trans (h : Synced s z) (k : Synced z t) : Synced s t := by
  rw [Synced, k, h]

theorem Synced.same (h : Synced s z) (ht : t.highway = z.highway) : Synced s t := by
  rw [Synced, ht]
  exact h

theorem Synced.of_channel {c : ChannelIx} (h : ChannelLocal c s t) : Synced s t := h.highway

/-- An operation of one channel after others. -/
theorem Synced.channel (h : Synced s z) {c : ChannelIx} (ht : ChannelLocal c z t) : Synced s t := h.trans (.of_channel ht)

theorem Synced.foldl {α : Type} {f : State → α → State} (hf : ∀ z a, Synced z (f z a)) (l : List α) (h : Synced s z) :
    Synced s (l.foldl f z) := by
  induction l generalizing z with
  | nil => exact h
  | cons a l ih => exact ih (h.trans (hf z a))

theorem Synced.closeChannels (h : Synced s z) (p : Channel → Bool) : Synced s (closeChannels p z) :=
  Synced.foldl (fun _ c => .of_channel (ChannelLocal.refl c _).closeRequest) _ h

theorem Synced.workSuspend (z : State) (fields : List Octet) : Synced z (workSuspend fields z).after := by
  unfold Machine.workSuspend
  repeat' split
  · exact Synced.same (((Synced.refl z).same (t := { z with service := .suspending }) rfl).closeChannels fun _ => true)
      (by simp [suspend])
  all_goals exact Synced.refl z

theorem Synced.workResetChannel (z : State) (fields : List Octet) : Synced z (workResetChannel fields z).after := by
  unfold Machine.workResetChannel
  dsimp only
  repeat' split
  case h_1.isFalse.isFalse => exact .of_channel (ChannelLocal.refl _ z).channelReset.drainTest
  all_goals exact Synced.refl z

theorem Synced.checkOut (r : RoomIx) (z : State) : Synced z (checkOut r z) := by
  have hbegun : Synced z (deleteMailbox r (beginCheckout r z)) := (Synced.refl z).same (by simp)
  exact (hbegun.closeChannels fun x => decide (x.kind = some .retrieve ∧ x.room = some r)).same (by simp [Machine.checkOut])

theorem Synced.checkedRoom {query loaded : Bool} {a b : Octet} {ok : Bool} {k : RoomIx → Work}
    (hk : ∀ r, Synced z (k r).after) : Synced z (checkedRoom query loaded a b ok z k).after := by
  unfold Machine.checkedRoom
  repeat' split
  case isFalse.isTrue.isFalse.isFalse => exact hk _
  all_goals exact Synced.refl z

theorem Synced.workCheckOut (z : State) (fields : List Octet) : Synced z (workCheckOut fields z).after := by
  unfold Machine.workCheckOut
  split
  case h_2 => exact Synced.refl z
  refine Synced.checkedRoom fun r => ?_
  repeat' split
  case isFalse.isTrue => exact Synced.checkOut ..
  all_goals exact (Synced.refl z).same (by simp)

theorem Synced.commandOwner (kind : Nat) (tag : Octet) (fields : List Octet) (z : State) :
    Synced z (commandOwner kind tag fields z).after := by
  have hsame {w : Work} (h : w.after.highway = z.highway) : Synced z w.after := (Synced.refl z).same h
  unfold Machine.commandOwner
  split
  · exact hsame (workQueryStatus_highway ..)
  · exact hsame (workStartService_highway ..)
  · exact Synced.workSuspend ..
  · exact hsame (workClearAttention_highway ..)
  · exact hsame (workSetClock_highway ..)
  · exact hsame (workLoadTable_highway ..)
  · exact hsame (workLoadRoom_highway ..)
  · exact hsame (workCheckIn_highway ..)
  · exact Synced.workCheckOut ..
  · exact hsame (workSetCredit_highway ..)
  · exact hsame (workPostPayment_highway ..)
  · exact hsame (workUnbar_highway ..)
  · exact hsame (workDeskFlag_highway ..)
  · exact hsame (workDeleteMessages_highway ..)
  · exact hsame (workQueryRoom_highway ..)
  · exact Synced.workResetChannel ..
  · exact hsame (workLoadExpansion_highway ..)
  · exact hsame (workSetGeometry_highway ..)
  · exact hsame (workMount_highway ..)
  · exact hsame (workQueryStore_highway ..)
  · exact hsame (workPromptErase_highway ..)
  · exact hsame (workPromptPage_highway ..)
  · exact hsame (workPromptCommit_highway ..)
  · exact hsame (workPromptVerify_highway ..)
  · exact hsame (workPromptBlank_highway ..)
  · exact hsame (workPromptDir_highway ..)
  · exact hsame (workLampForce_highway ..)
  · exact hsame (workLampResume_highway ..)
  · exact hsame (workLampResync_highway ..)
  · exact hsame (workLoadTrunk_highway ..)
  · exact hsame (workFetchCharges_highway ..)
  · exact hsame (workReleaseCharges_highway ..)

theorem Synced.holderTake {owner : State → Work} (ho : ∀ y, Synced y (owner y).after) (kind tag : Octet)
    (fields : List Octet) (z : State) : Synced z (holderTake kind tag fields owner z) := by
  have howned : Synced z (owner { z with link := { z.link with holder := some ⟨kind, tag, fields, .working⟩ } }).after :=
    ((Synced.refl z).same rfl).trans (ho _)
  unfold Machine.holderTake
  split
  · exact (Synced.refl z).same (by simp)
  split
  case h_1 e => rw [e] at howned; exact howned.same (by simp)
  case h_2 e => rw [e] at howned; exact howned

/-! ## The slots of a frame -/

theorem Synced.takeDivert (slot : Octet) (x : Nat) (p : Purpose) (z : State) : Synced z (takeDivert slot x p z) := by
  have hrefused (f : OutFrame) : Synced z (offerNotice f z) := (Synced.refl z).same (by simp)
  unfold Machine.takeDivert
  repeat' split
  case h_2 => exact .of_channel ((ChannelLocal.refl _ z).grant ..)
  all_goals exact hrefused _

theorem Synced.takeSlotClear (slot : Octet) (z : State) : Synced z (takeSlotClear slot z) := by
  unfold Machine.takeSlotClear
  split
  · exact Synced.refl z
  · exact .of_channel (ChannelLocal.refl _ z).slotCleared.drainTest

theorem Synced.takeKey (slot : Octet) (k : Key) (z : State) : Synced z (takeKey slot k z) := by
  unfold Machine.takeKey
  split
  · exact Synced.refl z
  · exact .of_channel ((ChannelLocal.refl _ z).channelKey k).drainTest

theorem Synced.elim {α : Type} (x : Option α) {f : α → State} (hf : ∀ a, Synced z (f a)) : Synced z (x.elim z f) := by
  cases x
  · exact Synced.refl z
  · exact hf _

theorem Synced.dispatch (f : Delivered) (z : State) : Synced z (dispatch f z) := by
  unfold Machine.dispatch
  split
  · split
    · exact Synced.refl z
    · exact Synced.holderTake (fun _ => Synced.commandOwner ..) ..
  split
  · exact Synced.elim _ fun _ => Synced.takeDivert ..
  · exact Synced.takeSlotClear ..
  · exact Synced.elim _ fun _ => Synced.takeKey ..
  · exact Synced.elim _ fun _ => (Synced.refl z).same (by simp)
  · exact Synced.refl z

theorem Synced.encodersSettled (z : State) : Synced z (encodersSettled z) :=
  Synced.foldl (fun _ c => .of_channel (ChannelLocal.refl c _).speechFrameEnd.maxLength.noVoice.drainTest) _ (Synced.refl z)

theorem Synced.takeSlot126 (o : Octet) (z : State) : Synced z (takeSlot126 o z) := by
  have htaken : Synced z { z with link := { z.link with framer126 := (z.link.framer126.take o).1 } } := rfl
  exact htaken.trans (Synced.elim _ fun _ => (Synced.encodersSettled _).same (by simp))

theorem Synced.takeSlot127 (o : Octet) (z : State) : Synced z (takeSlot127 o z) := by
  have htaken : Synced z { z with link := { z.link with framer127 := (z.link.framer127.take o).1 } } := rfl
  exact htaken.trans (Synced.elim _ fun _ => (Synced.encodersSettled _).trans (Synced.dispatch ..))

theorem Synced.linkSlots (hin : List Octet) (z : State) : Synced z (linkSlots hin z).2 := by
  have htaken := Synced.takeSlot126 (hin.getD 126 0xFF) z
  rw [Machine.linkSlots, slot127_snd]
  split
  · exact htaken.trans (Synced.takeSlot127 ..)
  · exact (htaken.same (State.sent_highway _)).trans (Synced.takeSlot127 ..)

theorem Synced.spoken (hin : List Octet) (s : State) : Synced s.begun (s.spoken hin) := by
  have hslots : Synced s.begun ((s.frameUses hin).foldl slotStep s.begun) := by
    refine Synced.foldl (fun z u => ?_) _ (Synced.refl _)
    obtain ⟨use, o⟩ := u
    cases use with
    | channel c => exact .of_channel ((ChannelLocal.refl c z).boundFrame o)
    | carries x => exact Synced.refl z
  exact hslots.same (by rw [State.spoken, ← drainTest_eq]; simp)

end

/-! ## O5 -/

/-- Settles O5. -/
theorem framePassesUnboundSlots : Obligations.FramePassesUnboundSlots := by
  intro s hin hreset hpresent hlen
  have hsynced := (Synced.spoken hin s).trans (Synced.linkSlots hin (s.spoken hin))
  refine ⟨_, exec_highwayFrame hreset hpresent, ?_, ?_, inbound_getElem hin, ?_, fun k hk hunbound => ?_, fun hk => ?_⟩
  · exact congrArg Highway.presence hsynced
  · exact congrArg Highway.missing hsynced
  · simp only [List.length_take, List.length_append, State.speech_length, List.length_cons, List.length_nil]
    omega
  · exact State.hout_unbound hk hunbound _
  · rw [List.getElem?_take_of_lt hk, List.getElem?_append_right (by rw [State.speech_length]), State.speech_length]
    rfl

end Sys2Proof.Machine
end


section
-- The proofs are elaborated one after another: the waiting threads would take the memory that the check allows.
set_option Elab.async false
/-! SUPPORT. DELETE_MESSAGES (R39, R112, R113), and the commands whose owner hands messages to the delete path. -/

namespace Sys2Proof.Machine

/-! ## The holder stands apart -/

theorem State.held_eq (s : State) (kind tag : Octet) (fields : List Octet) :
    s.held kind tag fields = s.withHolder (some ⟨kind, tag, fields, .working⟩) := rfl

theorem evaluateLamp_withHolder (r : RoomIx) (s : State) (h : Option Held) :
    evaluateLamp r (s.withHolder h) = (evaluateLamp r s).withHolder h := rfl

theorem State.drains_withHolder (s : State) (h : Option Held) : (s.withHolder h).drains = s.drains.withHolder h := by
  have hlink : s.drains.link = s.link := by
    rw [← drainTest_eq]
    simp
  rw [State.withHolder, State.withHolder, hlink]
  exact State.drains_link s _

theorem State.emptied_withHolder (r : RoomIx) (s : State) (h : Option Held) :
    (s.withHolder h).emptied r = (s.emptied r).withHolder h :=
  State.deletes_holder_fold _ s h

/-! ## The delete path of one message with programmed pages (R112, R113) -/

/-- `s` with message `n`, whose record is `m`, DELETING and out of its room's record. -/
def State.deleting (n : Nat) (m : Message) (s : State) : State :=
  { s with rooms := s.rooms.set m.room (messageLeft m (s.room m.room))
           store := { s.store with
             marks := s.store.marks.filter (· ≠ (n, .heard))
             messages := s.store.messages.map fun x => if x.serial = n then { x with state := .deleting } else x } }

theorem State.message_mapped {s t : State} {n k : Nat} {f : Message → Message} (hf : ∀ m, (f m).serial = m.serial)
    (h : t.store.messages = s.store.messages.map fun x => if x.serial = n then f x else x) :
    t.message k = if k = n then (s.message k).map f else s.message k := by
  rw [State.message, h]
  exact find?_map_serial _ _ _ _ hf

theorem deletePath_programmed {s : State} {n : Nat} {m : Message} (hm : s.message n = some m) (hstate : m.state ≠ .deleting)
    (hprogrammed : m.unprogrammed = false) : deletePath n s = settle n (s.deleting n m) := by
  rw [deletePath, hm]
  dsimp only
  rw [if_neg hstate, if_neg (by rw [hprogrammed]; exact Bool.false_ne_true)]
  rfl

theorem State.deleting_message {s : State} {n : Nat} {m : Message} (hm : s.message n = some m) :
    (s.deleting n m).message n = some { m with state := .deleting } := by
  rw [State.message_mapped (s := s) (f := fun x => { x with state := .deleting }) (fun _ => rfl) rfl, if_pos rfl, hm]
  rfl

/-- A settled message whose page 15 is not blank is reclaimed at once, its mark taken as one that failed (R111). -/
theorem settle_marked {s : State} {n : Nat} {m : Message} (hm : s.message n = some m)
    (h : m.state = .deleting ∧ m.readers = 0 ∧ s.programming n = false ∧ m.deletedPending = false) (hblank : m.blank15 = false) :
    settle n s = reclaim n (place .flashFault (s.updMessage n fun x => { x with deletedPending := true })) := by
  have hm' : (s.updMessage n fun x => { x with deletedPending := true }).message n = some { m with deletedPending := true } := by
    rw [State.message_updMessage _ _ _ _ (by simp), if_pos rfl, hm]
    rfl
  rw [settle, hm]
  dsimp only
  rw [if_pos h, queueMark, hm']
  simp only [hblank, Bool.false_eq_true, if_false, markFailed]

/-- A change of the records of serial `n` alone goes with them. -/
theorem filter_map_serial (l : List Message) (n : Nat) (f : Message → Message) (hf : ∀ m, (f m).serial = m.serial) :
    (l.map fun x => if x.serial = n then f x else x).filter (·.serial ≠ n) = l.filter (·.serial ≠ n) := by
  induction l with
  | nil => rfl
  | cons a l ih =>
    by_cases ha : a.serial = n
    · rw [List.map_cons, if_pos ha, List.filter_cons_of_neg (by simp [hf, ha]), List.filter_cons_of_neg (by simp [ha]), ih]
    · rw [List.map_cons, if_neg ha, List.filter_cons_of_pos (by simp [ha]), List.filter_cons_of_pos (by simp [ha]), ih]

/-- A mark queued keeps SUSPENDING (R182). -/
theorem State.drains_of_marks {s : State} (h : s.store.marks ≠ []) : s.drains = s :=
  if_neg fun hdrained => h hdrained.2.2.2.1

theorem State.placed_withHolder (s : State) (k : Attention) (h : Option Held) :
    (s.withHolder h).placed k = (s.placed k).withHolder h := by
  by_cases h0 : s.attention = 0
  · rw [State.placed, State.placed, if_pos h0, if_pos (by exact h0)]
    rfl
  · rw [State.placed, State.placed, if_neg h0, if_neg (by exact h0)]
    rfl

/-- A message reclaimed after FLASH_FAULT (R111, R113). -/
theorem reclaim_failed {s : State} {n : Nat} {m : Message} (hm : s.message n = some m) (hq : s.link.queue.length < 64) :
    reclaim n (place .flashFault s) = (State.placed { s with store := s.store.reclaimed n m } .flashFault).lowTested := by
  rw [place_eq_placed hq, reclaim_eq (s := s.placed .flashFault) hm fun h => absurd h (placed_attention_ne _ _)]
  rfl

theorem State.room_deleting (s : State) (n : Nat) (m : Message) (r : RoomIx) :
    (s.deleting n m).room r = if m.room = r then messageLeft m (s.room m.room) else s.room r :=
  State.room_setRoom s m.room r _

/-- A mailbox that holds one message loses it. -/
theorem messageLeft_heard {m : Message} {n : Nat} (hheard : m.state = .heard) (hserial : m.serial = n) {x : Room}
    (hbox : x.mailbox = [n]) : messageLeft m x = { x with mailbox := [] } := by
  rw [messageLeft, hheard]
  simp [hbox, hserial]

/-! ## DELETE_MESSAGES -/

theorem workDeleteMessages_taken {s : State} {r : RoomIx} {a b : Octet} (hmounting : s.service ≠ .mounting)
    (hr : field16 a b = r.val) (tag : Octet) : workDeleteMessages [a, b] (s.held 0x4D tag [a, b]) =
      .done .ok [] (evaluateLamp r (deleteMailbox r (s.held 0x4D tag [a, b]))).drains := by
  rw [← drainTest_eq]
  exact checkedRoom_passed (s := s.held 0x4D tag [a, b])
    (k := fun r => .done .ok [] (drainTest (evaluateLamp r (deleteMailbox r (s.held 0x4D tag [a, b])))))
    hmounting hr fun h => absurd h Bool.false_ne_true

/-- An evaluated lamp leaves the mailboxes, their counts and the messages. -/
theorem Emptied.evaluateLamp {r : RoomIx} {s t : State} (h : Emptied r s t) : Emptied r s (evaluateLamp r t) := by
  obtain ⟨hbox, hnew, hurgent, hall⟩ := h
  have hroom : (Machine.evaluateLamp r t).room r = lampEvaluated (t.classOf r).shutdownHold (t.room r) := by
    rw [evaluateLamp_room, if_pos rfl]
  exact ⟨by rw [hroom]; exact hbox, by rw [hroom]; exact hnew, by rw [hroom]; exact hurgent, hall⟩

/-- Settles O18. -/
theorem deleteMessagesEmptiesTheMailbox : Obligations.DeleteMessagesEmptiesTheMailbox := by
  intro tag a b s r hready hmounting hr
  have hwork := workDeleteMessages_taken hmounting hr tag
  obtain ⟨hreset, hholder, hqueue⟩ := id hready
  refine ⟨fun hempty => ?empty, fun hspace hblank => ?gone, fun n m hbox hm hroom hheard hreaders hpending hblank hprog hbusy => ?one,
    fun n m hbox hm hroom hheard hreaders hpending hblank hprog hbusy hspace => ?marked⟩
  case empty =>
    have hdelete : deleteMailbox r (s.held 0x4D tag [a, b]) = s.held 0x4D tag [a, b] := by
      rw [deleteMailbox, show ((s.held 0x4D tag [a, b]).room r).mailbox = [] from hempty, List.foldl_nil]
    rw [hdelete, State.held_eq, evaluateLamp_withHolder, State.drains_withHolder] at hwork
    have hlink : (evaluateLamp r s).drains.link = s.link := by rw [← drainTest_eq]; simp
    have hanswer := event_answered hreset hholder hwork (by rw [hlink]; exact hholder) (by rw [hlink]; exact hqueue)
    rw [hlink] at hanswer
    rw [State.drains_link]
    exact hanswer
  case gone =>
    intro gone
    have hroomFor : s.roomFor 0 := ⟨hqueue, fun _ => hspace⟩
    have hpaths := deletePaths_eq (s := s.held 0x4D tag [a, b]) (by exact hblank) hroomFor (s.room r).mailbox
    have hfor : (s.emptied r).roomFor 0 := (deletePaths_eq hblank hroomFor (s.room r).mailbox).2.2
    have hdelete : deleteMailbox r (s.held 0x4D tag [a, b]) = (s.emptied r).withHolder (some ⟨0x4D, tag, [a, b], .working⟩) :=
      hpaths.1.trans (State.emptied_withHolder r s _)
    rw [hdelete, evaluateLamp_withHolder, State.drains_withHolder] at hwork
    have hlink : gone.drains.link = (s.emptied r).link := by rw [← drainTest_eq]; simp [gone]
    have hfree : (s.emptied r).link.holder = none := (deletes_frame_fold (s.room r).mailbox s).2.2.trans hholder
    have hanswer := event_answered hreset hholder hwork (by rw [hlink]; exact hfree) (by rw [hlink]; exact hfor.1)
    refine ⟨?_, fun hnodup hall => (State.emptied_spec hnodup hall).evaluateLamp⟩
    have hgone : gone.drains.link = gone.link := by rw [hlink]; simp [gone]
    rw [State.drains_link, ← hgone]
    exact hanswer
  all_goals
    subst hroom
    have hserial := State.message_serial hm
    have hkept : m.state ≠ .deleting := by rw [hheard]; exact fun h => nomatch h
    have hpath : deleteMailbox m.room (s.held 0x4D tag [a, b]) = settle n ((s.held 0x4D tag [a, b]).deleting n m) := by
      rw [deleteMailbox, show ((s.held 0x4D tag [a, b]).room m.room).mailbox = [n] from hbox, List.foldl_cons, List.foldl_nil]
      exact deletePath_programmed hm hkept hprog
    have hmessage : ((s.held 0x4D tag [a, b]).deleting n m).message n = some { m with state := .deleting } :=
      State.deleting_message hm
    have hleft : messageLeft m (s.room m.room) = { s.room m.room with mailbox := [] } := messageLeft_heard hheard hserial hbox
    have hsettled : MsgState.deleting = .deleting ∧ m.readers = 0 ∧
        ((s.held 0x4D tag [a, b]).deleting n m).programming n = false ∧ m.deletedPending = false :=
      ⟨rfl, hreaders, hbusy, hpending⟩
  case one =>
    rw [hpath, settle_eq hmessage hblank, if_pos hsettled, State.drains_of_marks (by exact List.append_ne_nil_of_right_ne_nil _ fun h => nomatch h)] at hwork
    obtain ⟨z, hz⟩ : ∃ z, z = ({ (s.held 0x4D tag [a, b]).deleting n m with
      store := { ((s.held 0x4D tag [a, b]).deleting n m).store with
        messages := ((s.held 0x4D tag [a, b]).deleting n m).store.messages.map fun x =>
          if x.serial = n then { x with deletedPending := true } else x
        marks := ((s.held 0x4D tag [a, b]).deleting n m).store.marks ++ [(n, .deleted)] } } : State) := ⟨_, rfl⟩
    have hrooms (r' : RoomIx) : z.room r' = if r' = m.room then { s.room m.room with mailbox := [] } else s.room r' := by
      have hdeleting := (s.held 0x4D tag [a, b]).room_deleting n m r'
      rw [hz, if_congr eq_comm rfl rfl]
      exact hdeleting.trans (if_congr Iff.rfl hleft rfl)
    have hfound : z.message n = some { m with state := .deleting, deletedPending := true } := by
      rw [State.message_mapped (s := (s.held 0x4D tag [a, b]).deleting n m) (n := n)
        (f := fun x => { x with deletedPending := true }) (fun _ => rfl) (by rw [hz]), if_pos rfl, hmessage]
      rfl
    rw [← hz] at hwork
    have hlink : (evaluateLamp m.room z).link = (s.held 0x4D tag [a, b]).link := by rw [hz]; rfl
    have hlamp (r' : RoomIx) := evaluateLamp_room m.room r' z
    refine ⟨_, event_effect hready hwork hlink, ?_, fun r' hr' => (hlamp r').trans ?_, ?_, ?_, hfound, ?_⟩
    · rw [hz]; rfl
    · rw [if_neg hr', hrooms, if_neg hr']
    · refine (congrArg Room.mailbox (hlamp m.room)).trans ?_
      rw [if_pos rfl, hrooms, if_pos rfl]
      rfl
    · refine (congrArg Room.newCount (hlamp m.room)).trans ?_
      rw [if_pos rfl, hrooms, if_pos rfl]
      rfl
    · rw [hz]; rfl
  case marked =>
    intro reclaimed failed
    obtain ⟨y, hy⟩ : ∃ y, y = ({ s with
      rooms := s.rooms.set m.room { s.room m.room with mailbox := [] }, store := reclaimed } : State) := ⟨_, rfl⟩
    have hfailed : failed = (y.placed .flashFault).lowTested := by rw [hy]
    have hheld : reclaim n (place .flashFault (((s.held 0x4D tag [a, b]).deleting n m).updMessage n
        fun x => { x with deletedPending := true })) = failed.withHolder (some ⟨0x4D, tag, [a, b], .working⟩) := by
      have hfound : (((s.held 0x4D tag [a, b]).deleting n m).updMessage n fun x => { x with deletedPending := true }).message n =
          some { m with state := .deleting, deletedPending := true } := by
        rw [State.message_updMessage _ n n _ (by simp), if_pos rfl, hmessage]
        rfl
      rw [reclaim_failed hfound hqueue, hfailed, ← State.lowTested_withHolder, ← State.placed_withHolder]
      refine congrArg State.lowTested (congrArg (State.placed · .flashFault) ?_)
      have hmessages := (filter_map_serial ((s.held 0x4D tag [a, b]).deleting n m).store.messages n
        (fun x => { x with deletedPending := true }) fun _ => rfl).trans
          (filter_map_serial s.store.messages n (fun x => { x with state := .deleting }) fun _ => rfl)
      have hrooms : ((s.held 0x4D tag [a, b]).deleting n m).rooms = s.rooms.set m.room { s.room m.room with mailbox := [] } := by
        show s.rooms.set m.room (messageLeft m (s.room m.room)) = _
        rw [hleft]
      rw [hy, Store.reclaimed]
      simp only [State.updMessage, hmessages, hrooms]
      rfl
    have hfree : failed.link.holder = none := by
      rw [hfailed, State.lowTested_holder, State.placed_holder, hy]
      exact hholder
    have hlength : failed.link.queue.length < 64 := by
      have hroomFor : y.roomFor 0 := by rw [hy]; exact ⟨hqueue, fun _ => hspace⟩
      rw [hfailed]
      exact (hroomFor.placed _).lowTested.1
    rw [hpath, settle_marked hmessage hsettled hblank, hheld, evaluateLamp_withHolder, State.drains_withHolder] at hwork
    have hlink : (evaluateLamp m.room failed).drains.link = failed.link := by rw [← drainTest_eq]; simp
    have hanswer := event_answered hreset hholder hwork (by rw [hlink]; exact hfree) (by rw [hlink]; exact hlength)
    rw [hlink] at hanswer
    rw [State.drains_link]
    exact hanswer

end Sys2Proof.Machine
end


section
-- The proofs are elaborated one after another: the waiting threads would take the memory that the check allows.
set_option Elab.async false
/-! SUPPORT. CHECK_OUT (R29, R30, R164). -/

namespace Sys2Proof.Machine

/-! ## What the steps of a checkout leave of a room -/

/-- The rooms' records but for what messages write of them (R23). -/
def RoomsBilled (s t : State) : Prop := ∀ r : RoomIx, ∃ box new urgent recordings, t.room r =
  { s.room r with mailbox := box, newCount := new, urgentCount := urgent, recordings := recordings }

theorem State.deletes_billed (n : Nat) (s : State) : RoomsBilled s (s.deletes n) := by
  intro r
  rw [State.deletes]
  split
  case h_1 => exact ⟨_, _, _, _, rfl⟩
  case h_2 m hm =>
    split
    · exact ⟨_, _, _, _, rfl⟩
    have hset (left : Room) (z : State) (hz : z.rooms = s.rooms.set m.room left)
        (hleft : ∃ box new urgent recordings, left =
          { s.room m.room with mailbox := box, newCount := new, urgentCount := urgent, recordings := recordings }) :
        ∃ box new urgent recordings, z.room r =
          { s.room r with mailbox := box, newCount := new, urgentCount := urgent, recordings := recordings } := by
      have hroom : z.room r = if m.room = r then left else s.room r := by
        rw [State.room, hz]
        exact State.room_setRoom s m.room r left
      by_cases h : m.room = r
      · rw [hroom, if_pos h, ← h]
        exact hleft
      · rw [hroom, if_neg h]
        exact ⟨_, _, _, _, rfl⟩
    have hleft : ∃ box new urgent recordings,
        (if m.state = .recording then { s.room m.room with recordings := (s.room m.room).recordings - 1 }
          else (s.room m.room).without m) =
          { s.room m.room with mailbox := box, newCount := new, urgentCount := urgent, recordings := recordings } := by
      split
      · exact ⟨_, _, _, _, rfl⟩
      · exact ⟨_, _, _, _, rfl⟩
    dsimp only
    split
    · exact hset _ _ (by rw [State.lowTested_frame]) hleft
    · exact hset _ _ rfl hleft

theorem State.emptied_billed (r : RoomIx) (s : State) : RoomsBilled s (s.emptied r) := by
  have key (l : List Nat) (z : State) (h : RoomsBilled s z) : RoomsBilled s (l.foldl (fun z n => z.deletes n) z) := by
    induction l generalizing z with
    | nil => exact h
    | cons n l ih =>
      refine ih _ fun r => ?_
      obtain ⟨_, _, _, _, hz⟩ := h r
      obtain ⟨_, _, _, _, hd⟩ := z.deletes_billed n r
      rw [hd, hz]
      exact ⟨_, _, _, _, rfl⟩
  exact key _ s fun r => ⟨_, _, _, _, rfl⟩

/-! ## The completion -/

theorem State.bills_withHolder (s : State) (c : ChargeRecord) (h : Option Held) :
    (s.withHolder h).bills c = (s.bills c).withHolder h := by
  by_cases hhigh : 224 ≤ (s.charges ++ [c]).length
  · rw [State.bills, State.bills, if_pos (by exact hhigh), if_pos (by exact hhigh)]
    exact State.placed_withHolder { s with charges := s.charges ++ [c] } _ h
  · rw [State.bills, State.bills, if_neg (by exact hhigh), if_neg (by exact hhigh)]
    rfl

theorem evaluateRoom_withHolder (r : RoomIx) (s : State) (h : Option Held) :
    evaluateRoom r (s.withHolder h) = (evaluateRoom r s).withHolder h := rfl

/-- `z`, with room `r` in CHECKOUT_PENDING, after its checkout test (R30), in the order of its steps. -/
def State.checkedOut (r : RoomIx) (z : State) : State :=
  if (z.room r).openMeters ≠ 0 then z
  else
    evaluateRoom r { z.bills (.final (finalRecord r (z.room r))) with
      checkouts := z.checkouts - 1, rooms := z.rooms.set r (vacated (z.room r)) }

theorem State.checkedOut_open {r : RoomIx} {z : State} (h : (z.room r).openMeters ≠ 0) : z.checkedOut r = z := if_pos h

theorem State.checkedOut_closed {r : RoomIx} {z : State} (h : (z.room r).openMeters = 0) : z.checkedOut r =
    evaluateRoom r { z.bills (.final (finalRecord r (z.room r))) with
      checkouts := z.checkouts - 1, rooms := z.rooms.set r (vacated (z.room r)) } := if_neg (not_not.mpr h)

theorem checkoutTest_pending {r : RoomIx} {z : State} (hpending : (z.room r).occupancy = .checkoutPending)
    (hq : 223 ≤ z.charges.length → z.attention = 0 → z.link.queue.length < 64) : checkoutTest r z = z.checkedOut r := by
  by_cases hopen : (z.room r).openMeters = 0
  · rw [checkoutTest, if_pos ⟨hpending, hopen⟩, State.checkedOut_closed hopen]
    have happend : appendCharge (.final (finalRecord r (z.room r))) { z with checkouts := z.checkouts - 1 } =
        { z.bills (.final (finalRecord r (z.room r))) with checkouts := z.checkouts - 1 } :=
      (appendCharge_eq (by exact hq) _).trans (State.bills_checkouts ..)
    obtain ⟨hrooms, -, -, -⟩ := z.bills_keeps (.final (finalRecord r (z.room r)))
    refine congrArg (evaluateRoom r) ((congrArg (State.updRoom · r vacated) happend).trans ?_)
    generalize z.bills (.final (finalRecord r (z.room r))) = y at hrooms
    show ({ y with checkouts := z.checkouts - 1, rooms := y.rooms.set r (vacated y.rooms[r]) } : State) = _
    rw [hrooms]
    rfl
  · rw [checkoutTest, if_neg fun h => hopen h.2, State.checkedOut_open hopen]

/-! ## CHECK_OUT -/

theorem State.admits_iff (s : State) : s.admits = true ↔ s.charges.length + s.openMeters + s.checkouts + 1 ≤ 256 :=
  decide_eq_true_iff

theorem workCheckOut_taken {s : State} {r : RoomIx} {a b : Octet} (hmounting : s.service ≠ .mounting)
    (hr : field16 a b = r.val) (hloaded : (s.room r).loaded = true) :
    workCheckOut [a, b] s =
      if (s.room r).occupancy ≠ .occupied then .refuse .badState s
      else if s.admits then .done .ok [] (checkOut r s)
      else .done .full [] (place .chargesFull s) :=
  checkedRoom_passed (s := s)
    (k := fun r => if (s.room r).occupancy ≠ .occupied then .refuse .badState s
      else if s.admits then .done .ok [] (checkOut r s) else .done .full [] (place .chargesFull s))
    hmounting hr fun _ => hloaded

/-- The channels that a checkout of room `r` closes. -/
def State.callers (s : State) (r : RoomIx) : List ChannelIx :=
  (List.finRange 32).filter fun c =>
    (s.chan c).slot.isSome && decide ((s.chan c).kind = some .retrieve ∧ (s.chan c).room = some r)

theorem checkOut_eq (r : RoomIx) (s : State) : checkOut r s =
    (checkoutTest r (evaluateLamp r
      (((deleteMailbox r (beginCheckout r s)).callers r).foldl (fun z c => closeRequest c z)
        (deleteMailbox r (beginCheckout r s))))).drains := by
  rw [← drainTest_eq]
  rfl

/-- A checkout from the state with its mailbox emptied and its callers closed. -/
theorem checkOut_closed {r : RoomIx} {s e z : State} (hdelete : deleteMailbox r (beginCheckout r s) = e)
    (hclose : (e.callers r).foldl (fun z c => closeRequest c z) e = z) (hpending : (z.room r).occupancy = .checkoutPending)
    (hq : 223 ≤ z.charges.length → z.attention = 0 → z.link.queue.length < 64) :
    checkOut r s = ((evaluateLamp r z).checkedOut r).drains := by
  have hlamp : ((evaluateLamp r z).room r).occupancy = (z.room r).occupancy := by
    rw [evaluateLamp_room, if_pos rfl]
    rfl
  rw [checkOut_eq, hdelete, hclose, checkoutTest_pending (hlamp.trans hpending) (by exact hq)]

/-- Room `r` with its stay's end set (R29). -/
def State.endedRoom (s : State) (r : RoomIx) : Room :=
  { s.room r with occupancy := .checkoutPending, outTime := some (s.clock.day, s.clock.seconds) }

theorem beginCheckout_room (s : State) (r : RoomIx) : (beginCheckout r s).room r = s.endedRoom r :=
  State.room_updRoom_same s r fun x => { x with occupancy := .checkoutPending, outTime := some (s.clock.day, s.clock.seconds) }

theorem beginCheckout_other (s : State) {r r' : RoomIx} (h : r' ≠ r) : (beginCheckout r s).room r' = s.room r' :=
  (State.room_updRoom s r r' fun x =>
    { x with occupancy := .checkoutPending, outTime := some (s.clock.day, s.clock.seconds) }).trans (if_neg (Ne.symm h))

theorem closes_withHolder_fold (cs : List ChannelIx) (z : State) (h : Option Held) :
    cs.foldl (fun z c => z.closes c) (z.withHolder h) = (cs.foldl (fun z c => z.closes c) z).withHolder h := by
  have hlink : (cs.foldl (fun z c => z.closes c) z).link = z.link := by rw [closes_frame_fold]
  rw [State.withHolder, State.withHolder, hlink]
  exact State.closes_link_fold cs z _

theorem State.roomFor.bills {s : State} {k : Nat} (h : s.roomFor k) (c : ChargeRecord) : (s.bills c).roomFor k := by
  have hbilled : State.roomFor { s with charges := s.charges ++ [c] } k := h
  rw [State.bills]
  split
  · exact hbilled.placed _
  · exact hbilled

theorem State.bills_holder (s : State) (c : ChargeRecord) : (s.bills c).link.holder = s.link.holder := by
  rw [State.bills]
  split
  · exact State.placed_holder _ _
  · rfl

theorem State.checkedOut_withHolder (r : RoomIx) (z : State) (h : Option Held) :
    (z.withHolder h).checkedOut r = (z.checkedOut r).withHolder h := by
  by_cases hopen : (z.room r).openMeters = 0
  · rw [State.checkedOut_closed hopen, State.checkedOut_closed (by exact hopen), State.bills_withHolder, ← evaluateRoom_withHolder]
    rfl
  · rw [State.checkedOut_open hopen, State.checkedOut_open (by exact hopen)]

theorem State.checkedOut_roomFor {r : RoomIx} {z : State} (h : z.roomFor 0) : (z.checkedOut r).roomFor 0 := by
  by_cases hopen : (z.room r).openMeters = 0
  · rw [State.checkedOut_closed hopen]
    exact h.bills (.final (finalRecord r (z.room r)))
  · rw [State.checkedOut_open hopen]
    exact h

theorem State.checkedOut_holder (r : RoomIx) (z : State) : (z.checkedOut r).link.holder = z.link.holder := by
  by_cases hopen : (z.room r).openMeters = 0
  · rw [State.checkedOut_closed hopen]
    exact z.bills_holder (.final (finalRecord r (z.room r)))
  · rw [State.checkedOut_open hopen]

/-- The callers of a room stand with the channels. -/
theorem State.callers_congr {s t : State} (h : t.channels = s.channels) (r : RoomIx) : t.callers r = s.callers r := by
  have hchan : t.chan = s.chan := funext fun c => congrArg (·[c]) h
  rw [State.callers, hchan]
  rfl

/-- A stay ended, its messages in the delete path. -/
theorem beginCheckout_emptied {s : State} {r : RoomIx} (hblank : s.marksBlank) (hspace : s.link.queue.length < 63) (h : Option Held) :
    deleteMailbox r (beginCheckout r (s.withHolder h)) = ((beginCheckout r s).emptied r).withHolder h ∧
      ((beginCheckout r s).emptied r).marksBlank ∧ ((beginCheckout r s).emptied r).roomFor 0 := by
  have hfor : s.roomFor 0 := ⟨Nat.lt_succ_of_lt hspace, fun _ => hspace⟩
  have hbegun : beginCheckout r (s.withHolder h) = (beginCheckout r s).withHolder h := rfl
  obtain ⟨-, hblank', hfor'⟩ := deletePaths_eq (s := beginCheckout r s) hblank hfor ((beginCheckout r s).room r).mailbox
  obtain ⟨hpaths, -, -⟩ := deletePaths_eq (s := (beginCheckout r s).withHolder h) hblank hfor ((beginCheckout r s).room r).mailbox
  refine ⟨?_, hblank', hfor'⟩
  rw [hbegun]
  exact hpaths.trans (State.emptied_withHolder r _ h)

/-- Settles O16. -/
theorem checkOutClosesTheStay : Obligations.CheckOutClosesTheStay := by
  intro tag a b s r hready hmounting hr hloaded
  obtain ⟨hreset, hholder, hqueue⟩ := id hready
  have hwork := workCheckOut_taken (s := s.held 0x48 tag [a, b]) hmounting hr hloaded
  rw [show (s.held 0x48 tag [a, b]).room r = s.room r from rfl] at hwork
  refine ⟨fun hnot => ?refused, fun hoccupied hfull hspace => ?full, fun hoccupied hadmits => ⟨?_, ?_⟩⟩
  case refused =>
    rw [if_pos hnot] at hwork
    exact event_refused hready hwork
  case full =>
    intro full
    have hadmits : ¬ (s.held 0x48 tag [a, b]).admits = true := fun h => by
      have := (State.admits_iff _).mp h
      exact absurd this (Nat.not_le.mpr hfull)
    rw [if_neg (not_not.mpr hoccupied), if_neg hadmits, place_eq_placed (by exact hqueue), State.held_eq,
      State.placed_withHolder] at hwork
    have hfor : full.roomFor 0 := State.roomFor.placed ⟨hqueue, fun _ => hspace⟩ _
    refine ⟨event_answered hreset hholder hwork ((s.placed_holder _).trans hholder) hfor.1, ?_⟩
    have hhas := place_has .chargesFull s
    rwa [place_eq_placed hqueue] at hhas
  all_goals
    have hadmitted : (s.held 0x48 tag [a, b]).admits = true := (State.admits_iff _).mpr hadmits
    rw [if_neg (not_not.mpr hoccupied), if_pos hadmitted] at hwork
  case refine_1 =>
    intro hlow hbox hcallers
    have hdelete : deleteMailbox r (beginCheckout r (s.held 0x48 tag [a, b])) = beginCheckout r (s.held 0x48 tag [a, b]) := by
      rw [deleteMailbox, beginCheckout_room, show ((s.held 0x48 tag [a, b]).endedRoom r).mailbox = [] from hbox, List.foldl_nil]
    have hnone : (beginCheckout r (s.held 0x48 tag [a, b])).callers r = [] := by
      refine List.filter_eq_nil_iff.mpr fun c _ hc => ?_
      obtain ⟨hslot, hpurpose⟩ := (Bool.and_eq_true _ _).mp hc
      obtain ⟨hkind, hroom⟩ := of_decide_eq_true hpurpose
      rcases hcallers c with h | h | h
      · rw [show ((beginCheckout r (s.held 0x48 tag [a, b])).chan c).slot = none from h] at hslot
        exact Bool.false_ne_true hslot
      · exact h hkind
      · exact h hroom
    obtain ⟨z, hz⟩ : ∃ z, z = evaluateLamp r (beginCheckout r (s.held 0x48 tag [a, b])) := ⟨_, rfl⟩
    have hlamp (r' : RoomIx) := evaluateLamp_room r r' (beginCheckout r (s.held 0x48 tag [a, b]))
    rw [← hz] at hlamp
    have hthis : ∃ l, z.room r = { s.endedRoom r with lamp := l } := by
      rw [hlamp, if_pos rfl, beginCheckout_room]
      exact ⟨_, rfl⟩
    have hother (r' : RoomIx) (h : r' ≠ r) : z.room r' = s.room r' := by
      rw [hlamp, if_neg h]
      exact beginCheckout_other _ h
    obtain ⟨l, hl⟩ := hthis
    rw [checkOut_eq, hdelete, hnone, List.foldl_nil, ← hz] at hwork
    have hdrains (y : State) : y.drains.link = y.link := by rw [← drainTest_eq]; simp
    by_cases hopen : (s.room r).openMeters = 0
    · obtain ⟨u, htest, hu, hothers, hvacated⟩ := checkoutTest_completes (r := r) (z := z) (by rw [hl]; rfl) (by rw [hl]; exact hopen)
        (by rw [hz]; exact fun h => absurd h (Nat.not_le.mpr hlow))
      have hbills : z.bills (.final (finalRecord r (z.room r))) =
          { z with charges := s.charges ++ [.final (finalRecord r (z.room r))] } := by
        have hcharges : z.charges = s.charges := by rw [hz]; rfl
        rw [State.bills, hcharges, if_neg]
        show ¬ 224 ≤ (s.charges ++ [_]).length
        rw [List.length_append, List.length_singleton]
        omega
      rw [hbills] at hu
      rw [htest] at hwork
      refine ⟨{ u with link := s.link.replied tag .ok [] }, ?_, ?_, fun r' h => (hothers r' h).trans (hother r' h), ?_⟩
      · rw [State.drains_link]
        exact event_effect hready hwork ((hdrains u).trans (by rw [hu, hz]; rfl))
      · rw [hu, hz]
        rfl
      · rw [if_pos hopen]
        refine ⟨?_, ?_, ?_⟩
        · rw [hu, hz]; rfl
        · rw [hu, hl]; rfl
        · refine hvacated.trans ?_
          rw [hl]
          rfl
    · have htest : checkoutTest r z = z := if_neg fun h => hopen (by have := h.2; rw [hl] at this; exact this)
      rw [htest] at hwork
      refine ⟨{ z with link := s.link.replied tag .ok [] }, ?_, ?_, hother, ?_⟩
      · rw [State.drains_link]
        exact event_effect hready hwork ((hdrains z).trans (by rw [hz]; rfl))
      · rw [hz]
        rfl
      · rw [if_neg hopen]
        refine ⟨by rw [hz]; rfl, by rw [hz]; rfl, ?_⟩
        show z.room r = _
        rw [hl]
        exact congrArg (fun l => { s.endedRoom r with lamp := l }) (congrArg Room.lamp hl).symm
  case refine_2 =>
    intro hspace hprompted hblank callers hrecord pending emptied closed gone
    obtain ⟨hdelete, hblank', hfor⟩ := beginCheckout_emptied (r := r) hblank hspace (some ⟨0x48, tag, [a, b], .working⟩)
    obtain ⟨hframe, hprompts, hfree⟩ := deletes_frame_fold (pending.room r).mailbox pending
    have hpending : pending.room r = s.endedRoom r := beginCheckout_room s r
    have hchannels : emptied.channels = s.channels := (congrArg State.channels hframe :)
    have hcallers : emptied.callers r = callers := State.callers_congr hchannels r
    obtain ⟨z, hz⟩ : ∃ z, z = callers.foldl (fun z c => z.closes c) emptied := ⟨_, rfl⟩
    have hclose : ((emptied.withHolder (some ⟨0x48, tag, [a, b], .working⟩)).callers r).foldl (fun z c => closeRequest c z)
        (emptied.withHolder (some ⟨0x48, tag, [a, b], .working⟩)) = z.withHolder (some ⟨0x48, tag, [a, b], .working⟩) := by
      have hsame : (emptied.withHolder (some ⟨0x48, tag, [a, b], .working⟩)).callers r = callers := hcallers
      rw [hsame, hz, ← closes_withHolder_fold]
      refine closeRequests_eq (s := emptied.withHolder _) (fun id => ?_) (by exact hblank') callers ((List.nodup_finRange 32).filter _) fun c hc hstate => ?_
      · exact (congrArg (·[id]) hprompts).trans_ne (hprompted id)
      · exact absurd ((congrArg (fun v : Vector Channel 32 => v[c].state) hchannels).symm.trans hstate) (hrecord c hc)
    have hzframe : z = { emptied with channels := z.channels, rings := z.rings, coder := z.coder, store := z.store } := by
      rw [hz]
      exact closes_frame_fold callers emptied
    obtain ⟨box, new, urgent, recordings, hbilled⟩ := pending.emptied_billed r r
    have hroom : z.room r = { s.endedRoom r with
        mailbox := box, newCount := new, urgentCount := urgent, recordings := recordings } := by
      rw [← hpending, ← hbilled]
      exact congrArg (fun y => y.rooms[r]) hzframe
    have hlink : z.link = emptied.link := (congrArg State.link hzframe :)
    have hclosed : evaluateLamp r z = closed := by rw [hz]
    have hspent : emptied.link.queue.length < 64 := hfor.1
    have hcheck := checkOut_closed (s := s.held 0x48 tag [a, b]) hdelete hclose (congrArg Room.occupancy hroom)
      (by rw [← hlink] at hspent; exact fun _ _ => hspent)
    have hevaluated : (evaluateLamp r z).room r = lampEvaluated (z.classOf r).shutdownHold (z.room r) := by
      rw [evaluateLamp_room, if_pos rfl]
    have hgone : (evaluateLamp r z).checkedOut r = gone := by
      rw [hroom] at hevaluated
      have hopens : ((evaluateLamp r z).room r).openMeters = (s.room r).openMeters := by rw [hevaluated]; rfl
      by_cases hopen : (s.room r).openMeters = 0
      · have hcheckouts : (evaluateLamp r z).checkouts - 1 = s.checkouts := by
          have hcount : z.checkouts = s.checkouts + 1 := (congrArg State.checkouts hzframe).trans (congrArg State.checkouts hframe)
          rw [show (evaluateLamp r z).checkouts = z.checkouts from rfl, hcount, Nat.add_sub_cancel]
        have hfinal : finalRecord r ((evaluateLamp r z).room r) = finalRecord r (s.endedRoom r) := by rw [hevaluated]; rfl
        rw [State.checkedOut_closed (hopens.trans hopen), hfinal, hcheckouts, hclosed]
        exact (if_neg (not_not.mpr hopen)).symm
      · rw [State.checkedOut_open (hopens.trans_ne hopen), hclosed]
        exact (if_pos hopen).symm
    rw [hcheck, evaluateLamp_withHolder, State.checkedOut_withHolder, State.drains_withHolder, hgone] at hwork
    have hgonefor : gone.roomFor 0 := by
      have hzfor : z.roomFor 0 := by rw [hzframe]; exact hfor
      rw [← hgone]
      exact State.checkedOut_roomFor (z := evaluateLamp r z) hzfor
    have hgonefree : gone.link.holder = none := by
      rw [← hgone, State.checkedOut_holder]
      exact (congrArg Link.holder hlink).trans (hfree.trans hholder)
    have hdrains : gone.drains.link = gone.link := by rw [← drainTest_eq]; simp
    have hanswer := event_answered hreset hholder hwork (by rw [hdrains]; exact hgonefree) (by rw [hdrains]; exact hgonefor.1)
    rw [hdrains] at hanswer
    refine ⟨?_, fun hnodup hall => ?_⟩
    · rw [State.drains_link]
      exact hanswer
    · have hspec := State.emptied_spec (r := r) (s := pending) (by rw [hpending]; exact hnodup) (by rw [hpending]; exact hall)
      rw [Emptied, hpending] at hspec
      exact hspec

end Sys2Proof.Machine
end


section
-- The proofs are elaborated one after another: the waiting threads would take the memory that the check allows.
set_option Elab.async false
/-! SUPPORT. RESET_CHANNEL (R63): a channel freed, in the terms of the operations and of Safety.lean. -/

namespace Sys2Proof.Machine

/-! ## A channel enters FREE (R42) -/

theorem enterFree_slot {s : State} {c : ChannelIx} {k : Fin 126} (hslot : (s.chan c).slot = some k) :
    enterFree c s = ((leaveItem c (leaveMessage c s)).updChan c fun x =>
      { x with state := .free, playList := [], keyHolder := none, timer := none, slot := none }).bind k none := by
  rw [enterFree, hslot]

/-- What a channel is once it has entered FREE. -/
theorem enterFree_freed {s : State} {c : ChannelIx} {k : Fin 126} (hslot : (s.chan c).slot = some k) :
    ((enterFree c s).chan c).state = .free ∧ (enterFree c s).highway.bindings[k] = none ∧
      (enterFree c s).ring c = (s.ring c).leave ∧ (enterFree c s).store = (leaveMessage c s).store := by
  rw [enterFree_slot hslot]
  refine ⟨?_, ?_, ?_, rfl⟩
  · rw [State.chan_bind, State.chan_updChan_same]
  · rw [State.bindings_bind, if_pos rfl]
  · refine (State.ring_updRing_same _ c _).trans ?_
    rw [State.ring, (leaveMessage_frame c s).2.2.2.2.2.2.2.2.2.2.1]
    rfl

/-- An item that has left the ring leaves nothing more. -/
theorem Ring.leave_leave (g : Ring) : g.leave.leave = g.leave := by
  simp only [Ring.leave, List.filter_nil, List.map_nil, List.append_nil]

/-- A channel's ring matters to its release only by what leaving the item makes of it. -/
theorem State.frees_ring {s : State} {c : ChannelIx} {g g' : Ring} (h : g.leave = g'.leave) :
    State.frees c { s with rings := s.rings.set c g } = State.frees c { s with rings := s.rings.set c g' } := by
  have hring (g : Ring) : ((s.rings.set c g).set c ((s.rings.set c g)[c]).leave) = s.rings.set c g.leave := by
    simp only [Vector.set_set, Fin.getElem_fin, Vector.getElem_set_self]
  have hfrees (g : Ring) : State.frees c { s with rings := s.rings.set c g } =
      { State.frees c s with rings := (s.rings.set c g).set c ((s.rings.set c g)[c]).leave } := rfl
  rw [hfrees g, hfrees g', hring, hring, h]

theorem State.leaves_withHolder (c : ChannelIx) (s : State) (h : Option Held) :
    State.leaves c (s.withHolder h) = (s.leaves c).withHolder h := rfl

theorem State.frees_withHolder (c : ChannelIx) (s : State) (h : Option Held) :
    State.frees c (s.withHolder h) = (s.frees c).withHolder h := rfl

/-- A notice with an entry free. -/
theorem offerNotice_push {s : State} (h : s.link.queue.length < 64) (f : OutFrame) :
    offerNotice f s = { s with link := { s.link with queue := s.link.queue ++ [f] } } := by
  rw [offerNotice_eq, if_pos h]

/-! ## The reset of a channel (R63, R87) -/

/-- `s` with the encoder of channel `c` reset and its ring's pages discarded (R63). -/
def State.wiped (c : ChannelIx) (s : State) : State :=
  { s with rings := s.rings.set c (s.ring c).discardReset.leave
           coder := { s.coder with encoders := s.coder.encoders.set c Encoder.reset } }

/-- The message of a recording handed to the delete path by a reset. -/
def State.discarded (c : ChannelIx) (s : State) : State :=
  if (s.chan c).state = .record ∨ (s.chan c).state = .flush then
    match (s.chan c).current with
    | some n => deletePath n s
    | none => s
  else s

theorem State.discarded_other {c : ChannelIx} {s : State} (h : ¬ ((s.chan c).state = .record ∨ (s.chan c).state = .flush)) :
    s.discarded c = s := if_neg h

theorem State.discarded_message {c : ChannelIx} {s : State} {n : Nat} (h : (s.chan c).state = .record ∨ (s.chan c).state = .flush)
    (hn : (s.chan c).current = some n) : s.discarded c = deletePath n s := by
  rw [State.discarded, if_pos h, hn]

theorem State.discarded_frame (c : ChannelIx) (s : State) : (s.discarded c).channels = s.channels ∧
    (s.discarded c).rings = s.rings ∧ (s.discarded c).coder = s.coder ∧ (s.discarded c).highway = s.highway := by
  unfold State.discarded
  repeat' split
  all_goals simp

/-- A channel reset is freed and reported. -/
theorem channelReset_slot {c : ChannelIx} {s : State} {k : Fin 126} (hslot : (s.chan c).slot = some k) :
    channelReset c s = offerNotice (.slotDone (BitVec.ofNat 8 k.val) .reset) (enterFree c ((s.discarded c).wiped c)) := by
  simp only [channelReset, hslot]
  rfl

theorem workResetChannel_busy {s : State} {c : ChannelIx} (hbusy : (s.chan c).state ≠ .free) :
    workResetChannel [BitVec.ofNat 8 c.val] s = .done .ok [] (channelReset c s).drains := by
  have hc := c.isLt
  have hval : (BitVec.ofNat 8 c.val).toNat = c.val := by
    rw [BitVec.toNat_ofNat]
    omega
  have hix : Fin.ofNat 32 c.val = c := Fin.ext (Nat.mod_eq_of_lt hc)
  simp only [workResetChannel, hval, hix]
  rw [if_neg (by omega), if_neg hbusy, drainTest_eq]

/-- RESET_CHANNEL of a channel in use answers OK, whatever frames its steps bring. -/
theorem exec_resetChannel {s : State} {c : ChannelIx} (hready : s.ready) (hbusy : (s.chan c).state ≠ .free) (tag : Octet) :
    exec (.resetChannel tag [BitVec.ofNat 8 c.val]) s =
      .next (buildReply .ok [] (channelReset c (s.held 0x4F tag [BitVec.ofNat 8 c.val])).drains) := by
  obtain ⟨hreset, hholder, -⟩ := hready
  refine event_handed hreset ?_
  have hwork := workResetChannel_busy (s := s.held 0x4F tag [BitVec.ofNat 8 c.val]) hbusy
  simp only [holderTake, hholder]
  exact congrArg (fun w => match w with | .done st data z => buildReply st data z | .deferred z => z) hwork

/-! ## RESET_CHANNEL in the terms of Safety.lean -/

theorem channelReset_freed {c : ChannelIx} {s d : State} {k : Fin 126} (hslot : (s.chan c).slot = some k)
    (hd : s.discarded c = d) (hleaves : (s.chan c).reading = false ∨ d.marksBlank) (hq : d.link.queue.length < 64) :
    channelReset c s = { State.frees c (d.wiped c) with
      link := { d.link with queue := d.link.queue ++ [.slotDone (BitVec.ofNat 8 k.val) .reset] } } := by
  have hchan : (d.wiped c).chan c = s.chan c := by
    rw [← hd]
    exact congrArg (·[c]) (s.discarded_frame c).1
  have hfree : enterFree c (d.wiped c) = State.frees c (d.wiped c) := enterFree_eq (by rw [hchan]; exact hleaves)
  rw [channelReset_slot hslot, hd, hfree, offerNotice_push (by exact hq)]
  rfl

/-- A channel that reads no message enters FREE. -/
theorem State.frees_idle {s : State} {c : ChannelIx} {k : Fin 126} (hreading : (s.chan c).reading = false)
    (hslot : (s.chan c).slot = some k) : s.frees c =
      { s with channels := s.channels.set c { s.chan c with
                 state := .free, playList := [], keyHolder := none, timer := none, slot := none, current := none }
               rings := s.rings.set c (s.ring c).leave
               highway := { s.highway with bindings := s.highway.bindings.set k none } } := by
  have hleaves : s.leaves c = s.withChan c { s.chan c with reading := false, current := none } := by
    simp only [State.leaves, Channel.leaves, hreading]
  rw [State.frees, hleaves, hslot, State.chan_withChan_same, State.withChan_withChan]
  simp only [State.withChan, hreading]

/-- `s` with the message of a recording of channel `c` in the delete path, every mark page being blank. -/
def State.discards (c : ChannelIx) (s : State) : State :=
  if (s.chan c).state = .record ∨ (s.chan c).state = .flush then (s.chan c).current.elim s fun n => s.deletes n else s

theorem State.discarded_eq {c : ChannelIx} {s : State} (hblank : s.marksBlank) (hq : s.link.queue.length < 64) :
    s.discarded c = s.discards c := by
  rw [State.discarded, State.discards]
  cases (s.chan c).current with
  | none => rfl
  | some n => exact if_congr Iff.rfl (deletePath_eq hblank hq n) rfl

theorem State.discards_withHolder (c : ChannelIx) (s : State) (h : Option Held) :
    (s.withHolder h).discards c = (s.discards c).withHolder h := by
  have hchan : (s.withHolder h).chan c = s.chan c := rfl
  rw [State.discards, State.discards, hchan]
  cases (s.chan c).current with
  | none => split <;> rfl
  | some n =>
    split
    · exact s.deletes_holder n h
    · rfl

theorem State.discards_kept {c : ChannelIx} {s : State} {k : Nat} (hblank : s.marksBlank) (hfor : s.roomFor k) :
    (s.discards c).marksBlank ∧ (s.discards c).roomFor k ∧ (s.discards c).link.holder = s.link.holder ∧
      (s.discards c).rings = s.rings ∧ (s.discards c).coder = s.coder := by
  rw [State.discards]
  split
  · cases (s.chan c).current with
    | none => exact ⟨hblank, hfor, rfl, rfl, rfl⟩
    | some n =>
      obtain ⟨-, hblank', hfor'⟩ := deletePaths_eq hblank hfor [n]
      obtain ⟨hframe, -, hholder⟩ := deletes_frame_fold [n] s
      exact ⟨hblank', hfor', hholder, (congrArg State.rings hframe :), (congrArg State.coder hframe :)⟩
  · exact ⟨hblank, hfor, rfl, rfl, rfl⟩

/-- A RECORDING message with no block is reclaimed by the delete path (R112). -/
theorem deletePath_recording {s : State} {n : Nat} {m : Message} (hm : s.message n = some m) (hstate : m.state = .recording)
    (hblocks : m.blocks = []) :
    (∀ x ∈ (deletePath n s).store.messages, x.serial ≠ n) ∧
      ((deletePath n s).room m.room).recordings = (s.room m.room).recordings - 1 := by
  obtain ⟨z, hz⟩ : ∃ z, z = ({ s.updRoom m.room (messageLeft m) with
    store := { s.store with marks := s.store.marks.filter (· ≠ (n, .heard)) } } : State) := ⟨_, rfl⟩
  have hpath : deletePath n s = reclaim n z := by
    have hprogrammed : m.unprogrammed = true := by simp [Message.unprogrammed, hblocks]
    rw [deletePath, hm, hz]
    simp only [hstate, hprogrammed]
    rfl
  have hmz : z.message n = some m := by rw [hz]; exact hm
  have hrooms : (reclaim n z).rooms = z.rooms := by simp
  have hreclaim : reclaim n z = storeLowTest ((releaseBlocks m.blocks z).dropMessage n) := by rw [reclaim, hmz]
  rw [hpath]
  constructor
  · intro x hx
    rw [hreclaim, (storeLowTest_frame _).2.2.2.2.2.2.2.2.2.2.2.2.2.1] at hx
    exact of_decide_eq_true (List.mem_filter.mp hx).2
  · rw [State.room, hrooms, ← State.room, hz]
    refine (congrArg Room.recordings (State.room_updRoom_same s m.room (messageLeft m))).trans ?_
    rw [messageLeft, hstate]

/-- A message that is gone has no reader to lose. -/
theorem leaveMessage_gone {s : State} {c : ChannelIx} {n : Nat} (hcurrent : (s.chan c).current = some n)
    (hgone : ∀ x ∈ s.store.messages, x.serial ≠ n) : (leaveMessage c s).store = s.store := by
  have hmessages (f : Message → Message) : (s.store.messages.map fun m => if m.serial = n then f m else m) = s.store.messages :=
    (List.map_congr_left fun x hx => if_neg (hgone x hx)).trans (List.map_id _)
  have hnone : s.message n = none := List.find?_eq_none.mpr fun x hx => by simpa using hgone x hx
  rw [leaveMessage, hcurrent]
  cases (s.chan c).reading with
  | false => rfl
  | true =>
    dsimp only
    have hupd (f : Message → Message) (z : State) (hz : z.store = s.store) : z.updMessage n f = z := by
      rw [State.updMessage, hz, hmessages, ← hz]
    rw [hupd _ _ (by exact rfl), settle]
    rw [show (s.updChan c fun x => { x with reading := false, current := none }).message n = none from hnone]
    rfl

/-- What the SLOT_DONE, the test of the drain and the reply leave of a reset channel's state. -/
theorem resetReported {s : State} {c : ChannelIx} {k : Fin 126} (hslot : (s.chan c).slot = some k) :
    let e := enterFree c ((s.discarded c).wiped c)
    let t := buildReply .ok [] (channelReset c s).drains
    t.channels = e.channels ∧ t.rings = e.rings ∧ t.coder = e.coder ∧ t.highway = e.highway ∧ t.store = e.store ∧
      t.rooms = e.rooms := by
  intro e t
  have ht : t = buildReply .ok [] (drainTest (offerNotice (.slotDone (BitVec.ofNat 8 k.val) .reset) e)) := by
    rw [drainTest_eq, ← channelReset_slot hslot]
  rw [ht]
  simp

/-- RESET_CHANNEL of a channel with a slot: its SLOT_DONE and its reply. -/
theorem exec_resetChannel_freed {s d : State} {c : ChannelIx} {k : Fin 126} {tag : Octet} (hready : s.ready)
    (hbusy : (s.chan c).state ≠ .free) (hslot : (s.chan c).slot = some k)
    (hd : (s.held 0x4F tag [BitVec.ofNat 8 c.val]).discarded c =
      d.withHolder (some ⟨0x4F, tag, [BitVec.ofNat 8 c.val], .working⟩))
    (hleaves : (s.chan c).reading = false ∨ d.marksBlank) (hholder : d.link.holder = none) (hq : d.link.queue.length < 63) :
    exec (.resetChannel tag [BitVec.ofNat 8 c.val]) s = .next (State.drains { State.frees c (d.wiped c) with
      link := { d.link with queue := d.link.queue ++ [.slotDone (BitVec.ofNat 8 k.val) .reset, .reply tag .ok []] } }) := by
  obtain ⟨hreset, hnone, -⟩ := hready
  have hfreed := channelReset_freed (s := s.held 0x4F tag [BitVec.ofNat 8 c.val]) hslot hd hleaves (by exact Nat.lt_succ_of_lt hq)
  have hwork := workResetChannel_busy (s := s.held 0x4F tag [BitVec.ofNat 8 c.val]) hbusy
  obtain ⟨z, hz⟩ : ∃ z, z = ({ State.frees c (d.wiped c) with
    link := { d.link with queue := d.link.queue ++ [.slotDone (BitVec.ofNat 8 k.val) .reset] } } : State) := ⟨_, rfl⟩
  have hheld : channelReset c (s.held 0x4F tag [BitVec.ofNat 8 c.val]) =
      z.withHolder (some ⟨0x4F, tag, [BitVec.ofNat 8 c.val], .working⟩) := by
    rw [hfreed, hz]
    rfl
  rw [hheld, State.drains_withHolder] at hwork
  have hlink : z.drains.link = { d.link with queue := d.link.queue ++ [.slotDone (BitVec.ofNat 8 k.val) .reset] } := by
    rw [← drainTest_eq, hz]
    simp
  have hanswer := event_answered hreset hnone hwork (by rw [hlink]; exact hholder)
    (by rw [hlink, List.length_append, List.length_singleton]; omega)
  refine hanswer.trans (congrArg _ ?_)
  rw [hlink, ← State.drains_link, hz, Link.replied, List.append_assoc]
  rfl

/-! The model's own operation is called `channelReset`, so the theorem of that name stands in a namespace below. -/
namespace Resets

/-- Settles O45. -/
theorem channelReset : Obligations.ChannelReset := by
  intro tag s hready
  obtain ⟨hreset, hholder, hqueue⟩ := id hready
  refine ⟨fun o ho => event_refused hready (if_pos ho), fun c => ?_⟩
  intro x g reports
  have hval : (BitVec.ofNat 8 c.val).toNat = c.val := by
    have hc := c.isLt
    rw [BitVec.toNat_ofNat]
    omega
  refine ⟨fun hfree => ?free, fun k hbusy hrecord hflush hreading hslot hspace => ?idle, fun k hbusy hslot hblank hspace => ?freed,
    fun k n m hstate hslot hcurrent hm hrecording hblocks hspace => ?recording,
    fun k n m hstate hslot hreading hcurrent hm hkept hspace => ?reader⟩
  case free =>
    have hix : Fin.ofNat 32 (BitVec.ofNat 8 c.val).toNat = c := Fin.ext (by rw [hval]; exact Nat.mod_eq_of_lt c.isLt)
    have hwork : workResetChannel [BitVec.ofNat 8 c.val] (s.held 0x4F tag [BitVec.ofNat 8 c.val]) =
        .done .ok [] (s.held 0x4F tag [BitVec.ofNat 8 c.val]) := by
      rw [workResetChannel, if_neg (by rw [hval]; have := c.isLt; omega), hix]
      exact if_pos hfree
    exact event_effect (z := s.held 0x4F tag [BitVec.ofNat 8 c.val]) hready hwork rfl
  case idle =>
    have hanswer := exec_resetChannel_freed (tag := tag) hready hbusy hslot
      (State.discarded_other fun h => h.elim hrecord hflush) (.inl hreading) hholder hspace
    rw [State.frees_idle (s := s.wiped c) hreading hslot] at hanswer
    refine hanswer.trans (congrArg (fun y => Host.Outcome.next (State.drains y)) ?_)
    simp only [State.wiped, State.ring, Fin.getElem_fin, Vector.getElem_set_self, Vector.set_set, Ring.leave_leave]
    rfl
  case freed =>
    intro gone emptied freed
    have hfor : s.roomFor 1 := ⟨by omega, fun _ => by omega⟩
    obtain ⟨hblank', hfor', hholder', hrings, hcoder⟩ := State.discards_kept (c := c) hblank hfor
    have hdiscarded : (s.held 0x4F tag [BitVec.ofNat 8 c.val]).discarded c =
        gone.withHolder (some ⟨0x4F, tag, [BitVec.ofNat 8 c.val], .working⟩) :=
      (State.discarded_eq (s := s.held 0x4F tag [BitVec.ofNat 8 c.val]) hblank hqueue).trans (s.discards_withHolder c _)
    have hanswer := exec_resetChannel_freed (tag := tag) hready hbusy hslot hdiscarded (.inr hblank') (hholder'.trans hholder)
      (by have := hfor'.1; exact Nat.lt_of_succ_lt_succ this)
    refine hanswer.trans (congrArg (fun y => Host.Outcome.next (State.drains y)) ?_)
    have hring : gone.ring c = g := congrArg (·[c]) hrings
    have hfreed : State.frees c (gone.wiped c) = freed := by
      have hwiped : gone.wiped c = ({ gone with
          rings := s.rings.set c g.discardReset.leave
          coder := { s.coder with encoders := s.coder.encoders.set c Encoder.reset } } : State) := by
        rw [State.wiped, hring, show gone.rings = s.rings from hrings, show gone.coder = s.coder from hcoder]
      rw [hwiped]
      exact State.frees_ring (s := { gone with
        rings := s.rings, coder := { s.coder with encoders := s.coder.encoders.set c Encoder.reset } }) (Ring.leave_leave _)
    rw [hfreed]
    rfl
  case recording =>
    have hbusy : (s.chan c).state ≠ .free := by rcases hstate with h | h <;> rw [show (s.chan c).state = _ from h] <;> exact fun h => nomatch h
    refine ⟨_, exec_resetChannel hready hbusy tag, ?_⟩
    obtain ⟨z, hz⟩ : ∃ z, z = s.held 0x4F tag [BitVec.ofNat 8 c.val] := ⟨_, rfl⟩
    have hchan : z.chan c = s.chan c := by rw [hz]; rfl
    have hmz : z.message n = some m := by rw [hz]; exact hm
    have hroom : z.room m.room = s.room m.room := by rw [hz]; rfl
    rw [← hz, ← hroom]
    obtain ⟨hgone, hroom'⟩ := deletePath_recording hmz hrecording hblocks
    obtain ⟨hchannels', hrings', hcoder', hhighway', hstore', hrooms'⟩ := resetReported (s := z) (by rw [hchan]; exact hslot)
    have hd : z.discarded c = deletePath n z := State.discarded_message (by rw [hchan]; exact hstate) (by rw [hchan]; exact hcurrent)
    rw [hd] at hchannels' hrings' hcoder' hhighway' hstore' hrooms'
    have hchand : ((deletePath n z).wiped c).chan c = s.chan c :=
      (congrArg (·[c]) (show (deletePath n z).channels = z.channels by simp) :).trans hchan
    obtain ⟨hfree, hbinding, hring, hstore⟩ := enterFree_freed (s := (deletePath n z).wiped c) (by rw [hchand]; exact hslot)
    have hkept := leaveMessage_gone (s := (deletePath n z).wiped c) (by rw [hchand]; exact hcurrent) hgone
    refine ⟨?_, ?_, ?_, ?_, ?_, ?_⟩
    · rw [State.chan, hchannels']
      exact hfree
    · rw [hstore', hstore, hkept]
      exact hgone
    · rw [State.room, hrooms', (enterFree_frame c _).2.2.2.2.1]
      exact hroom'
    · rw [State.ring, hrings', ← State.ring, hring, State.ring, State.wiped]
      simp only [Fin.getElem_fin, Vector.getElem_set_self]
      rfl
    · rw [State.encoder, hcoder', (enterFree_frame c _).2.2.2.2.2.2.2.2.1, State.wiped]
      simp only [Fin.getElem_fin, Vector.getElem_set_self]
      rfl
    · rw [hhighway']
      exact hbinding
  case reader =>
    have hbusy : (s.chan c).state ≠ .free := by rcases hstate with h | h <;> rw [show (s.chan c).state = _ from h] <;> exact fun h => nomatch h
    refine ⟨_, exec_resetChannel hready hbusy tag, ?_⟩
    obtain ⟨z, hz⟩ : ∃ z, z = s.held 0x4F tag [BitVec.ofNat 8 c.val] := ⟨_, rfl⟩
    have hchan : z.chan c = s.chan c := by rw [hz]; rfl
    have hmz : z.message n = some m := by rw [hz]; exact hm
    rw [← hz]
    have hd : z.discarded c = z := State.discarded_other (by
      rw [hchan]
      rcases hstate with h | h <;> rw [show (s.chan c).state = _ from h] <;> rintro (h | h) <;> exact nomatch h)
    obtain ⟨hchannels', -, -, hhighway', hstore', -⟩ := resetReported (s := z) (by rw [hchan]; exact hslot)
    rw [hd] at hchannels' hhighway' hstore'
    obtain ⟨hfree, hbinding, -, hstore⟩ := enterFree_freed (s := z.wiped c) (by exact (congrArg Channel.slot hchan).trans hslot)
    refine ⟨?_, ?_, ?_⟩
    · rw [State.chan, hchannels']
      exact hfree
    · rw [State.message, hstore', hstore,
        leaveMessage_kept (s := z.wiped c) (by exact (congrArg Channel.reading hchan).trans hreading)
          (by exact (congrArg Channel.current hchan).trans hcurrent) (by exact hmz) hkept, ← State.message,
        State.message_updMessage _ _ _ _ (by simp), if_pos rfl]
      exact congrArg (Option.map _) hmz
    · rw [hhighway']
      exact hbinding

end Resets

end Sys2Proof.Machine
end


section
-- The proofs are elaborated one after another: the waiting threads would take the memory that the check allows.
set_option Elab.async false
/-! SUPPORT. SLOT_CLEAR by the state of the bound channel (R62, R64). -/

namespace Sys2Proof.Machine

/-- A SLOT_CLEAR for a slot bound to a channel is the channel's clearing and the test of the drain. -/
theorem exec_slotClear {s : State} {c : ChannelIx} {k : Fin 126} (hreset : s.resetLow = false)
    (hbound : s.highway.bindings[k] = some c) :
    exec (.slotClear (BitVec.ofNat 8 k.val)) s = .next (slotCleared c s).drains := by
  have hslot : k.val = (BitVec.ofNat 8 k.val).toNat := by
    have := k.isLt
    rw [BitVec.toNat_ofNat]
    omega
  refine event_handed hreset ?_
  rw [takeSlotClear, (s.boundTo_eq hslot).trans hbound]
  exact drainTest_eq _

theorem exec_slotClear_unbound {s : State} {slot : Octet} (hreset : s.resetLow = false) (hbound : s.boundTo slot = none) :
    exec (.slotClear slot) s = .next s := by
  refine event_handed hreset ?_
  rw [takeSlotClear, hbound]

theorem State.boundTo_of_ge (s : State) {slot : Octet} (h : 126 ≤ slot.toNat) : s.boundTo slot = none := by
  rw [State.boundTo, dif_neg (by omega)]

theorem slotCleared_flush {c : ChannelIx} {s : State} (h : (s.chan c).state = .flush) :
    slotCleared c s = s.withChan c { s.chan c with callerPresent := false } := by
  simp only [slotCleared, h, State.updChan_eq]

theorem slotCleared_record {c : ChannelIx} {s : State} (h : (s.chan c).state = .record) :
    slotCleared c s = recordingEnd c [] true s := by
  simp only [slotCleared, h]

/-- In GREET, ANNOUNCE, REPLAY, LISTEN and CLOSING a channel cleared enters FREE (R62). -/
theorem slotCleared_frees {c : ChannelIx} {s : State} (hfree : (s.chan c).state ≠ .free) (hflush : (s.chan c).state ≠ .flush)
    (hrecord : (s.chan c).state ≠ .record) : slotCleared c s = enterFree c s := by
  unfold slotCleared
  cases h : (s.chan c).state with
  | free => exact absurd h hfree
  | flush => exact absurd h hflush
  | record => exact absurd h hrecord
  | greet | announce | replay | listen | closing => rfl

/-- A reader of a message that stays enters FREE: its message loses it as a reader, and no mark is queued. -/
theorem enterFree_reader {s : State} {c : ChannelIx} {k : Fin 126} {n : Nat} {m : Message} (hslot : (s.chan c).slot = some k)
    (hreading : (s.chan c).reading = true) (hcurrent : (s.chan c).current = some n) (hm : s.message n = some m)
    (hkept : m.state ≠ .deleting) :
    (enterFree c s).message n = some { m with readers := m.readers - 1 } ∧
      (enterFree c s).chan c = { s.chan c with
        state := .free, playList := [], keyHolder := none, timer := none, slot := none, reading := false, current := none } ∧
      (enterFree c s).highway.bindings[k] = none ∧ (enterFree c s).store.marks = s.store.marks := by
  obtain ⟨-, hbinding, -, hstore⟩ := enterFree_freed hslot
  have hleave := leaveMessage_kept hreading hcurrent hm hkept
  refine ⟨?_, ?_, hbinding, ?_⟩
  · rw [State.message, hstore, ← State.message, hleave, State.message_updMessage _ _ _ _ (by simp), if_pos rfl]
    exact congrArg (Option.map _) hm
  · have hleft : (leaveItem c (leaveMessage c s)).chan c = { s.chan c with reading := false, current := none } := by
      rw [hleave]
      exact (State.chan_updChan_same s c fun x => { x with reading := false, current := none } :)
    rw [enterFree_slot hslot, State.chan_bind, State.chan_updChan_same, hleft]
  · rw [hstore, hleave]
    rfl

/-- Settles O41. -/
theorem slotsCleared : Obligations.SlotsCleared := by
  intro s hreset
  refine ⟨fun slot hslot => exec_slotClear_unbound hreset (s.boundTo_of_ge (by omega)), fun k => ?_⟩
  intro clear
  have hk : k.val = (BitVec.ofNat 8 k.val).toNat := by
    have := k.isLt
    rw [BitVec.toNat_ofNat]
    omega
  refine ⟨fun hnone => exec_slotClear_unbound hreset ((s.boundTo_eq hk).trans hnone), fun c hbound hslot => ?_⟩
  intro x heard
  have hclear : exec clear s = .next (slotCleared c s).drains := exec_slotClear hreset hbound
  refine ⟨fun hstate => ?flush, fun hstate htwo hpages => ?two, fun hstate => ?record,
    fun hfree hflush hrecord hreading => ?idle, fun hheard hleaves => ?frees,
    fun n m hheard hreading hcurrent hm hkept => ?reader⟩
  case flush =>
    have hcleared := slotCleared_flush hstate
    have hbusy : ((s.withChan c { x with callerPresent := false }).chan c).state ≠ .free := by
      rw [State.chan_withChan_same]
      exact fun h => nomatch hstate.symm.trans h
    rw [hclear, hcleared, State.drains_of_busy hbusy]
    rfl
  case two =>
    have hcleared := (slotCleared_record hstate).trans (recordingEnd_eq htwo hpages [] true)
    have hbusy : ((s.endsRecording c [] true).chan c).state ≠ .free := by
      rw [show (s.endsRecording c [] true).chan c = { x with
        state := .flush, playList := [], callerPresent := x.callerPresent && !true } from State.chan_withChan_same ..]
      exact fun h => nomatch h
    rw [hclear, hcleared, State.drains_of_busy hbusy, State.endsRecording]
    simp only [Bool.not_true, Bool.and_false]
    rfl
  case record =>
    rw [hclear, slotCleared_record hstate]
    rfl
  case idle =>
    rw [hclear, slotCleared_frees hfree hflush hrecord, enterFree_eq (.inl hreading), State.frees_idle hreading hslot, ← hreading]
  all_goals
    have hcleared : slotCleared c s = enterFree c s := by
      apply slotCleared_frees <;> intro h <;>
        exact absurd (show x.state = _ from h) (by rcases hheard with h | h | h | h | h <;> rw [h] <;> exact fun h => nomatch h)
  case frees => rw [hclear, hcleared, enterFree_eq hleaves]
  case reader =>
    obtain ⟨hmessage, hchan, hbinding, hmarks⟩ := enterFree_reader hslot hreading hcurrent hm hkept
    have hlocal : ChannelLocal c s (drainTest (enterFree c s)) := (ChannelLocal.refl c s).enterFree.drainTest
    refine ⟨drainTest (enterFree c s), by rw [hclear, hcleared, drainTest_eq], ?_, ?_, ?_, ?_, fun c' hc' => hlocal.others c' hc'⟩
    · rw [State.message, (drainTest_frame _).2.2.2.2.2.2.2.2.2.2.2.2.2.2.1]
      exact hmessage
    · rw [State.chan, (drainTest_frame _).2.2.2.2.2.2.2.2.2.2.1]
      exact hchan
    · rw [(drainTest_frame _).2.2.1]
      exact hbinding
    · rw [(drainTest_frame _).2.2.2.2.2.2.2.2.2.2.2.2.2.2.1]
      exact hmarks

end Sys2Proof.Machine
end


section
-- The proofs are elaborated one after another: the waiting threads would take the memory that the check allows.
set_option Elab.async false
/-! SUPPORT. A DIVERT granted: the plan of its dialogue, and its list played (R43–R48, R52, R60). -/

namespace Sys2Proof.Machine

/-! ## The plan of a dialogue (R44) -/

/-- The store has no room for a deposit (R48). -/
abbrev State.noRoom (s : State) : Prop := 8192 ≤ s.store.messages.length ∨ s.store.free.length < s.store.reserve

/-- A deposit that only the store refuses (R48). -/
abbrev State.storeShort (s : State) (x : Nat) (p : Purpose) : Prop :=
  ∃ r, s.lookup x = some r ∧ p = .deposit ∧ (s.room r).occupancy = .occupied ∧
    (s.room r).mailbox.length < (s.classOf r).mailboxLimit ∧ s.noRoom

/-- The first state and play list of a dialogue with the room found for extension `x` (R48, R52, R60). -/
def State.planned (s : State) (x : Nat) (p : Purpose) : ChanState × List PlayItem :=
  let close (l : List PlayItem) : ChanState × List PlayItem := (.closing, l ++ [pGoodbye])
  match s.lookup x with
  | none => close [pNotInService]
  | some r =>
    let y := s.room r
    let desk := if y.barred = true ∨ y.desk = true then [pContactDesk] else []
    let kept := y.mailbox.length - y.newCount
    match p with
    | .deposit =>
      if y.occupancy ≠ .occupied then close [pNotInService]
      else if (s.classOf r).mailboxLimit ≤ y.mailbox.length then close [pMailboxFull]
      else if s.noRoom then close [pStoreFull]
      else (.greet, pGreeting :: Machine.spoken x ++ [pTone])
    | .retrieve =>
      if y.occupancy ≠ .occupied then close [pNotInService]
      else if y.newCount = 0 ∧ kept = 0 then close (desk ++ [pNoMessages])
      else (.announce, desk ++ [pYouHave] ++ spokenCount y.newCount ++ [pNewMessages] ++ spokenCount kept ++ [pKeptMessages])
    | .notice =>
      match y.denial with
      | .vacant => close [pNotInService]
      | .barredDigits => close [pCallDenied]
      | .credit => close [pCreditLimit]
      | .capacity => close [pTryLater]
      | .none => close []

/-- What follows a list that empties as soon as a channel has entered GREET, ANNOUNCE or CLOSING with it (R48, R53, R61). -/
def emptiedAtOnce (c : ChannelIx) : ChanState → State → State
  | .greet => toneEnd c
  | .announce => chooseNext c
  | _ => closingEnd c

/-- A channel enters state `st` with list `l`; the three operations that do so differ in what an emptied list is followed by. -/
def entered (c : ChannelIx) (st : ChanState) (l : List PlayItem) (z : State) : State :=
  let y := setList c l (z.updChan c fun x => { x with state := st })
  if (y.chan c).playList = [] then emptiedAtOnce c st y else y

theorem enterGreet_entered (c : ChannelIx) (l : List PlayItem) (z : State) : enterGreet c l z = entered c .greet l z := rfl

theorem enterAnnounce_entered (c : ChannelIx) (l : List PlayItem) (z : State) : enterAnnounce c l z = entered c .announce l z := rfl

theorem enterClosing_entered (c : ChannelIx) (l : List PlayItem) (z : State) : enterClosing c l z = entered c .closing l z := rfl

/-- `s` with channel `c` granted to slot `k` (R41, R43). -/
def State.grants (s : State) (c : ChannelIx) (k : Fin 126) (x : Nat) (p : Purpose) : State :=
  (s.updChan c fun _ => granted k x (s.lookup x) p).bind k (some c)

theorem State.chan_grants (s : State) (c : ChannelIx) (k : Fin 126) (x : Nat) (p : Purpose) :
    (s.grants c k x p).chan c = granted k x (s.lookup x) p := by
  rw [State.grants, State.chan_bind, State.chan_updChan_same]

/-- The store-low notice of a deposit is not brought when the plan is another. -/
theorem State.not_storeShort {s : State} {x : Nat} {p : Purpose} {r : RoomIx} (hr : s.lookup x = some r)
    (h : p ≠ .deposit ∨ (s.room r).occupancy ≠ .occupied ∨ (s.classOf r).mailboxLimit ≤ (s.room r).mailbox.length ∨ ¬ s.noRoom) :
    ¬ s.storeShort x p := by
  rintro ⟨r', hr', hp, hocc, hbox, hroom⟩
  obtain rfl : r = r' := Option.some.inj (hr.symm.trans hr')
  rcases h with h | h | h | h
  · exact h hp
  · exact h hocc
  · omega
  · exact h hroom

/-- The dialogue of a grant enters the planned state with the planned list (R44). -/
theorem startDialogue_planned {s : State} {c : ChannelIx} {k : Fin 126} {x : Nat} (p : Purpose) (hx : x ≤ 999999)
    (hq : s.link.queue.length < 64) :
    startDialogue c p (s.grants c k x p) = entered c (s.planned x p).1 (s.planned x p).2
      (if s.storeShort x p then (s.grants c k x p).placed .storeFull else s.grants c k x p) := by
  obtain ⟨b, hb⟩ : ∃ b, b = s.grants c k x p := ⟨_, rfl⟩
  have hchan : b.chan c = granted k x (s.lookup x) p := by rw [hb, State.chan_grants]
  have hroom : (b.chan c).room = s.lookup x := by rw [hchan]; rfl
  have hext : ((b.chan c).extension).getD 0 = x := by
    have hgranted : (granted k x (s.lookup x) p).extension = some x := if_pos hx
    rw [hchan, hgranted, Option.getD_some]
  have hrooms (r : RoomIx) : b.room r = s.room r := by rw [hb]; rfl
  have hclass (r : RoomIx) : b.classOf r = s.classOf r := by rw [hb]; rfl
  have hstore : b.store = s.store := by rw [hb]; rfl
  have hlink : b.link = s.link := by rw [hb]; rfl
  rw [← hb]
  obtain ⟨found, hr⟩ : ∃ found, s.lookup x = found := ⟨_, rfl⟩
  rw [hr] at hroom
  cases found with
  | none =>
    have hshort : ¬ s.storeShort x p := fun ⟨r, hr', _⟩ => nomatch hr.symm.trans hr'
    have hplan : s.planned x p = (.closing, [pNotInService, pGoodbye]) := by rw [State.planned, hr]; rfl
    rw [if_neg hshort, hplan]
    cases p <;> simp only [startDialogue, startDeposit, startRetrieve, startNotice, hroom] <;> rfl
  | some r =>
    cases p with
    | deposit =>
      simp only [startDialogue, startDeposit, hroom, hrooms, hclass, hstore, hext, Config.maxMessages]
      by_cases hocc : (s.room r).occupancy ≠ .occupied
      · rw [if_pos hocc, if_neg (State.not_storeShort hr (.inr (.inl hocc))), State.planned, hr]
        simp only [if_pos hocc]
        rfl
      by_cases hbox : (s.classOf r).mailboxLimit ≤ (s.room r).mailbox.length
      · rw [if_neg hocc, if_pos hbox, if_neg (State.not_storeShort hr (.inr (.inr (.inl hbox)))), State.planned, hr]
        simp only [if_neg hocc, if_pos hbox]
        rfl
      by_cases hshort : s.noRoom
      · rw [if_neg hocc, if_neg hbox, if_pos hshort,
          if_pos ⟨r, hr, rfl, not_not.mp hocc, Nat.lt_of_not_le hbox, hshort⟩, State.planned, hr,
          place_eq_placed (by rw [hlink]; exact hq)]
        simp only [if_neg hocc, if_neg hbox, if_pos hshort]
        rfl
      · rw [if_neg hocc, if_neg hbox, if_neg hshort, if_neg (State.not_storeShort hr (.inr (.inr (.inr hshort)))), State.planned, hr]
        simp only [if_neg hocc, if_neg hbox, if_neg hshort]
        rfl
    | retrieve =>
      rw [if_neg (State.not_storeShort (p := .retrieve) hr (.inl (fun h => nomatch h)))]
      simp only [startDialogue, startRetrieve, State.planned, hr, hroom, hrooms, Bool.or_eq_true]
      split
      · rfl
      split
      · simp only [List.append_assoc]
        rfl
      · rfl
    | notice =>
      rw [if_neg (State.not_storeShort (p := .notice) hr (.inl (fun h => nomatch h)))]
      simp only [startDialogue, startNotice, State.planned, hr, hroom, hrooms]
      cases (s.room r).denial <;> rfl

/-! ## The list played -/

/-- Two placements, of which either may be left out, bring one ATTENTION frame at the most. -/
theorem State.placed_both (s : State) (a b : Prop) [Decidable a] [Decidable b] (j k : Attention) :
    (let t := if a then s.placed j else s
      if b then t.placed k else t) =
      { s with attention := s.attention ||| (if a then attentionBit j else 0) ||| if b then attentionBit k else 0
               link := { s.link with queue := s.link.queue ++ if (a ∨ b) ∧ s.attention = 0 then [.attention] else [] } } := by
  have hne : s.attention ||| attentionBit j ≠ 0 := placed_attention_ne s j
  have hzero (v : BitVec 16) : v ||| 0 = v := BitVec.or_zero
  by_cases ha : a <;> by_cases hb : b <;>
    simp only [ha, hb, if_true, if_false, true_or, or_true, or_self, false_and, true_and, hzero, List.append_nil,
      State.placed, if_neg hne]
  all_goals
    by_cases h0 : s.attention = 0
    · simp only [if_pos h0]
    · simp only [if_neg h0, List.append_nil]

/-- What a list leaves that is played from a state given: its first item is current, or the channel has none. -/
def State.playing (c : ChannelIx) (l : List PlayItem) (z : State) : State :=
  l.head?.elim { z with rings := z.rings.set c (z.ring c).leave } fun i => State.starts c i z

/-- Playing changes no channel record. -/
@[simp] theorem State.chan_playing (c k : ChannelIx) (l : List PlayItem) (z : State) :
    (State.playing c l z).chan k = z.chan k := by
  cases l <;> rfl

theorem State.misses_withChan (l : List PlayItem) (c : ChannelIx) (x : Channel) (z : State) :
    (z.withChan c x).misses l = (z.misses l).withChan c x := by
  have hmissing : (z.withChan c x).missing = z.missing := rfl
  rw [State.misses, State.misses, hmissing]
  split <;> rfl

theorem State.plays_playing (c : ChannelIx) (l : List PlayItem) (z : State) :
    State.plays c l z = State.playing c (l.dropWhile z.missing)
      ((z.misses l).withChan c { z.chan c with playList := l.dropWhile z.missing }) := by
  have hrings : (z.misses l).rings = z.rings := by
    rw [State.misses]
    split <;> rfl
  rw [State.plays, State.playing]
  cases l.dropWhile z.missing with
  | nil =>
    have hleft : z.rings.set c (z.ring c).leave = (z.misses l).rings.set c ((z.misses l).ring c).leave := by
      rw [State.ring, State.ring, hrings]
    exact congrArg (fun v => ({ (z.misses l).withChan c { z.chan c with playList := [] } with rings := v } : State)) hleft
  | cons i rest => rfl

/-! ## A DIVERT granted -/

/-- `s` with slot `k` bound to channel `c` and the attention kinds of a grant placed (R43, R45, R48). -/
def State.begins (s : State) (c : ChannelIx) (k : Fin 126) (full : Prop) (misses : Bool) [Decidable full] : State :=
  { s with highway := { s.highway with bindings := s.highway.bindings.set k (some c) }
           attention := s.attention ||| (if full then attentionBit .storeFull else 0) |||
             if misses then attentionBit .promptMissing else 0
           link := { s.link with queue := s.link.queue ++
             if (full ∨ misses = true) ∧ s.attention = 0 then [.attention] else [] } }

/-- A channel's values at grant with its dialogue's first state and list (R41, R44). -/
def grantedIn (k : Fin 126) (x : Nat) (room : Option RoomIx) (p : Purpose) (st : ChanState) (list : List PlayItem) : Channel :=
  { state := st, kind := some p, slot := some k, extension := some x, room := room, playList := list, keyHolder := none
    timer := none, repeats := 0, current := none, kept := false, last := none, reading := false, callerPresent := true }

theorem State.freeChannel_eq {s : State} {c : ChannelIx} (hfree : (s.chan c).state = .free)
    (hlow : ∀ c', c' < c → (s.chan c').state ≠ .free) : s.freeChannel = some c := by
  have hfound : s.channels.toList.findIdx? (fun x => decide (x.state = .free)) = some c.val :=
    findIdx?_toList (i := c) (decide_eq_true hfree) fun j hj h => hlow j hj (of_decide_eq_true h)
  rw [State.freeChannel, hfound]
  exact congrArg some (Fin.ext (Nat.mod_eq_of_lt c.isLt))

/-- A DIVERT to a free slot reaches the lowest-numbered FREE channel (R43). -/
theorem exec_divert_grant {s : State} {c : ChannelIx} {k : Fin 126} {x : Nat} {p : Purpose} (hreset : s.resetLow = false)
    (hservice : s.service = .inService) (hunbound : s.highway.bindings[k] = none)
    (hunmapped : ∀ t : TrunkIx, (s.trunk t).slot ≠ some k) (hfree : (s.chan c).state = .free)
    (hlow : ∀ c', c' < c → (s.chan c').state ≠ .free) :
    exec (.divert (BitVec.ofNat 8 k.val) x p) s = .next (startDialogue c p (s.grants c k x p)) := by
  have hk : k.val = (BitVec.ofNat 8 k.val).toNat := by
    have := k.isLt
    rw [BitVec.toNat_ofNat]
    omega
  have hexec : exec (.divert (BitVec.ofNat 8 k.val) x p) s = .next (takeDivert (BitVec.ofNat 8 k.val) x p s) := event_taken hreset
  have hopen : ¬ (s.highway.bindings[k] ≠ none ∨ ∃ t : TrunkIx, (s.trunk t).slot = some k) := by
    rintro (h | ⟨t, h⟩)
    · exact h hunbound
    · exact hunmapped t h
  rw [hexec, takeDivert_slot hservice hk, if_neg hopen, State.freeChannel_eq hfree hlow]
  rfl

/-- The dialogue of a grant: its list played, and what follows when it empties at once. -/
theorem startDialogue_playing {s : State} {c : ChannelIx} {k : Fin 126} {x : Nat} (p : Purpose) (hx : x ≤ 999999)
    (hq : s.link.queue.length < 63) :
    let plan := s.planned x p
    let list := plan.2.dropWhile s.missing
    let begun := s.begins c k (s.storeShort x p) ((plan.2.head?).any s.missing)
    let y := State.playing c list (begun.withChan c (grantedIn k x (s.lookup x) p plan.1 list))
    startDialogue c p (s.grants c k x p) = if list = [] then emptiedAtOnce c plan.1 y else y := by
  intro plan list begun y
  let bound : State := { s with highway := { s.highway with bindings := s.highway.bindings.set k (some c) } }
  obtain ⟨v, hv⟩ : ∃ v, v = (if s.storeShort x p then bound.placed .storeFull else bound) := ⟨_, rfl⟩
  have hmissing : v.missing = s.missing := by
    rw [hv]
    split <;> rfl
  have hroom : v.attention = 0 → v.link.queue.length < 64 := by
    rw [hv]
    split
    · exact fun h => absurd h (placed_attention_ne _ _)
    · exact fun _ => Nat.lt_succ_of_lt hq
  have hgranted : (if s.storeShort x p then (s.grants c k x p).placed .storeFull else s.grants c k x p) =
      v.withChan c (grantedIn k x (s.lookup x) p .free []) := by
    have hrecord : granted k x (s.lookup x) p = grantedIn k x (s.lookup x) p .free [] := by
      rw [granted, Config.maxExtension, if_pos hx]
      rfl
    rw [State.grants, hrecord, hv]
    split <;> rfl
  have hset : setList c plan.2 ((v.withChan c (grantedIn k x (s.lookup x) p .free [])).updChan c fun x => { x with state := plan.1 }) =
      y := by
    have hbegun : v.misses plan.2 = begun := by
      rw [State.misses, hmissing, hv]
      exact bound.placed_both (s.storeShort x p) ((plan.2.head?).any s.missing = true) .storeFull .promptMissing
    rw [State.updChan_eq, State.withChan_withChan, State.chan_withChan_same,
      setList_plays (s := v.withChan c _) (by exact fun _ => hroom), State.plays_playing,
      State.misses_withChan, hbegun, State.withChan_withChan, State.chan_withChan_same]
    exact congrArg (fun f => State.playing c (plan.2.dropWhile f)
      (begun.withChan c { grantedIn k x (s.lookup x) p plan.1 [] with playList := plan.2.dropWhile f })) hmissing
  have hlist : (y.chan c).playList = list := by rw [State.chan_playing, State.chan_withChan_same, grantedIn]
  rw [startDialogue_planned (c := c) (k := k) p hx (Nat.lt_succ_of_lt hq), hgranted, entered, hset, hlist]

/-! ## A list that empties at once -/

/-- `z` with the item of channel `c` gone from its ring (R92). -/
def State.left (c : ChannelIx) (z : State) : State := { z with rings := z.rings.set c (z.ring c).leave }

theorem State.ring_left (c : ChannelIx) (z : State) : (z.left c).ring c = (z.ring c).leave := by
  simp only [State.left, State.ring, Fin.getElem_fin, Vector.getElem_set_self]

theorem State.left_left (c : ChannelIx) (z : State) : (z.left c).left c = z.left c := by
  rw [State.left, State.ring_left, Ring.leave_leave]
  simp only [State.left, Vector.set_set]

/-- The GREET list has emptied, and a message can be created (R48). -/
theorem toneEnd_records {c : ChannelIx} {r : RoomIx} {z : State} (hroom : (z.chan c).room = some r) (hcreate : z.canCreate = true) :
    toneEnd c z = State.records c r z := by
  have hring : (leaveItem c z).ring c = (z.ring c).leave := State.ring_updRing_same z c _
  rw [toneEnd, hroom]
  refine (if_pos hcreate).trans ?_
  rw [enterRecord, State.records]
  simp only [leaveItem, createMessage, State.updRing, State.updChan, State.updEncoder, State.updRoom, State.setRoom, encoderStarted, Encoder.reset,
    Quantiser.reset, Ring.startRecording]
  simp only [State.ring, State.chan, State.room, State.classOf, Fin.getElem_fin, Vector.getElem_set_self, Vector.set_set]

theorem State.records_left (c : ChannelIx) (r : RoomIx) (z : State) : State.records c r (z.left c) = State.records c r z := by
  rw [State.records, State.ring_left, Ring.leave_leave]
  simp only [State.left, Vector.set_set]
  rfl

/-- An item starts in a ring that the item before it leaves. -/
theorem State.starts_left (c : ChannelIx) (i : PlayItem) (z : State) : State.starts c i (z.left c) = State.starts c i z := by
  have hring : (((z.left c).ring c).leave) = (z.ring c).leave := by rw [State.ring_left, Ring.leave_leave]
  unfold State.starts
  simp only [hring]
  simp only [State.left, Vector.set_set]
  rfl

/-- The decoder stands at the start of the stream of an item that starts (R78, R80). -/
theorem State.starts_decoder (c : ChannelIx) (i : PlayItem) (z : State) :
    ((State.starts c i z).decoder c).inPlay = .nothing ∧ ((State.starts c i z).decoder c).position = 0 := by
  simp only [State.starts, State.decoder, Fin.getElem_fin, Vector.getElem_set_self, and_self]

/-- An item that starts on a channel leaves the rings and decoders of the others as they were. -/
theorem State.starts_other {c c' : ChannelIx} (h : c' ≠ c) (i : PlayItem) (z : State) :
    (State.starts c i z).ring c' = z.ring c' ∧ (State.starts c i z).decoder c' = z.decoder c' := by
  have hne : c.val ≠ c'.val := fun he => h (Fin.ext he.symm)
  exact ⟨Vector.getElem_set_ne c.isLt c'.isLt hne, Vector.getElem_set_ne c.isLt c'.isLt hne⟩

theorem State.chan_withChan_of_ne {c c' : ChannelIx} (h : c' ≠ c) (x : Channel) (z : State) :
    (z.withChan c x).chan c' = z.chan c' := Vector.getElem_set_ne c.isLt c'.isLt fun he => h (Fin.ext he.symm)

theorem State.plays_left (c : ChannelIx) (l : List PlayItem) (z : State) : State.plays c l (z.left c) = State.plays c l z := by
  have hmisses : (z.left c).misses l = (z.misses l).left c := by
    have hmissing : (z.left c).missing = z.missing := rfl
    rw [State.misses, State.misses, hmissing]
    split <;> rfl
  have hmissing : (z.left c).missing = z.missing := rfl
  rw [State.plays_playing, State.plays_playing, hmisses, hmissing]
  cases l.dropWhile z.missing with
  | nil => exact State.left_left c ((z.misses l).withChan c { z.chan c with playList := [] })
  | cons i rest => exact State.starts_left c i ((z.misses l).withChan c { z.chan c with playList := i :: rest })

theorem State.goesOn_left (c : ChannelIx) (n : Nat) (kept : Bool) (z : State) :
    State.goesOn c (some n) kept (z.left c) = State.goesOn c (some n) kept z :=
  let read (m : Message) : Message := if m.serial = n then { m with readers := m.readers + 1 } else m
  State.plays_left c _ (State.withChan { z with store := { z.store with messages := z.store.messages.map read } } c
    { z.chan c with state := .replay, kept := kept, last := some n, current := some n, reading := true })

/-- A grant leaves room for a SLOT_DONE beside the ATTENTION frame that it may bring. -/
theorem State.begins_roomFor {s : State} (hq : s.link.queue.length < 63) (c : ChannelIx) (k : Fin 126) (full : Prop)
    (misses : Bool) [Decidable full] : (s.begins c k full misses).roomFor 0 := by
  refine ⟨?_, fun hattention => ?_⟩
  · simp only [State.begins, List.length_append, Nat.add_zero]
    split <;> simp only [List.length_singleton, List.length_nil] <;> omega
  · obtain ⟨hor, hmissing⟩ := BitVec.or_eq_zero_iff.mp hattention
    obtain ⟨-, hstore⟩ := BitVec.or_eq_zero_iff.mp hor
    have hfull : ¬ full := fun h => absurd ((if_pos h).symm.trans hstore) (by decide)
    have hmisses : ¬ misses = true := fun h => absurd ((if_pos h).symm.trans hmissing) (by decide)
    have hnone : ¬ ((full ∨ misses = true) ∧ s.attention = 0) := fun h => h.1.elim hfull hmisses
    simp only [State.begins, if_neg hnone, List.append_nil, Nat.add_zero]
    exact hq

/-- A deposit that is taken finds room in the store (R48). -/
theorem State.planned_greet {s : State} {x : Nat} {p : Purpose} (h : (s.planned x p).1 = .greet) : ¬ s.noRoom := by
  revert h
  unfold State.planned
  dsimp only
  repeat' split
  all_goals intro h
  all_goals first
    | assumption
    | cases h

/-- Settles O40. -/
theorem divertsGranted : Obligations.DivertsGranted := by
  intro k x p c s hreset hservice hunbound hunmapped hfree hlow hqueue hx
  intro close noRoom full plan list misses begun channel
  have hgrant := exec_divert_grant (x := x) (p := p) hreset hservice hunbound hunmapped hfree hlow
  have hplay := startDialogue_playing (s := s) (c := c) (k := k) p hx hqueue
  have hplan : s.planned x p = plan := rfl
  obtain ⟨w, hw⟩ : ∃ w, w = begun.withChan c channel := ⟨_, rfl⟩
  have hexec : exec (.divert (BitVec.ofNat 8 k.val) x p) s =
      .next (if list = [] then emptiedAtOnce c plan.1 (State.playing c list w) else State.playing c list w) := by
    rw [hgrant, hplay, hw]
    rfl
  clear hgrant hplay
  have hchan : w.chan c = channel := by rw [hw, State.chan_withChan_same]
  have hspace : w.roomFor 0 := by
    rw [hw]
    exact State.begins_roomFor hqueue c k full misses
  refine ⟨fun hlist => ?plays, fun hlist hstate => ?closing, fun r hlist hstate hr hserial => ?greet,
    fun r n m kept hlist hstate hr hchoice hm hurgent => ?announce⟩
  case plays =>
    rw [if_neg hlist] at hexec
    obtain ⟨i, rest, hcons⟩ : ∃ i rest, list = i :: rest := List.exists_cons_of_ne_nil hlist
    have hstarts : State.playing c list w = State.starts c i w := by rw [hcons]; rfl
    rw [hstarts] at hexec
    obtain ⟨hinPlay, hposition⟩ := State.starts_decoder c i w
    refine ⟨_, hexec, ?_, by rw [State.chan_starts, hchan], ?_, hinPlay, hposition, fun c' hc' => ?_⟩
    · rw [hw]
      rfl
    · rw [State.starts_item, hcons]
      rfl
    · obtain ⟨hring, hdecoder⟩ := State.starts_other hc' i w
      refine ⟨?_, hring.trans ?_, hdecoder.trans ?_⟩
      · rw [State.chan_starts, hw, State.chan_withChan_of_ne hc']
        rfl
      · rw [hw]
        rfl
      · rw [hw]
        rfl
  all_goals
    rw [if_pos hlist, hlist, show State.playing c [] w = w.left c from rfl, hstate] at hexec
    rw [hexec]
  case closing =>
    have hslot : ((w.left c).chan c).slot = some k := by exact (congrArg Channel.slot hchan :)
    have hreading : ((w.left c).chan c).reading = false := by exact (congrArg Channel.reading hchan :)
    rw [show emptiedAtOnce c .closing = closingEnd c from rfl, closingEnd, hslot]
    simp only [offerNotice_push (s := w.left c) (by exact hspace.1)]
    rw [enterFree_eq (by exact .inl hreading), State.frees_idle (by exact hreading) (by exact hslot), hw]
    have hback : s.highway.bindings.set k none = s.highway.bindings := by
      rw [← hunbound]
      exact Vector.set_getElem_self k.isLt
    simp only [State.left, State.withChan, State.chan, State.ring, Fin.getElem_fin, Vector.getElem_set_self, Vector.set_set,
      Ring.leave_leave, begun, channel, hlist, hback]
  case greet =>
    have hroom : ((w.left c).chan c).room = some r := by exact (congrArg Channel.room hchan).trans hr
    have hcreate : (w.left c).canCreate = true := by
      have hspare : s.store.messages.length < 8192 := Nat.lt_of_not_le fun h =>
        State.planned_greet (s := s) (x := x) (p := p) ((congrArg Prod.fst hplan).trans hstate) (.inl h)
      rw [hw]
      exact decide_eq_true ⟨hspare, hserial⟩
    rw [show emptiedAtOnce c .greet = toneEnd c from rfl, toneEnd_records hroom hcreate, State.records_left]
    refine ⟨_, rfl, ?_, ?_, ?_, ?_⟩
    · rw [hw]
      rfl
    · have hrecords : (State.records c r w).chan c =
          { w.chan c with state := .record, playList := [], current := some w.store.nextSerial } := State.chan_withChan_same ..
      rw [hrecords, hchan, hw]
      simp only [channel, hlist]
      rfl
    · simp only [State.records, State.encoder, Fin.getElem_fin, Vector.getElem_set_self]
    · simp only [State.records, State.ring, Fin.getElem_fin, Vector.getElem_set_self]
      rfl
  case announce =>
    have hroom : ((w.left c).chan c).room = some r := by exact (congrArg Channel.room hchan).trans hr
    have hchoice' : (w.left c).Chooses ((w.left c).chan c) ((w.left c).room r).mailbox (some n) kept := by
      have hrecord : (w.left c).chan c = channel := hchan
      rw [hrecord, hw]
      cases kept <;> exact hchoice
    have hnext := chooseNext_eq (s := w.left c) (c := c) (r := r) (found := some n) (kept := kept)
      (.inr ⟨hspace, fun h => nomatch h⟩) hroom hchoice'
    rw [show emptiedAtOnce c .announce = chooseNext c from rfl, hnext, State.goesOn_left, hw]

end Sys2Proof.Machine
end


section
-- The proofs are elaborated one after another: the waiting threads would take the memory that the check allows.
set_option Elab.async false
/-! SUPPORT. The keys of a channel (R45, R48–R58): what an item that stops leaves, and lists that empty at once. -/

namespace Sys2Proof.Machine

/-! ## A channel whose item has stopped (R45) -/

/-- `z` with the list of channel `c` empty and its item gone from its ring. -/
def State.stopped (c : ChannelIx) (z : State) : State := (z.left c).withChan c { z.chan c with playList := [] }

theorem setList_stopped (c : ChannelIx) (z : State) : setList c [] z = z.stopped c := rfl

@[simp] theorem State.chan_stopped (c : ChannelIx) (z : State) : (z.stopped c).chan c = { z.chan c with playList := [] } :=
  State.chan_withChan_same ..

theorem State.withChan_self (c : ChannelIx) (z : State) : z.withChan c (z.chan c) = z := by
  have hchannels : z.channels.set c (z.chan c) = z.channels := Vector.set_getElem_self c.isLt
  rw [State.withChan, hchannels]

/-- A list whose items are all missing leaves the channel stopped. -/
theorem State.plays_stopped_of_nil {c : ChannelIx} {l : List PlayItem} {z : State} (h : l.dropWhile z.missing = []) :
    State.plays c l z = (z.misses l).stopped c := by
  have hchan : (z.misses l).chan c = z.chan c := by
    rw [State.misses]
    split <;> rfl
  rw [State.plays_playing, h, State.stopped, hchan]
  rfl

/-- What a channel plays next does not depend on the list and the item that it leaves. -/
theorem State.plays_stopped (c : ChannelIx) (l : List PlayItem) (z : State) :
    State.plays c l (z.stopped c) = State.plays c l z := by
  have hmissing : (z.stopped c).missing = z.missing := rfl
  have hmisses : (z.left c).misses l = (z.misses l).left c := by
    have hmissing : (z.left c).missing = z.missing := rfl
    rw [State.misses, State.misses, hmissing]
    split <;> rfl
  rw [← State.plays_left c l z, State.plays_playing, State.plays_playing, hmissing, State.chan_stopped, State.stopped,
    State.misses_withChan, State.withChan_withChan]
  rfl

/-- A record written over a stopped channel's. -/
theorem State.stopped_withChan (c : ChannelIx) (f : Channel → Channel)
    (hf : ∀ x, f { x with playList := [] } = { f x with playList := [] }) (z : State) :
    (z.stopped c).withChan c (f ((z.stopped c).chan c)) = (z.withChan c (f (z.chan c))).stopped c := by
  rw [State.chan_stopped, hf, State.stopped, State.stopped, State.withChan_withChan, State.chan_withChan_same]
  simp only [State.left, State.withChan, Vector.set_set]
  rfl

theorem State.closesWith_stopped (c : ChannelIx) (l : List PlayItem) (z : State) :
    State.closesWith c l (z.stopped c) = State.closesWith c l z := by
  have hplays : State.plays c l ((z.stopped c).withChan c { (z.stopped c).chan c with state := .closing }) =
      State.plays c l (z.withChan c { z.chan c with state := .closing }) := by
    rw [State.stopped_withChan c (fun x => { x with state := .closing }) (fun _ => rfl), State.plays_stopped]
  have hslot : ((z.stopped c).chan c).slot = (z.chan c).slot := by rw [State.chan_stopped]
  have hmissing : (z.stopped c).missing = z.missing := rfl
  unfold State.closesWith
  dsimp only
  rw [hplays, hslot, hmissing]

theorem State.goesOn_stopped (c : ChannelIx) (found : Option Nat) (kept : Bool) (z : State) :
    State.goesOn c found kept (z.stopped c) = State.goesOn c found kept z := by
  cases found with
  | none =>
    simp only [State.goesOn]
    rw [State.chan_stopped]
    have hstop := State.stopped_withChan c (fun x => { x with kept := true, last := if x.kept then x.last else none })
      (fun _ => rfl) z
    rw [State.chan_stopped] at hstop
    exact (congrArg (State.closesWith c [pEndOfMessages, pGoodbye]) hstop).trans (State.closesWith_stopped ..)
  | some n =>
    let read (m : Message) : Message := if m.serial = n then { m with readers := m.readers + 1 } else m
    have hstop := State.stopped_withChan c
      (fun x => { x with state := .replay, kept := kept, last := some n, current := some n, reading := true }) (fun _ => rfl)
      { z with store := { z.store with messages := z.store.messages.map read } }
    exact (congrArg (State.plays c _) hstop).trans (State.plays_stopped ..)

theorem State.records_stopped (c : ChannelIx) (r : RoomIx) (z : State) : State.records c r (z.stopped c) = State.records c r z := by
  have hroom : (z.stopped c).room r = (z.left c).room r := rfl
  have hclass : (z.stopped c).classOf r = (z.left c).classOf r := rfl
  have hring : (z.stopped c).ring c = (z.left c).ring c := rfl
  have hchan : (z.left c).chan c = z.chan c := rfl
  rw [← State.records_left c r z]
  simp only [State.records, State.chan_stopped, hroom, hclass, hring, hchan]
  simp only [State.stopped, State.withChan, Vector.set_set]

/-! ## A channel enters GREET, ANNOUNCE or CLOSING -/

theorem entered_plays {c : ChannelIx} {st : ChanState} {l : List PlayItem} {z : State}
    (h : (l.head?).any z.missing = true → z.attention = 0 → z.link.queue.length < 64) :
    entered c st l z =
      let y := State.plays c l (z.withChan c { z.chan c with state := st })
      if l.dropWhile z.missing = [] then emptiedAtOnce c st y else y := by
  have hset : setList c l (z.updChan c fun x => { x with state := st }) =
      State.plays c l (z.withChan c { z.chan c with state := st }) := setList_plays h
  rw [entered, hset, (State.plays_frame c l _).1]
  rfl

/-! ## A reader leaves a message that stays -/

theorem leaveMessage_leaves {s : State} {c : ChannelIx} {n : Nat} {m : Message} (hcurrent : (s.chan c).current = some n)
    (hm : s.message n = some m) (hkept : m.state ≠ .deleting) : leaveMessage c s = s.leaves c := by
  cases hreading : (s.chan c).reading with
  | false => exact leaveMessage_eq (.inl hreading)
  | true =>
    have hfind : s.store.messages.find? (·.serial = n) = some m := hm
    have hleft (busy : Bool) : s.store.readerLeft n busy = { s.store with
        messages := s.store.messages.map fun m => if m.serial = n then { m with readers := m.readers - 1 } else m } := by
      have hsettled : (decide (m.state = .deleting ∧ m.readers ≤ 1 ∧ m.deletedPending = false) && !busy) = false := by
        rw [decide_eq_false fun h => hkept h.1, Bool.false_and]
      simp only [Store.readerLeft, hfind, hsettled, Bool.or_false, Bool.false_eq_true, if_false, List.append_nil]
    rw [leaveMessage_kept hreading hcurrent hm hkept, State.leaves, Channel.leaves, hreading, hcurrent]
    dsimp only
    rw [hleft]
    rfl

/-! ## Key 2 on a NEW message whose page 14 is not blank (R110, R111) -/

theorem queueMark_heard_failed {z : State} {n : Nat} {m : Message} (hm : z.message n = some m) (hblank : m.blank14 = false)
    (hq : z.link.queue.length < 64) : queueMark .heard n z = z.placed .flashFault := by
  simp only [queueMark, hm, hblank, Bool.false_eq_true, if_false, markFailed]
  exact place_eq_placed hq _

/-- A message made HEARD with no mark queued, FLASH_FAULT being placed. -/
theorem makeHeard_failed {s : State} {n : Nat} {m : Message} (hm : s.message n = some m) (hnew : m.state = .new)
    (hblank : m.blank14 = false) (hq : s.link.queue.length < 64) :
    makeHeard n s = State.placed { s.madeHeard n with
      store := { (s.madeHeard n).store with marks := s.store.marks } } .flashFault := by
  have hroom : (if m.urgent = true then (s.room m.room).urgentCount - 1 else (s.room m.room).urgentCount) =
      (s.room m.room).urgentCount - if m.urgent = true then 1 else 0 := by
    cases m.urgent <;> rfl
  obtain ⟨y, hy⟩ : ∃ y, y = evaluateLamp m.room { s with rooms := s.rooms.set m.room { s.room m.room with
    newCount := (s.room m.room).newCount - 1, urgentCount := (s.room m.room).urgentCount - if m.urgent then 1 else 0 } } := ⟨_, rfl⟩
  have hstore : y.store = s.store := by rw [hy]; simp
  have hlink : y.link = s.link := by rw [hy]; simp
  let messages := s.store.messages.map fun y => if y.serial = n then { y with state := .heard } else y
  have hmade : s.madeHeard n = { y with store := { s.store with messages := messages, marks := s.store.marks ++ [(n, .heard)] } } := by
    rw [State.madeHeard, hm]
    simp only [hnew, ne_eq, not_true_eq_false, if_false]
    rw [hy]
  have hmake : makeHeard n s = queueMark .heard n { y with store := { s.store with messages := messages } } := by
    rw [makeHeard, hm]
    simp only [hnew, if_true]
    refine congrArg (queueMark .heard n) ?_
    rw [hy]
    simp only [evaluateLamp, State.updRoom, State.setRoom, State.updMessage, ← hroom]
    rfl
  have hmessage : State.message { y with store := { s.store with messages := messages } } n = some { m with state := .heard } := by
    rw [State.message_mapped (s := s) (f := fun x => { x with state := .heard }) (fun _ => rfl) rfl, if_pos rfl, hm]
    rfl
  rw [hmake, hmade, queueMark_heard_failed hmessage hblank (by rw [show _ = s.link from hlink]; exact hq)]

/-- A message made HEARD leaves the link, the channels, the prompts and the blankness of the mark pages as they were. -/
theorem State.madeHeard_frame (n : Nat) (s : State) : (s.madeHeard n).link = s.link ∧ (s.madeHeard n).attention = s.attention ∧
    (s.madeHeard n).channels = s.channels ∧ (s.madeHeard n).store.prompts = s.store.prompts ∧ MarksKept s (s.madeHeard n) := by
  rw [State.madeHeard]
  cases s.message n with
  | none => exact ⟨rfl, rfl, rfl, rfl, fun m hm => ⟨m, hm, rfl, rfl⟩⟩
  | some m =>
    dsimp only
    split
    · exact ⟨rfl, rfl, rfl, rfl, fun m hm => ⟨m, hm, rfl, rfl⟩⟩
    · refine ⟨by simp, by simp, by simp, rfl, fun x hx => ?_⟩
      obtain ⟨y, hy, rfl⟩ := List.mem_map.mp hx
      refine ⟨y, hy, ?_, ?_⟩ <;> split <;> rfl

theorem State.message_madeHeard {s : State} {n : Nat} {m : Message} (hm : s.message n = some m) (hnew : m.state = .new) :
    (s.madeHeard n).message n = some { m with state := .heard } := by
  have hmessages : (s.madeHeard n).store.messages =
      s.store.messages.map fun x => if x.serial = n then { x with state := .heard } else x := by
    rw [State.madeHeard, hm]
    simp only [hnew, ne_eq, not_true_eq_false, if_false]
  rw [State.message_mapped (f := fun x => { x with state := .heard }) (fun _ => rfl) hmessages, if_pos rfl, hm]
  rfl

/-- A list whose first item is not missing starts on it. -/
theorem State.plays_head {c : ChannelIx} {i : PlayItem} {z : State} (h : z.missing i = false) (rest : List PlayItem) :
    State.plays c (i :: rest) z = State.starts c i (z.withChan c { z.chan c with playList := i :: rest }) := by
  have hlist : (i :: rest).dropWhile z.missing = i :: rest := List.dropWhile_cons_of_neg (by rw [h]; exact Bool.false_ne_true)
  have hmisses : z.misses (i :: rest) = z := if_neg (by rw [List.head?_cons, Option.any_some, h]; exact Bool.false_ne_true)
  rw [State.plays_playing, hlist, hmisses]
  rfl

/-- A channel that has left its message leaves the prompts, the link and the attention set as they were. -/
theorem State.leaves_frame (c : ChannelIx) (s : State) :
    (s.leaves c).store.prompts = s.store.prompts ∧ (s.leaves c).link = s.link ∧ (s.leaves c).attention = s.attention :=
  ⟨Channel.leaves_prompts _ _ _, rfl, rfl⟩

/-- The choice of a channel that has left its message (R54, R59). -/
theorem chooseNext_left {s : State} {c : ChannelIx} {r : RoomIx} {found : Option Nat} {kept : Bool}
    (hspace : s.prompted ∨ s.roomFor 0) (hroom : (s.chan c).room = some r)
    (hchoice : (s.leaves c).Chooses ((s.leaves c).chan c) ((s.leaves c).room r).mailbox found kept) :
    chooseNext c (s.leaves c) = (s.leaves c).goesOn c found kept := by
  obtain ⟨hprompts, hlink, hattention⟩ := s.leaves_frame c
  refine chooseNext_eq (hspace.imp (fun h id => ?_) fun h => ⟨?_, fun _ => .inl ?_⟩) ?_ hchoice
  · rw [hprompts]
    exact h id
  · rw [State.roomFor, hlink, hattention]
    exact h
  · rw [State.leaves_chan]
  · rw [State.leaves_chan]
    exact hroom

theorem State.missing_congr {y z : State} (h : y.store.prompts = z.store.prompts) : y.missing = z.missing := by
  funext i
  cases i with
  | prompt id => exact congrArg (fun v => (v[id]).isNone) h
  | message n => rfl

/-- `s` with message `n` of room `r` in the delete path, and the room's lamp evaluated when the message was NEW or HEARD
(R57, R112). -/
def State.removes (n : Nat) (m : Message) (s : State) : State :=
  if m.state = .new ∨ m.state = .heard then evaluateLamp m.room (s.deletes n) else s.deletes n

theorem State.removes_frame (n : Nat) (m : Message) (s : State) : (s.removes n m).store.prompts = s.store.prompts ∧
    (s.removes n m).channels = s.channels ∧ MarksKept s (s.removes n m) ∧ (s.roomFor 0 → (s.removes n m).roomFor 0) := by
  obtain ⟨hframe, hprompts, -⟩ := deletes_frame_fold [n] s
  have hchannels : (s.deletes n).channels = s.channels := (congrArg State.channels hframe :)
  have hmarks : MarksKept s (s.deletes n) := s.deletes_marks n
  rw [State.removes]
  split
  · refine ⟨by simpa using hprompts, by simpa using hchannels, by simpa [MarksKept] using hmarks, fun h => ?_⟩
    have := State.deletes_roomFor h n
    simpa [State.roomFor] using this
  · exact ⟨hprompts, hchannels, hmarks, fun h => State.deletes_roomFor h n⟩

/-! ## The keys of R48–R57 -/

/-- A KEY for the slot of a bound channel. -/
theorem exec_key {s : State} {c : ChannelIx} {k : Fin 126} {key : Key} (hreset : s.resetLow = false)
    (hbound : s.highway.bindings[k] = some c) :
    exec (.key (BitVec.ofNat 8 k.val) key) s = .next (channelKey c key s).drains := by
  have hk : k.val = (BitVec.ofNat 8 k.val).toNat := by
    have := k.isLt
    rw [BitVec.toNat_ofNat]
    omega
  refine event_handed hreset ?_
  rw [takeKey, (s.boundTo_eq hk).trans hbound]
  exact drainTest_eq _

theorem exec_key_unbound {s : State} {slot : Octet} {key : Key} (hreset : s.resetLow = false) (hbound : s.boundTo slot = none) :
    exec (.key slot key) s = .next s := by
  refine event_handed hreset ?_
  rw [takeKey, hbound]

theorem channelKey_held {c : ChannelIx} {key : Key} {s : State} (h : (s.chan c).state = .flush ∨ (s.chan c).state = .closing) :
    channelKey c key s =
      s.withChan c { s.chan c with keyHolder := if (s.chan c).keyHolder = none then some key else (s.chan c).keyHolder } := by
  have hkey : channelKey c key s =
      if (s.chan c).keyHolder.isNone then s.updChan c fun x => { x with keyHolder := some key } else s := by
    rcases h with h | h <;> simp only [channelKey, h]
  rw [hkey]
  cases hholder : (s.chan c).keyHolder with
  | none => rfl
  | some key' =>
    have hself : ({ s.chan c with keyHolder := some key' } : Channel) = s.chan c := by rw [← hholder]
    exact (s.withChan_self c ▸ congrArg (s.withChan c) hself).symm

theorem channelKey_message {c : ChannelIx} {key : Key} {s : State} (h : (s.chan c).state = .replay ∨ (s.chan c).state = .listen) :
    channelKey c key s = messageKey c key s := by
  rcases h with h | h <;> simp only [channelKey, h]

/-- Settles O42. -/
theorem keysTaken : Obligations.KeysTaken := by
  intro key s hreset
  refine ⟨fun slot hslot => exec_key_unbound hreset (s.boundTo_of_ge (by omega)), fun k => ?_⟩
  intro press
  have hk : k.val = (BitVec.ofNat 8 k.val).toNat := by
    have := k.isLt
    rw [BitVec.toNat_ofNat]
    omega
  refine ⟨fun hnone => exec_key_unbound hreset ((s.boundTo_eq hk).trans hnone), fun c hbound => ?_⟩
  intro x idle may
  have hpress : exec press s = .next (channelKey c key s).drains := exec_key hreset hbound
  have hbusy {z : State} (h : (z.chan c).state ≠ .free) : z.drains = z := State.drains_of_busy h
  have hkeep (h : x.state ≠ .free) (hkey : channelKey c key s = s) : exec press s = .next s := by rw [hpress, hkey, hbusy h]
  refine ⟨fun hstate => ?held, fun hstate hquiet => ?greetIdle, fun hstate hkey htone => ⟨fun hmissing => ?tone, fun r hmissing hroom hq => ?toneMissing⟩,
    fun r found kept hstate hroom hchoice hmay => ?announce, fun hstate d hkey => ?recordDigit, fun n hstate hkey hcurrent => ?urgent,
    fun hstate hkey => ?recordEnd, fun hstate hkey htwo hpages => ?recordTwo, fun n hstate hcurrent => ?message⟩
  case held =>
    have hrecord := channelKey_held (key := key) (s := s) hstate
    rw [hpress, hrecord, hbusy]
    · rfl
    · rw [State.chan_withChan_same]
      rcases hstate with h | h <;> exact fun hfree => nomatch (show x.state = _ from h).symm.trans hfree
  case greetIdle =>
    refine hkeep (fun hfree => nomatch hstate.symm.trans hfree) ?_
    have hstate' : (s.chan c).state = .greet := hstate
    simp only [channelKey, hstate']
    exact if_neg fun h => hquiet.elim (fun hne => hne h.1) h.2
  case tone =>
    have hsame : ({ x with state := .greet } : Channel) = x := by rw [← hstate]
    have hself : s.withChan c { x with state := .greet } = s := by rw [hsame]; exact s.withChan_self c
    have hgreet : channelKey c key s = State.starts c pTone (s.withChan c { x with playList := [pTone] }) := by
      have hkeyed : channelKey c key s = entered c .greet [pTone] s := by
        have hstate' : (s.chan c).state = .greet := hstate
        simp only [channelKey, hstate']
        exact if_pos ⟨hkey, htone⟩
      rw [hkeyed, entered_plays (by rw [List.head?_cons, Option.any_some, hmissing]; exact fun h => nomatch h), hself,
        State.plays_head hmissing]
      exact if_neg (by rw [List.dropWhile_cons_of_neg (by rw [hmissing]; exact Bool.false_ne_true)]; exact List.cons_ne_nil _ _)
    rw [hgreet, hbusy (by rw [State.chan_starts, State.chan_withChan_same]; exact fun h => nomatch hstate.symm.trans h)] at hpress
    exact ⟨_, hpress, rfl, State.starts_item _ c pTone, fun c' hc' => State.starts_other hc' pTone _⟩
  case toneMissing =>
    intro gone
    have hsame : ({ x with state := .greet } : Channel) = x := by rw [← hstate]
    have hself : s.withChan c { x with state := .greet } = s := by rw [hsame]; exact s.withChan_self c
    have hlist : [pTone].dropWhile s.missing = [] := List.dropWhile_cons_of_pos hmissing
    have hgone : s.misses [pTone] = gone := if_pos hmissing
    have hgreet : channelKey c key s = toneEnd c (gone.stopped c) := by
      have hkeyed : channelKey c key s = entered c .greet [pTone] s := by
        have hstate' : (s.chan c).state = .greet := hstate
        simp only [channelKey, hstate']
        exact if_pos ⟨hkey, htone⟩
      rw [hkeyed, entered_plays fun _ _ => Nat.lt_succ_of_lt hq, hself, State.plays_stopped_of_nil hlist, hgone]
      exact if_pos hlist
    have hroom' : ((gone.stopped c).chan c).room = some r := by rw [State.chan_stopped]; exact hroom
    rw [hpress, hgreet]
    refine ⟨fun hspare hserial => ?_, fun hfull hleaves => ?_⟩
    · rw [toneEnd_records hroom' (decide_eq_true ⟨hspare, hserial⟩), State.records_stopped, hbusy]
      rw [show (gone.records c r).chan c = { gone.chan c with
        state := .record, playList := [], current := some gone.store.nextSerial } from State.chan_withChan_same ..]
      exact fun h => nomatch h
    · have hcreate : (gone.stopped c).canCreate = false := decide_eq_false fun h => by
        rcases hfull with hfull | hfull
        · exact absurd h.1 (Nat.not_lt.mpr hfull)
        · exact h.2 hfull
      have hspace : (gone.placed .storeFull).roomFor 0 :=
        State.roomFor.placed (State.roomFor.placed ⟨Nat.lt_succ_of_lt hq, fun _ => hq⟩ _) _
      have hplaced : place .storeFull (gone.stopped c) = (gone.placed .storeFull).stopped c := by
        refine (place_eq_placed ?_ _).trans rfl
        exact (State.roomFor.placed (k := 0) ⟨Nat.lt_succ_of_lt hq, fun _ => hq⟩ .promptMissing).1
      rw [toneEnd, hroom']
      simp only [hcreate, Bool.false_eq_true, if_false]
      rw [hplaced, enterClosing_closesWith (s := (gone.placed .storeFull).stopped c) (List.cons_ne_nil _ _) (.inr ⟨hspace, ?_⟩), State.closesWith_stopped]
      rw [State.chan_stopped]
      exact hleaves
  case announce =>
    have hkeyed : channelKey c key s = chooseNext c (s.stopped c) := by
      have hstate' : (s.chan c).state = .announce := hstate
      simp only [channelKey, hstate']
      rfl
    have hchoice' : (s.stopped c).Chooses ((s.stopped c).chan c) ((s.stopped c).room r).mailbox found kept := by
      rw [State.chan_stopped]
      cases found <;> cases kept <;> exact hchoice
    have hspace : (s.stopped c).prompted ∨
        (s.stopped c).roomFor 0 ∧ (found = none → ((s.stopped c).chan c).reading = false ∨ (s.stopped c).marksBlank) := by
      rw [State.chan_stopped]
      exact hmay.imp id fun h => ⟨⟨Nat.lt_succ_of_lt h.1, fun _ => h.1⟩, h.2⟩
    rw [hpress, hkeyed, chooseNext_eq hspace (by rw [State.chan_stopped]; exact hroom) hchoice', State.goesOn_stopped]
  case recordDigit =>
    refine hkeep (fun hfree => nomatch hstate.symm.trans hfree) ?_
    have hstate' : (s.chan c).state = .record := hstate
    simp only [channelKey, hstate', hkey]
  case urgent =>
    have hstate' : (s.chan c).state = .record := hstate
    have hkeyed : channelKey c key s = s.updMessage n fun m => { m with urgent := true } := by
      have hcurrent' : (s.chan c).current = some n := hcurrent
      simp only [channelKey, hstate', hkey, hcurrent']
    rw [hpress, hkeyed, hbusy (by exact fun hfree => nomatch hstate.symm.trans hfree)]
    rfl
  case recordEnd =>
    have hstate' : (s.chan c).state = .record := hstate
    rw [hpress]
    simp only [channelKey, hstate', hkey]
    rfl
  case recordTwo =>
    have hstate' : (s.chan c).state = .record := hstate
    have hkeyed : channelKey c key s = s.endsRecording c [pMessageSaved, pGoodbye] false := by
      simp only [channelKey, hstate', hkey]
      exact recordingEnd_eq htwo hpages _ _
    have hended : (s.endsRecording c [pMessageSaved, pGoodbye] false).chan c = { x with
        state := .flush, playList := [pMessageSaved, pGoodbye], callerPresent := x.callerPresent && !false } :=
      State.chan_withChan_same ..
    rw [hpress, hkeyed, hbusy (by rw [hended]; exact fun h => nomatch h), State.endsRecording]
    simp only [Bool.not_false, Bool.and_true]
    rfl
  case message =>
    have hkeyed : channelKey c key s = messageKey c key s := channelKey_message hstate
    have hfree : x.state ≠ .free := by rcases hstate with h | h <;> rw [h] <;> exact fun h => nomatch h
    have hcurrent' : (s.chan c).current = some n := hcurrent
    refine ⟨fun hidle => ?idle, fun hkey => ?replayed, fun m hkey hm hnew hblank hq => ?heardFailed, fun hkey hblank => ?heard,
      fun m hkey hm hblank hq => ?delete, fun hkey hblank hmay => ?hash, fun m hkey hreading hm hkept hgoodbye => ?reader⟩
    case idle =>
      refine hkeep hfree (hkeyed.trans ?_)
      simp only [messageKey, hcurrent']
      rcases hidle with rfl | ⟨d, rfl, rfl | hd⟩
      · rfl
      · rfl
      · fin_cases d <;> first | rfl | exact absurd hd (by decide)
    case replayed =>
      have hreplay : channelKey c key s =
          State.starts c (.message n) (s.withChan c { x with state := .replay, timer := none, playList := [.message n] }) := by
        have hlist : setList c [.message n] ((s.updChan c fun x => { x with timer := none }).updChan c fun x => { x with state := .replay }) =
            State.starts c (.message n) (s.withChan c { x with state := .replay, timer := none, playList := [.message n] }) := by
          rw [State.updChan_updChan, setList_eq (by exact trivial), State.chan_updChan_same, State.updChan_eq, State.withChan_withChan]
        rw [hkeyed, hkey]
        simp only [messageKey, hcurrent', hlist]
        rw [State.chan_starts, State.chan_withChan_same]
        exact if_neg (List.cons_ne_nil _ _)
      rw [hreplay, hbusy (by rw [State.chan_starts, State.chan_withChan_same]; exact fun h => nomatch h)] at hpress
      exact ⟨_, hpress, rfl, State.starts_item _ c _, (State.starts_decoder c _ _).2, fun c' hc' => State.starts_other hc' _ _⟩
    case heardFailed =>
      intro heard failed left r found kept hroom hchoice hmay
      obtain ⟨hlink, hattention, hchannels, hprompts, -⟩ := idle.madeHeard_frame n
      have hchan : failed.chan c = { x with timer := none } := (congrArg (·[c]) hchannels).trans (State.chan_withChan_same ..)
      have hmessage : failed.message n = some { m with state := .heard } := State.message_madeHeard (s := idle) hm hnew
      have hfailed : makeHeard n idle = failed := makeHeard_failed (s := idle) hm hnew hblank hq
      have hleft : leaveMessage c failed = left :=
        leaveMessage_leaves (by rw [hchan]; exact hcurrent) hmessage (fun h => nomatch h)
      have hkey2 : channelKey c key s = chooseNext c left := by
        rw [hkeyed, hkey, ← hleft, ← hfailed]
        simp only [messageKey, hcurrent']
        rfl
      have hroom' : (failed.chan c).room = some r := by rw [hchan]; exact hroom
      have hspace : failed.prompted ∨ failed.roomFor 0 := by
        refine hmay.imp (fun h id => ?_) fun h => State.roomFor.placed ?_ _
        · exact fun hnone => h id (hprompts ▸ hnone)
        · have hfor : (idle.madeHeard n).roomFor 0 := by
            rw [State.roomFor, hlink]
            exact ⟨Nat.lt_succ_of_lt h, fun _ => h⟩
          exact hfor
      rw [hpress, hkey2, chooseNext_left hspace hroom' hchoice]
    case heard =>
      intro left r found kept hroom hchoice hmay
      obtain ⟨hlink, hattention, hchannels, hprompts, hmarks⟩ := idle.madeHeard_frame n
      have hchan : (idle.madeHeard n).chan c = { x with timer := none } :=
        (congrArg (·[c]) hchannels).trans (State.chan_withChan_same ..)
      have hmade : makeHeard n idle = idle.madeHeard n := makeHeard_eq (by exact hblank) n
      have hleft : leaveMessage c (idle.madeHeard n) = left := leaveMessage_eq (.inr (hmarks.blank hblank))
      have hkey2 : channelKey c key s = chooseNext c left := by
        rw [hkeyed, hkey, ← hleft, ← hmade]
        simp only [messageKey, hcurrent']
        rfl
      have hroom' : ((idle.madeHeard n).chan c).room = some r := by rw [hchan]; exact hroom
      have hspace : (idle.madeHeard n).prompted ∨ (idle.madeHeard n).roomFor 0 := by
        refine hmay.imp (fun h id => ?_) fun h => ?_
        · exact fun hnone => h id (hprompts ▸ hnone)
        · rw [State.roomFor, hlink]
          exact ⟨Nat.lt_succ_of_lt h, fun _ => h⟩
      rw [hpress, hkey2, chooseNext_left hspace hroom' hchoice]
    case delete =>
      intro gone left told
      have hgone : gone = idle.removes n m := rfl
      obtain ⟨hprompts, hchannels, hmarks, hroomFor⟩ := idle.removes_frame n m
      rw [← hgone] at hprompts hchannels hmarks hroomFor
      have hchan : gone.chan c = { x with timer := none } := (congrArg (·[c]) hchannels).trans (State.chan_withChan_same ..)
      have hleft : leaveMessage c gone = left := leaveMessage_eq (.inr (hmarks.blank hblank))
      have hdeleted : channelKey c key s = entered c .announce [pDeleted] left := by
        have hpath : deletePath n idle = idle.deletes n := deletePath_eq (by exact hblank) (by exact hq) n
        have hm' : idle.message n = some m := hm
        rw [hkeyed, hkey, ← hleft, hgone, State.removes, ← hpath]
        simp only [messageKey, hcurrent']
        rw [show (s.updChan c fun x => { x with timer := none }) = idle from rfl, hm']
        rfl
      obtain ⟨hprompts', hlink', hattention'⟩ := gone.leaves_frame c
      have hmissing : left.missing = s.missing := State.missing_congr (hprompts'.trans hprompts)
      refine ⟨fun hpresent => ?_, fun r found kept hmiss hroom hchoice hq' => ?_⟩
      · have hlist : [pDeleted].dropWhile left.missing = [pDeleted] :=
          List.dropWhile_cons_of_neg (by rw [hmissing, hpresent]; exact Bool.false_ne_true)
        have htold : channelKey c key s = told := by
          rw [hdeleted, entered_plays (by rw [List.head?_cons, Option.any_some, hmissing, hpresent]; exact fun h => nomatch h)]
          exact if_neg (by rw [hlist]; exact List.cons_ne_nil _ _)
        rw [hpress, htold, hbusy]
        rw [(State.plays_frame c _ _).1, State.chan_withChan_same]
        exact fun h => nomatch h
      · have hfor : left.roomFor 0 := by
          rw [State.roomFor, hlink', hattention']
          exact hroomFor ⟨Nat.lt_succ_of_lt hq', fun _ => hq'⟩
        have hlist : [pDeleted].dropWhile left.missing = [] := List.dropWhile_cons_of_pos (by rw [hmissing]; exact hmiss)
        have htold : channelKey c key s = chooseNext c told := by
          rw [hdeleted, entered_plays (fun _ _ => hfor.1)]
          exact if_pos hlist
        have hstopped : told = (((left.withChan c { left.chan c with state := .announce }).misses [pDeleted]).stopped c) :=
          State.plays_stopped_of_nil (by exact hlist)
        have hfor' : told.roomFor 0 := by
          have hmisses : (left.withChan c { left.chan c with state := .announce }).misses [pDeleted] =
              (left.withChan c { left.chan c with state := .announce }).placed .promptMissing :=
            if_pos (by exact (congrFun hmissing pDeleted).trans hmiss)
          rw [hstopped, hmisses]
          exact State.roomFor.placed (s := left.withChan c { left.chan c with state := .announce }) hfor .promptMissing
        have hrecord : told.chan c = { left.chan c with state := .announce, playList := [] } := by
          rw [(State.plays_frame c _ _).1, State.chan_withChan_same]
          exact congrArg (fun l => ({ left.chan c with state := .announce, playList := l } : Channel)) hlist
        rw [hpress, htold, chooseNext_eq (.inr ⟨hfor', fun _ => .inl ?_⟩) ?_ hchoice]
        · rw [hrecord, State.leaves_chan, hchan]
          exact hroom
        · rw [hrecord, State.leaves_chan]
    case hash =>
      have hclosed : channelKey c key s = enterClosing c [pGoodbye] (leaveMessage c idle) := by
        rw [hkeyed, hkey]
        simp only [messageKey, hcurrent']
        rfl
      obtain ⟨hprompts, hlink, hattention⟩ := idle.leaves_frame c
      rw [hpress, hclosed, leaveMessage_eq (s := idle) (.inr (by exact hblank)),
        enterClosing_closesWith (s := idle.leaves c) (List.cons_ne_nil _ _)]
      refine hmay.imp (fun h id => ?_) fun h => ⟨?_, .inl ?_⟩
      · exact fun hnone => h id (hprompts ▸ hnone)
      · rw [State.roomFor, hlink]
        exact ⟨Nat.lt_succ_of_lt h, fun _ => h⟩
      · rw [State.leaves_chan]
    case reader =>
      have hchan : idle.chan c = { x with timer := none } := State.chan_withChan_same ..
      have hleft : leaveMessage c idle = (idle.updChan c fun x => { x with reading := false, current := none }).updMessage n
          fun m => { m with readers := m.readers - 1 } :=
        leaveMessage_kept (by rw [hchan]; exact hreading) (by rw [hchan]; exact hcurrent) (by exact hm) hkept
      obtain ⟨z, hz⟩ : ∃ z, z = leaveMessage c idle := ⟨_, rfl⟩
      have hrecord : z.chan c = { x with timer := none, reading := false, current := none } := by
        rw [hz, hleft, State.chan_updMessage, State.chan_updChan_same, hchan]
      have hplayable : z.playable pGoodbye := by
        have hprompts : z.store.prompts = s.store.prompts := by rw [hz, hleft]; rfl
        intro hnone
        rw [hprompts] at hnone
        exact absurd ((congrArg Option.isNone hnone).symm.trans hgoodbye) (by decide)
      have hclosed : channelKey c key s = State.starts c pGoodbye (z.withChan c { z.chan c with state := .closing, playList := [pGoodbye] }) := by
        rw [← enterClosing_eq hplayable, hkeyed, hkey, hz]
        simp only [messageKey, hcurrent']
        rfl
      rw [hclosed, hbusy (by rw [State.chan_starts, State.chan_withChan_same]; exact fun h => nomatch h), hrecord] at hpress
      refine ⟨_, hpress, ?_, ?_, State.starts_item _ c _⟩
      · have hset : z.withChan c = State.withChan { s with store := { s.store with messages := z.store.messages } } c := by
          funext y
          rw [hz, hleft]
          simp only [State.withChan, State.updMessage, State.updChan, idle, Vector.set_set]
        rw [hset]
        rfl
      · rw [State.message_starts, hz, hleft]
        have hread : State.message ((idle.updChan c fun x => { x with reading := false, current := none }).updMessage n
            fun m => { m with readers := m.readers - 1 }) n = some { m with readers := m.readers - 1 } := by
          rw [State.message_updMessage _ _ _ _ (by simp), if_pos rfl]
          exact congrArg (Option.map _) hm
        exact hread

end Sys2Proof.Machine
end


section
-- The proofs are elaborated one after another: the waiting threads would take the memory that the check allows.
set_option Elab.async false
/-! SUPPORT. The end of a speech frame and the limits of a recording (R73–R77, R84). -/

namespace Sys2Proof.Machine

/-! ## Stream frames -/

theorem packNibbles_length : ∀ l : List Nat, (packNibbles l).length = l.length / 2
  | [] => rfl
  | [_] => by simp [packNibbles]
  | a :: b :: l => by
    rw [packNibbles, List.length_cons, packNibbles_length l, List.length_cons, List.length_cons]
    omega

/-- A VOICE stream frame of 160 nibbles has 83 octets (R73). -/
theorem Encoder.voiceFrame_length {e : Encoder} (h : e.nibbles.length = 160) : e.voiceFrame.length = 83 := by
  have hvalue : (octetsInt16 e.start.p).length = 2 := rfl
  rw [Encoder.voiceFrame, List.cons_append, List.length_cons, List.length_append, packNibbles_length, h, hvalue]

/-- `z` when a stream frame is offered to the ring of channel `c`, and counted when it is `voice` VOICE frames (R75, R83). -/
def State.offered (c : ChannelIx) (voice : Nat) (z : State) (l : List Octet) : State :=
  let counted : Encoder := { z.encoder c with voiceFrames := (z.encoder c).voiceFrames + voice }
  if (z.ring c).ended = false ∧ l.length ≤ (z.ring c).room then
    raisePrograms c { z with rings := z.rings.set c (l.foldl Ring.add (z.ring c))
                             coder := { z.coder with encoders := z.coder.encoders.set c counted } }
  else z

theorem Ring.accepts_iff (g : Ring) (l : List Octet) : g.accepts l = true ↔ g.ended = false ∧ l.length ≤ g.room := by
  rw [Ring.accepts, Bool.and_eq_true, Bool.not_eq_true', decide_eq_true_eq]

theorem offerStream_voice (c : ChannelIx) (l : List Octet) (z : State) : offerStream c true l z = z.offered c 1 l := by
  have haccepts := (z.ring c).accepts_iff l
  rw [State.offered, offerStream]
  exact if_congr haccepts rfl rfl

theorem offerStream_silence (c : ChannelIx) (l : List Octet) (z : State) : offerStream c false l z = z.offered c 0 l := by
  have haccepts := (z.ring c).accepts_iff l
  have hencoders : z.coder.encoders.set c { z.encoder c with voiceFrames := (z.encoder c).voiceFrames + 0 } = z.coder.encoders :=
    Vector.set_getElem_self c.isLt
  rw [State.offered, offerStream, hencoders]
  exact if_congr haccepts rfl rfl

/-! ## The steps of a recording -/

theorem Encoder.frameDue_iff {e : Encoder} (h : e.state = .running) : e.frameDue = true ↔ 160 ≤ e.samples := by
  rw [Encoder.frameDue, h, decide_eq_true rfl, Bool.true_and, decide_eq_true_eq]
  rfl

theorem Encoder.lengthDue_iff {e : Encoder} (h : e.state = .running) : e.lengthDue = true ↔ e.lengthLimit ≤ e.frames := by
  rw [Encoder.lengthDue, h, decide_eq_true rfl, Bool.true_and, decide_eq_true_eq]

theorem Encoder.noVoiceDue_iff {e : Encoder} (h : e.state = .running) :
    e.noVoiceDue = true ↔ e.frames < e.lengthLimit ∧ e.noVoiceLimit ≠ 0 ∧ e.noVoiceLimit ≤ e.pendingSilence := by
  have hlength : e.lengthDue = false ↔ e.frames < e.lengthLimit := by
    rw [← Bool.not_eq_true, Encoder.lengthDue_iff h, Nat.not_le]
  rw [Encoder.noVoiceDue, h, decide_eq_true rfl, Bool.true_and, Bool.and_eq_true, Bool.not_eq_true', hlength, decide_eq_true_eq]

/-- With the encoder at rest, or the channel not recording, none of the three steps is due (R73, R76). -/
theorem recordingSteps_idle {c : ChannelIx} {s : State} (h : (s.chan c).state ≠ .record ∨ (s.encoder c).state ≠ .running) :
    speechFrameEnd c s = s ∧ maxLength c s = s ∧ noVoice c s = s := by
  have hidle (due : Bool) (hdue : due = true → (s.encoder c).state = .running) : ¬ ((s.chan c).state = .record ∧ due = true) :=
    fun ⟨hrecord, hd⟩ => h.elim (· hrecord) (· (hdue hd))
  refine ⟨if_neg (hidle _ fun hd => ?_), if_neg (hidle _ fun hd => ?_), if_neg (hidle _ fun hd => ?_)⟩
  · exact of_decide_eq_true (Bool.and_eq_true _ _ ▸ hd).1
  · exact of_decide_eq_true (Bool.and_eq_true _ _ ▸ hd).1
  · rw [Encoder.noVoiceDue, Bool.and_eq_true, Bool.and_eq_true] at hd
    exact of_decide_eq_true hd.1.1

theorem exec_recordingSteps {c : ChannelIx} {s : State} (hreset : s.resetLow = false) :
    exec (.speechFrameEnd c) s = .next (speechFrameEnd c s).drains ∧
      exec (.maxLengthReached c) s = .next (maxLength c s).drains ∧ exec (.noVoiceTimeout c) s = .next (noVoice c s).drains :=
  ⟨event_handed (f := fun s => drainTest (speechFrameEnd c s)) hreset (drainTest_eq _),
    event_handed (f := fun s => drainTest (maxLength c s)) hreset (drainTest_eq _),
    event_handed (f := fun s => drainTest (noVoice c s)) hreset (drainTest_eq _)⟩

theorem speechFrameEnd_silent {c : ChannelIx} {s : State} (hrecord : (s.chan c).state = .record)
    (hdue : (s.encoder c).frameDue = true) (hsilent : (s.encoder c).silent s.coder.threshold = true) :
    speechFrameEnd c s = s.updEncoder c Encoder.afterSilent := by
  rw [speechFrameEnd]
  exact (if_pos ⟨hrecord, hdue⟩).trans (if_pos hsilent)

/-- A VOICE frame's end: the pending silence is offered as runs, then the frame (R75). -/
theorem speechFrameEnd_voice {c : ChannelIx} {s : State} (hrecord : (s.chan c).state = .record)
    (hdue : (s.encoder c).frameDue = true) (hsilent : (s.encoder c).silent s.coder.threshold = false) :
    speechFrameEnd c s = State.offered c 1 ((silenceRuns (s.encoder c).pendingSilence).foldl (State.offered c 0)
      (s.updEncoder c Encoder.afterVoice)) (s.encoder c).voiceFrame := by
  have hruns : (fun z l => offerStream c false l z) = State.offered c 0 :=
    funext fun z => funext fun l => offerStream_silence c l z
  rw [speechFrameEnd]
  refine (if_pos ⟨hrecord, hdue⟩).trans ((if_neg (by rw [hsilent]; exact Bool.false_ne_true)).trans ?_)
  rw [← hruns]
  exact offerStream_voice ..

/-- Settles O43. -/
theorem speechFramesEnd : Obligations.SpeechFramesEnd := by
  refine ⟨fun c s hreset hrecord => ?_, fun c s hreset hidle i hi => ?_, fun c n m z hn h hq => raisePrograms_eq hn h hq⟩
  · intro e silent ended frame runs offered
    obtain ⟨hframe, hmax, hvoice⟩ := exec_recordingSteps (c := c) hreset
    have hbusy {z : State} (h : (z.chan c).state ≠ .free) : z.drains = z := State.drains_of_busy h
    have hrecording {z : State} (h : z.channels = s.channels) : z.drains = z :=
      hbusy (by rw [State.chan, h]; exact fun hfree => nomatch hrecord.symm.trans hfree)
    have hsilent : e.silent s.coder.threshold = true ↔ silent := decide_eq_true_iff
    refine ⟨fun hlen => Encoder.voiceFrame_length hlen, fun hshort => ?short, fun hlong hrunning hs => ?silent,
      fun hlong hrunning hs hpending htwo => ?two, fun hlong hrunning hs => ?voice, fun hrunning => ?limits⟩
    case short =>
      have hdue : e.frameDue = false := by
        rw [Encoder.frameDue, Config.frameSamples, decide_eq_false (Nat.not_le.mpr hshort), Bool.and_false]
      have hkeep : speechFrameEnd c s = s := if_neg fun h => absurd (h.2.symm.trans hdue) (by decide)
      rw [hframe, hkeep, hrecording (by rfl)]
    case silent =>
      rw [hframe, speechFrameEnd_silent hrecord ((Encoder.frameDue_iff hrunning).mpr hlong) (hsilent.mpr hs), hrecording (by rfl)]
      rfl
    case voice =>
      intro begun
      have hloud : e.silent s.coder.threshold = false := Bool.not_eq_true _ ▸ mt hsilent.mp hs
      rw [hframe, speechFrameEnd_voice hrecord ((Encoder.frameDue_iff hrunning).mpr hlong) hloud]
      rfl
    case two =>
      have hloud : e.silent s.coder.threshold = false := Bool.not_eq_true _ ▸ mt hsilent.mp hs
      have hnone : silenceRuns (s.encoder c).pendingSilence = [] := by
        rw [show (s.encoder c).pendingSilence = 0 from hpending]
        rfl
      have hend := speechFrameEnd_voice hrecord ((Encoder.frameDue_iff hrunning).mpr hlong) hloud
      rw [hnone, List.foldl_nil] at hend
      have hafter : e.afterVoice = ended e.quant := by rw [Encoder.afterVoice, ← hpending]; rfl
      refine ⟨fun hopen hroom => ?_, fun hshut => ?_⟩
      · have haccepted : speechFrameEnd c s = { s with
            rings := s.rings.set c (frame.foldl Ring.add (s.ring c))
            coder := { s.coder with encoders := s.coder.encoders.set c { ended e.quant with voiceFrames := e.voiceFrames + 1 } } } := by
          rw [hend, State.offered]
          refine (if_pos ⟨hopen, hroom⟩).trans ((raisePrograms_of_two ?_).trans ?_)
          · simp only [State.ring, Fin.getElem_fin, Vector.getElem_set_self]
            rw [Ring.addAll_outPrograms]
            exact htwo
          · have hcount : { (s.updEncoder c Encoder.afterVoice).encoder c with
                voiceFrames := ((s.updEncoder c Encoder.afterVoice).encoder c).voiceFrames + 1 } =
                { ended e.quant with voiceFrames := e.voiceFrames + 1 } := by
              rw [State.encoder_updEncoder_same, ← hafter]
              rfl
            rw [hcount]
            simp only [State.updEncoder, Vector.set_set]
            rfl
        rw [hframe, haccepted, hrecording (by rfl)]
      · have hrefused : speechFrameEnd c s = s.updEncoder c Encoder.afterVoice := by
          rw [hend, State.offered]
          refine if_neg fun h => ?_
          rcases hshut with hshut | hshut
          · exact absurd (h.1.symm.trans hshut) (by decide)
          · exact absurd h.2 (Nat.not_le.mpr hshut)
        rw [hframe, hrefused, hrecording (by rfl), ← hafter]
        rfl
    case limits =>
      intro ends voiced
      refine ⟨fun hlimit => ⟨?_, ?_⟩, fun hlimit => ⟨?_, fun hlate => ?_, fun hearly => ?_⟩, fun htwo hpages list => ?_⟩
      · rw [hmax, maxLength, if_pos ⟨hrecord, (Encoder.lengthDue_iff hrunning).mpr hlimit⟩]
        rfl
      · have hkeep : noVoice c s = s := if_neg fun h => absurd ((Encoder.noVoiceDue_iff hrunning).mp h.2).1 (Nat.not_lt.mpr hlimit)
        rw [hvoice, hkeep, hrecording (by rfl)]
      · have hkeep : maxLength c s = s := if_neg fun h => absurd ((Encoder.lengthDue_iff hrunning).mp h.2) (Nat.not_le.mpr hlimit)
        rw [hmax, hkeep, hrecording (by rfl)]
      · have hdue : e.noVoiceDue = true := by
          obtain ⟨hset, hreached⟩ := not_or.mp hlate
          exact (Encoder.noVoiceDue_iff hrunning).mpr ⟨hlimit, hset, Nat.le_of_not_lt hreached⟩
        rw [hvoice, noVoice, if_pos ⟨hrecord, hdue⟩]
        rfl
      · have hkeep : noVoice c s = s := if_neg fun h => by
          obtain ⟨-, hset, hreached⟩ := (Encoder.noVoiceDue_iff hrunning).mp h.2
          exact hearly.elim hset (Nat.not_lt.mpr hreached)
        rw [hvoice, hkeep, hrecording (by rfl)]
      · have hended : (s.endsRecording c list false).chan c = { s.chan c with
            state := .flush, playList := list, callerPresent := (s.chan c).callerPresent && !false } := State.chan_withChan_same ..
        have heq := recordingEnd_eq htwo hpages list false
        rw [show ends list = (recordingEnd c list false s).drains from rfl, heq]
        exact hbusy (by rw [hended]; exact fun h => nomatch h)
  · obtain ⟨hframe, hmax, hvoice⟩ := exec_recordingSteps (c := c) hreset
    obtain ⟨hframe', hmax', hvoice'⟩ := recordingSteps_idle hidle
    rw [hframe'] at hframe
    rw [hmax'] at hmax
    rw [hvoice'] at hvoice
    simp only [List.mem_cons, List.not_mem_nil, or_false] at hi
    rcases hi with rfl | rfl | rfl
    · exact hframe
    · exact hmax
    · exact hvoice

end Sys2Proof.Machine
end


section
-- The proofs are elaborated one after another: the waiting threads would take the memory that the check allows.
set_option Elab.async false
/-! SUPPORT. The arbiter's choice (R93, R96, R97): its sources in their order, and the cycles of an operation. -/

namespace Sys2Proof.Machine

/-! ## Cycles (R93) -/

theorem rowCycles_eq (page : Nat) : rowCycles page = rowAddress page := by
  have hlow (n : Nat) : BitVec.ofNat 8 n = BitVec.ofNat 8 (n % 256) :=
    BitVec.eq_of_toNat_eq (by simp only [BitVec.toNat_ofNat]; omega)
  rw [rowCycles, rowAddress, ← hlow, ← hlow, ← hlow]

theorem readCycles_eq (spare : Bool) (page : Nat) : readCycles spare page =
    [.command 0x00, .address 0, .address (if spare then 2 else 0)] ++ rowAddress page ++ [.command 0x30] := by
  rw [readCycles, rowCycles_eq]
  rfl

theorem programCycles_eq (spare : Bool) (page : Nat) (l : List Octet) : programCycles spare page l =
    [.command 0x80, .address 0, .address (if spare then 2 else 0)] ++ rowAddress page ++ l.map .write ++ [.command 0x10] := by
  rw [programCycles, rowCycles_eq]
  rfl

theorem eraseCycles_eq (b : Nat) : eraseCycles b = [.command 0x60] ++ rowAddress (b * 16) ++ [.command 0xD0] := by
  rw [eraseCycles, rowCycles_eq]

theorem issue_eq (op : FlashOp) (s : State) : issue op s = s.opIssued op op.cycles := rfl

theorem issueErase_cons {s : State} {b : Nat} {rest : List Nat} (h : s.store.dirty = b :: rest) :
    issueErase s = State.opIssued { s with store := { s.store with dirty := rest, erasing := some b } } (.erase b)
      ([.command 0x60] ++ rowAddress (b * 16) ++ [.command 0xD0]) := by
  rw [issueErase, h, ← eraseCycles_eq]
  rfl

/-! ## Source 2: reads, in the order of the round robin (R97) -/

/-- How many channels the round robin passes over before channel `c`. -/
abbrev pollDistance (p c : ChannelIx) : Nat := (c.val + 31 - p.val) % 32

theorem pollOrder_eq (p c : ChannelIx) : ∃ before after, pollOrder p = before ++ c :: after ∧
    ∀ c' ∈ before, pollDistance p c' < pollDistance p c := by
  have hp := p.isLt
  have hc := c.isLt
  have hlt : pollDistance p c < 32 := Nat.mod_lt _ (by decide)
  have hlength : (pollOrder p).length = 32 := by rw [pollOrder, List.length_map, List.length_range]
  have hat (i : Nat) (hi : i < (pollOrder p).length) : (pollOrder p)[i] = Fin.ofNat 32 (p.val + 1 + i) := by
    simp only [pollOrder, List.getElem_map, List.getElem_range]
  have hthere : (pollOrder p)[pollDistance p c]'(hlength ▸ hlt) = c := by
    rw [hat]
    refine Fin.ext ?_
    simp only [Fin.ofNat, pollDistance]
    omega
  refine ⟨(pollOrder p).take (pollDistance p c), (pollOrder p).drop (pollDistance p c + 1), ?_, fun c' hc' => ?_⟩
  · have hdrop := List.getElem_cons_drop (as := pollOrder p) (i := pollDistance p c) (hlength ▸ hlt)
    rw [hthere] at hdrop
    rw [hdrop, List.take_append_drop]
  · obtain ⟨i, hi, rfl⟩ := List.mem_take_iff_getElem.mp hc'
    have hi' : i < pollDistance p c := (Nat.lt_min.mp hi).1
    rw [hat]
    simp only [Fin.ofNat, pollDistance] at *
    omega

theorem Ring.reserved_none {g : Ring} (h : ∀ p ∈ g.items, p.status ≠ .reserved) : g.reserved = none := by
  rw [Ring.reserved, List.find?_eq_none.mpr fun p hp => by simpa using h p hp]
  rfl

theorem Ring.reserved_some {g : Ring} {k : Nat} {before after : List ItemPage}
    (hitems : g.items = before ++ { index := k, status := .reserved } :: after) (h : ∀ p ∈ before, p.status ≠ .reserved) :
    g.reserved = some k := by
  have hbefore : before.find? (·.status = .reserved) = none := List.find?_eq_none.mpr fun p hp => by simpa using h p hp
  rw [Ring.reserved, hitems, List.find?_append, hbefore, List.find?_cons_of_pos (by exact decide_eq_true rfl)]
  rfl

theorem State.readChoice_none {s : State} (h : ∀ c, ∀ p ∈ (s.ring c).items, p.status ≠ .reserved) : s.readChoice = none :=
  List.findSome?_eq_none_iff.mpr fun c _ => by rw [Ring.reserved_none (h c)]; rfl

theorem State.readChoice_some {s : State} {c : ChannelIx} {k : Nat} (hc : (s.ring c).reserved = some k)
    (h : ∀ c', pollDistance s.port.pointer c' < pollDistance s.port.pointer c → (s.ring c').reserved = none) :
    s.readChoice = some (c, k) := by
  obtain ⟨before, after, horder, hbefore⟩ := pollOrder_eq s.port.pointer c
  have hnone : before.findSome? (fun c => (s.ring c).reserved.map fun k => (c, k)) = none :=
    List.findSome?_eq_none_iff.mpr fun c' hc' => by rw [h c' (hbefore c' hc')]; rfl
  rw [State.readChoice, horder, List.findSome?_append, hnone, Option.none_or, List.findSome?_cons, hc]
  rfl

/-! ## Source 3: the oldest program request (R84) -/

/-- The request of lowest age is the one that the fold keeps. -/
theorem foldl_older {q : ProgramRequest} {l : List ProgramRequest} (h : ∀ x ∈ l, x = q ∨ q.age < x.age)
    (acc : Option ProgramRequest) (hacc : ∀ x, acc = some x → x = q ∨ q.age < x.age) (hq : acc = some q ∨ q ∈ l) :
    l.foldl older acc = some q := by
  induction l generalizing acc with
  | nil => exact hq.elim id fun h => nomatch h
  | cons y l ih =>
    rw [List.foldl_cons]
    have hy := h y (List.mem_cons_self ..)
    have hrest := fun x hx => h x (List.mem_cons_of_mem _ hx)
    have hmem (hql : q ∈ y :: l) : y = q ∨ q ∈ l := (List.mem_cons.mp hql).imp_left Eq.symm
    cases acc with
    | none =>
      refine ih hrest (some y) (fun x hx => Option.some.inj hx ▸ hy) ?_
      exact hq.elim (fun h => nomatch h) fun hql => (hmem hql).imp_left (congrArg some)
    | some x =>
      have hx := hacc x rfl
      by_cases hage : x.age ≤ y.age
      · have hkeep : older (some x) y = some x := if_pos hage
        rw [hkeep]
        refine ih hrest (some x) hacc ?_
        rcases hq with hq | hq
        · exact .inl hq
        rcases hmem hq with rfl | hq
        · exact .inl (congrArg some (hx.resolve_right (Nat.not_lt.mpr hage)))
        · exact .inr hq
      · have htake : older (some x) y = some y := if_neg hage
        rw [htake]
        refine ih hrest (some y) (fun z hz => Option.some.inj hz ▸ hy) ?_
        rcases hq with hq | hq
        · obtain rfl := Option.some.inj hq
          exact .inl (congrArg some (hy.resolve_right fun hlt => hage (Nat.le_of_lt hlt)))
        · exact (hmem hq).imp_left (congrArg some)

theorem Ring.mem_requests {g : Ring} {c : ChannelIx} {q : ProgramRequest} : q ∈ g.requests c ↔
    q.channel = c ∧ ∃ p ∈ g.recorded, p.status = .requested q.block q.page q.age ∧ q.data = p.data := by
  rw [Ring.requests, List.mem_filterMap]
  constructor
  · rintro ⟨p, hp, hq⟩
    cases hstatus : p.status with
    | requested b f a =>
      rw [hstatus] at hq
      obtain rfl := Option.some.inj hq
      exact ⟨rfl, p, hp, hstatus, rfl⟩
    | filling | full | programming =>
      rw [hstatus] at hq
      exact nomatch hq
  · rintro ⟨rfl, p, hp, hstatus, hdata⟩
    refine ⟨p, hp, ?_⟩
    rw [hstatus, ← hdata]

theorem State.mem_programRequests {s : State} {q : ProgramRequest} :
    q ∈ (channelIndices.flatMap fun c => (s.ring c).requests c) ↔
      ∃ p ∈ (s.ring q.channel).recorded, p.status = .requested q.block q.page q.age ∧ q.data = p.data := by
  rw [List.mem_flatMap]
  constructor
  · rintro ⟨c, -, hq⟩
    obtain ⟨rfl, hq⟩ := Ring.mem_requests.mp hq
    exact hq
  · exact fun hq => ⟨q.channel, List.mem_finRange _, Ring.mem_requests.mpr ⟨rfl, hq⟩⟩

theorem State.programChoice_none {s : State}
    (h : ∀ c, ∀ p ∈ (s.ring c).recorded, ∀ b g a, p.status ≠ .requested b g a) : s.programChoice = none := by
  have hnone : (channelIndices.flatMap fun c => (s.ring c).requests c) = [] :=
    List.eq_nil_iff_forall_not_mem.mpr fun q hq => by
      obtain ⟨p, hp, hstatus, -⟩ := State.mem_programRequests.mp hq
      exact h q.channel p hp _ _ _ hstatus
  rw [State.programChoice, hnone]
  rfl

theorem State.programChoice_some {s : State} {c : ChannelIx} {p : RecPage} {b g a : Nat} (hp : p ∈ (s.ring c).recorded)
    (hstatus : p.status = .requested b g a)
    (holdest : ∀ c', ∀ p' ∈ (s.ring c').recorded, ∀ b' g' a', p'.status = .requested b' g' a' → c' = c ∧ p' = p ∨ a < a') :
    s.programChoice = some ⟨c, b, g, a, p.data⟩ := by
  refine foldl_older (fun q hq => ?_) none (fun _ h => nomatch h) (.inr (State.mem_programRequests.mpr ⟨p, hp, hstatus, rfl⟩))
  obtain ⟨p', hp', hstatus', hdata⟩ := State.mem_programRequests.mp hq
  rcases holdest q.channel p' hp' _ _ _ hstatus' with ⟨hc, rfl⟩ | hlt
  · left
    obtain ⟨rfl, rfl, rfl⟩ := RecStatus.requested.inj (hstatus.symm.trans hstatus')
    cases q
    simp_all
  · exact .inr hlt

/-! ## The choice (R96) -/

theorem arbiterChoice_busy {s : State} (h : s.port.state ≠ .idle) : arbiterChoice s = s := if_pos h

theorem arbiterChoice_urgent {s : State} (hidle : s.port.state = .idle) (h : s.store.free.length < 16 ∧ s.store.dirty ≠ []) :
    arbiterChoice s = issueErase s :=
  (if_neg (not_not_intro hidle)).trans (if_pos h)

theorem arbiterChoice_read {s : State} {c : ChannelIx} {k : Nat} (hidle : s.port.state = .idle)
    (hurgent : ¬ (s.store.free.length < 16 ∧ s.store.dirty ≠ [])) (h : s.readChoice = some (c, k)) :
    arbiterChoice s = issueRead c k s := by
  rw [arbiterChoice, if_neg (not_not_intro hidle), Config.urgentFree, if_neg hurgent, h]

theorem arbiterChoice_program {s : State} {q : ProgramRequest} (hidle : s.port.state = .idle)
    (hurgent : ¬ (s.store.free.length < 16 ∧ s.store.dirty ≠ [])) (hread : s.readChoice = none) (h : s.programChoice = some q) :
    arbiterChoice s = issueProgram q s := by
  rw [arbiterChoice, if_neg (not_not_intro hidle), Config.urgentFree, if_neg hurgent, hread, h]

theorem arbiterChoice_upkeep {s : State} (hidle : s.port.state = .idle)
    (hurgent : ¬ (s.store.free.length < 16 ∧ s.store.dirty ≠ [])) (hread : s.readChoice = none) (h : s.programChoice = none) :
    arbiterChoice s = chooseUpkeep s := by
  rw [arbiterChoice, if_neg (not_not_intro hidle), Config.urgentFree, if_neg hurgent, hread, h]

/-! ## Sources 4 to 6 (R96) -/

theorem chooseUpkeep_mark {s : State} {n h : Nat} {k : MarkKind} {rest : List (Nat × MarkKind)} {m : Message}
    (hmarks : s.store.marks = (n, k) :: rest) (hm : s.message n = some m) (hhead : m.head = some h) :
    let page := h * 16 + (if k = .heard then 14 else 15)
    chooseUpkeep s = State.opIssued { s with store := { s.store with marks := rest, marking := some (n, k) } }
      (.mark page (markSpare k n))
      ([.command 0x80, .address 0, .address 2] ++ rowAddress page ++ (markSpare k n).map .write ++ [.command 0x10]) := by
  intro page
  have hpage : s.markPage n k = page := by
    have hblock : ((s.message n).bind (·.head)).getD 0 = h := by rw [hm, Option.bind_some, hhead, Option.getD_some]
    unfold State.markPage
    rw [hblock]
    cases k <;> rfl
  have hcycles := programCycles_eq true page (markSpare k n)
  rw [chooseUpkeep, if_pos (by rw [hmarks]; exact List.cons_ne_nil _ _), issueMark, hmarks]
  dsimp only
  rw [hpage, issue_eq]
  exact congrArg _ hcycles

theorem chooseUpkeep_job {s : State} {op : FlashOp} (hmarks : s.store.marks = []) (hjob : s.maintenanceChoice = some op) :
    chooseUpkeep s = s.opIssued op op.cycles := by
  rw [chooseUpkeep, if_neg (not_not_intro hmarks), hjob]
  rfl

theorem chooseUpkeep_erase {s : State} (hmarks : s.store.marks = []) (hjob : s.maintenanceChoice = none) :
    chooseUpkeep s = issueErase s := by
  rw [chooseUpkeep, if_neg (not_not_intro hmarks), hjob]

/-- The service states in which a maintenance job goes on (R96). -/
theorem State.maintenanceChoice_may {s : State} (h : s.service = .setup ∨ s.service = .mounting ∨ s.service = .suspended) :
    ¬ (s.service ≠ .setup ∧ s.service ≠ .mounting ∧ s.service ≠ .suspended) :=
  fun ⟨hsetup, hmounting, hsuspended⟩ => h.elim hsetup fun h => h.elim hmounting hsuspended

/-! ## O48 -/

theorem issueProgram_eq {s : State} {c : ChannelIx} {p : RecPage} {b g a : Nat} {m : Message}
    (hcurrent : (s.chan c).current = some m.serial) (hm : s.message m.serial = some m) :
    let spare :=
      if g ≠ 0 then List.replicate 16 0xFF
      else if passedBefore b m.blocks = 0 then headSpare m else contSpare m.serial (passedBefore b m.blocks)
    issueProgram ⟨c, b, g, a, p.data⟩ s = State.opIssued { s with
        rings := s.rings.set c { s.ring c with
          recorded := (s.ring c).recorded.map fun q =>
            if q.status = .requested b g a then { q with status := .programming b g a } else q } }
      (.ringProgram c m.serial b g (decide (g = 0 ∧ passedBefore b m.blocks = 0)) p.data spare)
      ([.command 0x80, .address 0, .address 0] ++ rowAddress (b * 16 + g) ++ (p.data ++ spare).map .write ++ [.command 0x10]) := by
  intro spare
  have hspare : m.spareFor b g = spare := by
    rw [Message.spareFor, Message.headAt]
    simp only [decide_eq_true_eq]
    rfl
  have hhead : (decide (g = 0) && m.headAt b) = decide (g = 0 ∧ passedBefore b m.blocks = 0) := by
    rw [Message.headAt, Bool.decide_and]
  have hcycles := programCycles_eq false (b * 16 + g) (p.data ++ spare)
  rw [issueProgram]
  simp only [hcurrent, Option.getD_some, hm, Option.elim_some, hspare, hhead]
  rw [issue_eq]
  exact congrArg _ hcycles

/-- Settles O48. -/
theorem arbiterSources : Obligations.ArbiterSources := by
  intro s hreset idle urgent noRead noProgram distance erased reads writes
  have hexec : exec .arbiterChoice s = .next (arbiterChoice s) := event_taken hreset
  have herased {b : Nat} {rest : List Nat} (h : s.store.dirty = b :: rest) : issueErase s = erased b rest := issueErase_cons h
  rw [hexec]
  refine ⟨fun hbusy => ?busy, fun b rest hidle hurgent hdirty => ?urgent,
    fun c k before after hidle hurgent hitems hbefore hothers => ?read,
    fun c p b g a m hidle hurgent hread hp hstatus holdest hcurrent hm => ?program,
    fun n k rest m h hidle hurgent hread hprogram hmarks hm hhead => ?mark, fun hidle hurgent hread hprogram hmarks => ?upkeep⟩
  case busy => rw [arbiterChoice_busy hbusy]
  case urgent => rw [arbiterChoice_urgent hidle hurgent, herased hdirty]
  case read =>
    intro page
    have hchoice : s.readChoice = some (c, k) :=
      State.readChoice_some (Ring.reserved_some hitems hbefore) fun c' hc' => Ring.reserved_none (hothers c' hc')
    rw [arbiterChoice_read hidle hurgent hchoice, issueRead, issue_eq]
    exact congrArg (fun l => Host.Outcome.next (State.opIssued _ (.ringRead c k page) l)) (readCycles_eq false page)
  case program =>
    intro spare
    rw [arbiterChoice_program hidle hurgent (State.readChoice_none hread) (State.programChoice_some hp hstatus holdest),
      issueProgram_eq hcurrent hm]
  case mark =>
    intro page
    rw [arbiterChoice_upkeep hidle hurgent (State.readChoice_none hread) (State.programChoice_none hprogram),
      chooseUpkeep_mark hmarks hm hhead]
  case upkeep =>
    intro may
    rw [arbiterChoice_upkeep hidle hurgent (State.readChoice_none hread) (State.programChoice_none hprogram)]
    have hissued {op : FlashOp} {l : List FlashCycle} (hjob : s.maintenanceChoice = some op) (hl : op.cycles = l) :
        (Host.Outcome.next (chooseUpkeep s) : Host.Outcome State Fault Refusal) = .next (s.opIssued op l) := by
      rw [chooseUpkeep_job hmarks hjob, hl]
    refine ⟨fun hmay next failed l hjob => ?_, fun hmay page hjob => ?_, fun hmay page hjob => ?_, fun hmay page blank hjob => ?_,
      fun hmay m hjob => ⟨fun hfirst => ?_, fun h rest hsecond htodo => ?_⟩, fun hnone => ?_⟩
    · exact hissued (by rw [State.maintenanceChoice, if_neg (State.maintenanceChoice_may hmay), hjob]) (eraseCycles_eq next)
    · exact hissued (by rw [State.maintenanceChoice, if_neg (State.maintenanceChoice_may hmay), hjob]; rfl) (programCycles_eq false page _)
    · refine hissued ?_ (readCycles_eq false page)
      rw [State.maintenanceChoice, if_neg (State.maintenanceChoice_may hmay)]
      rcases hjob with hjob | hjob <;> rw [hjob]
    · exact hissued (by rw [State.maintenanceChoice, if_neg (State.maintenanceChoice_may hmay), hjob]) (readCycles_eq true page)
    · intro page
      refine hissued ?_ (readCycles_eq true page)
      rw [State.maintenanceChoice, if_neg (State.maintenanceChoice_may hmay), hjob]
      exact if_pos hfirst
    · intro page
      refine hissued ?_ (readCycles_eq true page)
      rw [State.maintenanceChoice, if_neg (State.maintenanceChoice_may hmay), hjob]
      refine (if_neg (Nat.not_lt.mpr hsecond)).trans ?_
      rw [htodo]
      rfl
    · have hchoice : s.maintenanceChoice = none := by
        rw [State.maintenanceChoice]
        split
        · rfl
        case isFalse hmay =>
          rw [hnone.resolve_left fun hnot => hmay ⟨fun h => hnot (.inl h), fun h => hnot (.inr (.inl h)), fun h => hnot (.inr (.inr h))⟩]
      rw [chooseUpkeep_erase hmarks hchoice]
      refine ⟨fun hclean => ?_, fun b rest hdirty => by rw [herased hdirty]⟩
      rw [issueErase, hclean]

end Sys2Proof.Machine
end


section
-- The proofs are elaborated one after another: the waiting threads would take the memory that the check allows.
set_option Elab.async false
/-! SUPPORT. The completions of ring operations (R85–R92, R106–R108). -/

namespace Sys2Proof.Machine

/-! ## A recording's stream and its message -/

/-- `z` with the ring of channel `c` and the records of message `n` replaced. -/
def State.streamed (c : ChannelIx) (n : Nat) (f : Message → Message) (g : Ring) (z : State) : State :=
  { z with rings := z.rings.set c g
           store := { z.store with messages := z.store.messages.map fun m => if m.serial = n then f m else m } }

/-- A message whose page `p` of block `b` has passed (R106). -/
def Message.passed (b p : Nat) (head : Bool) (m : Message) : Message :=
  { m with blocks := m.blocks.map fun e => if e.block = b then { e with valid := p + 1 } else e
           head := if p = 0 ∧ head = true then some b else m.head }

/-- A message whose block `b` is to be retired (R106). -/
def Message.retired (b : Nat) (m : Message) : Message :=
  { m with blocks := m.blocks.map fun e => if e.block = b then { e with retire := true } else e }

theorem State.streamed_marks {z : State} (h : z.marksBlank) (c : ChannelIx) (n : Nat) {f : Message → Message}
    (hf : ∀ m, (f m).blank14 = m.blank14 ∧ (f m).blank15 = m.blank15) (g : Ring) : (z.streamed c n f g).marksBlank := by
  intro x hx
  obtain ⟨m, hm, rfl⟩ := List.mem_map.mp hx
  have hblank := h m hm
  split
  · rw [(hf m).1, (hf m).2]
    exact hblank
  · exact hblank

theorem State.ring_streamed (c : ChannelIx) (n : Nat) (f : Message → Message) (g : Ring) (z : State) :
    (z.streamed c n f g).ring c = g := by
  simp only [State.streamed, State.ring, Fin.getElem_fin, Vector.getElem_set_self]

theorem State.message_streamed {z : State} {n : Nat} {m : Message} (hm : z.message n = some m) (c : ChannelIx)
    {f : Message → Message} (hf : ∀ m, (f m).serial = m.serial) (g : Ring) : (z.streamed c n f g).message n = some (f m) := by
  rw [State.message_mapped (t := z.streamed c n f g) hf rfl, if_pos rfl, hm]
  rfl

theorem pageProgrammed_streamed (c : ChannelIx) (n b p : Nat) (head : Bool) (z : State) :
    pageProgrammed c (pagePassed n b p head z) =
      z.streamed c n (Message.passed b p head) { z.ring c with recorded := (z.ring c).recorded.filter (!·.isProgramming) } := rfl

/-! ## Requests when no page is FULL -/

theorem Ring.programDue_false {g : Ring} (h : ∀ q ∈ g.recorded, q.status ≠ .full) : g.programDue = false := by
  have hzero : g.recorded.countP (fun p => decide (p.status = .full)) = 0 :=
    List.countP_eq_zero.mpr fun q hq => by simpa using h q hq
  rw [← Bool.not_eq_true, Ring.programDue_iff, hzero]
  rintro (⟨-, h⟩ | ⟨-, h⟩)
  · omega
  · split at h <;> omega

theorem raisePrograms_idle {c : ChannelIx} {z : State} (h : ∀ q ∈ (z.ring c).recorded, q.status ≠ .full) :
    raisePrograms c z = z := by
  have hnone : raiseProgram c z = z := by
    rw [raiseProgram, Ring.programDue_false h]
    rfl
  rw [raisePrograms, hnone, hnone]

theorem flushTest_idle {c : ChannelIx} {z : State} (h : (z.chan c).state ≠ .flush ∨ (z.ring c).recorded ≠ []) :
    flushTest c z = z := if_neg fun hdue => h.elim (· hdue.1) (· hdue.2.2)

/-! ## The programs of a recording that goes on (R85, R106, R107) -/

theorem State.programLeft_false {s : State} {c : ChannelIx} (hexhausted : (s.ring c).exhausted = false)
    (hheld : .program ∉ (s.ring c).held) : s.programLeft c = false := by
  have hcontains : (s.ring c).held.contains .program = false := by simpa using hheld
  rw [State.programLeft, State.programHeld, hcontains, hexhausted]
  rfl

theorem State.programLeft_true {s : State} {c : ChannelIx} (h : (s.ring c).exhausted = true ∨ .program ∈ (s.ring c).held) :
    s.programLeft c = true := by
  rw [State.programLeft, State.programHeld, Bool.or_eq_true, List.contains_iff_mem]
  exact h.symm

section
variable {s : State} {c : ChannelIx} {n b p : Nat} {head : Bool} {data spare : List Octet}
  (hop : s.port.op = some (.ringProgram c n b p head data spare))
include hop

theorem takeProgram_going (hleft : s.programLeft c = false) (ok : Bool) :
    takeProgram ok s = (programDone ok c n b p head (s.opEnded ok [])).drains := by
  simp only [takeProgram, hop, hleft, Bool.false_eq_true, if_false]
  exact drainTest_eq _

theorem takeProgram_left (hleft : s.programLeft c = true) (ok : Bool) : takeProgram ok s = s := by
  simp only [takeProgram, hop, hleft, if_true]

theorem takeHeldProgram_going (hleft : s.programLeft c = false) (ok : Bool) : takeHeldProgram ok s = s := by
  simp only [takeHeldProgram, hop, hleft, Bool.false_eq_true, if_false]

theorem takeHeldProgram_left (hleft : s.programLeft c = true) (ok : Bool) :
    takeHeldProgram ok s = (heldProgramDone ok c n b p head (s.opEnded ok [])).drains := by
  simp only [takeHeldProgram, hop, hleft, if_true]
  exact drainTest_eq _

end

theorem programDone_passed (c : ChannelIx) (n b p : Nat) (head : Bool) (z : State) :
    programDone true c n b p head z = flushTest c (raisePrograms c (z.streamed c n (Message.passed b p head)
      { z.ring c with recorded := (z.ring c).recorded.filter (!·.isProgramming) })) := by
  rw [programDone, if_pos rfl, programPassed, pageProgrammed_streamed]

theorem blockRetired_eq {z : State} (hq : z.link.queue.length < 64) (n b : Nat) :
    blockRetired n b z = (z.updMessage n (Message.retired b)).placed .flashFault := place_eq_placed (by exact hq) _

theorem updMessage_of_none {z : State} {n : Nat} (h : z.message n = none) (f : Message → Message) : z.updMessage n f = z := by
  have hgone : ∀ x ∈ z.store.messages, x.serial ≠ n := fun x hx => by simpa using List.find?_eq_none.mp h x hx
  have hmessages : (z.store.messages.map fun m => if m.serial = n then f m else m) = z.store.messages :=
    (List.map_congr_left fun x hx => if_neg (hgone x hx)).trans (List.map_id _)
  rw [State.updMessage, hmessages]

/-- A failed program whose message has no record (R106). -/
theorem programDone_gone {z : State} {n : Nat} (hm : z.message n = none) (hq : z.link.queue.length < 64) (c : ChannelIx)
    (b p : Nat) (head : Bool) : programDone false c n b p head z = z.placed .flashFault := by
  rw [programDone, if_neg (by decide), blockRetired_eq hq, updMessage_of_none hm, retryProgram,
    show (z.placed .flashFault).message n = none from hm]

theorem blockAfter_split {b : Nat} {l l' : List BlockEntry} {e : BlockEntry} (he : e.block = b) (hl : ∀ x ∈ l, x.block ≠ b) :
    blockAfter b (l ++ e :: l') = (l'.head?).map (·.block) := by
  induction l with
  | nil => exact if_pos he
  | cons x l ih =>
    rw [List.cons_append, blockAfter, if_neg (hl x (List.mem_cons_self ..))]
    exact ih fun y hy => hl y (List.mem_cons_of_mem _ hy)

theorem Message.blockAfter_retired {m : Message} {b : Nat} {l l' : List BlockEntry} {e : BlockEntry} (hm : m.blocks = l ++ e :: l')
    (he : e.block = b) (hl : ∀ x ∈ l, x.block ≠ b) : blockAfter b (m.retired b).blocks = (l'.head?).map (·.block) := by
  have hblock (x : BlockEntry) : (if x.block = b then { x with retire := true } else x).block = x.block := by split <;> rfl
  rw [Message.retired, hm, List.map_append, List.map_cons, blockAfter_split ((hblock e).trans he) fun x hx => ?_]
  · rw [List.head?_map, Option.map_map]
    exact congrArg (Option.map · _) (funext hblock)
  · obtain ⟨y, hy, rfl⟩ := List.mem_map.mp hx
    rw [hblock]
    exact hl y hy

/-- The pages of a failed program given again in block `f` (R106). -/
def Message.given (b k : Nat) (m : Message) : Message := { m.retired b with written := k }

theorem continueIn_placed (c : ChannelIx) (n f : Nat) (z : State) (k : Attention) :
    continueIn c n f (z.placed k) = (continueIn c n f z).placed k := rfl

theorem continueIn_lowTested (c : ChannelIx) (n f : Nat) (z : State) :
    continueIn c n f z.lowTested = (continueIn c n f z).lowTested := by
  by_cases h : z.store.low
  · have h' : (continueIn c n f z).store.low := h
    rw [State.lowTested, State.lowTested, if_pos h, if_pos h']
    rfl
  · have h' : ¬ (continueIn c n f z).store.low := h
    rw [State.lowTested, State.lowTested, if_neg h, if_neg h']

theorem continueIn_streamed (c : ChannelIx) (n f : Nat) (z : State) {h : Message → Message} (hh : ∀ m, (h m).serial = m.serial) :
    continueIn c n f (z.updMessage n h) =
      z.streamed c n (fun m => { h m with written := (z.ring c).recorded.countP RecPage.inProgram })
        { z.ring c with recorded := regive f 0 (z.ring c).recorded } := by
  simp only [continueIn, State.updRing, State.updMessage, State.streamed, List.map_map]
  congr 3
  funext x
  by_cases hx : x.serial = n
  · simp only [Function.comp_apply, hx, if_true, hh]
    rfl
  · simp only [Function.comp_apply, hx, if_false]

theorem State.message_retired {z : State} {n : Nat} {m : Message} (hm : z.message n = some m) (b : Nat) :
    ((z.updMessage n (Message.retired b)).placed .flashFault).message n = some (m.retired b) := by
  have hmessage := State.message_mapped (s := z) (t := (z.updMessage n (Message.retired b)).placed .flashFault) (k := n)
    (f := Message.retired b) (fun _ => rfl) rfl
  rw [hmessage, if_pos rfl, hm]
  rfl

/-- A failed page goes on in the later block of the list (R106). -/
theorem programDone_later {z : State} {n b f : Nat} {m : Message} (hm : z.message n = some m) (hq : z.link.queue.length < 64)
    (hafter : blockAfter b (m.retired b).blocks = some f) (c : ChannelIx) (p : Nat) (head : Bool) :
    programDone false c n b p head z =
      (z.streamed c n (Message.given b ((z.ring c).recorded.countP RecPage.inProgram))
        { z.ring c with recorded := regive f 0 (z.ring c).recorded }).placed .flashFault := by
  rw [programDone, if_neg (by decide), blockRetired_eq hq, retryProgram, State.message_retired hm]
  simp only [hafter]
  rw [continueIn_placed, continueIn_streamed c n f z (h := Message.retired b) (fun _ => rfl)]
  rfl

/-- A failed page is given a fresh block (R106). -/
theorem programDone_fresh {z : State} {n b f : Nat} {rest : List Nat} {m : Message} (hm : z.message n = some m)
    (hq : z.link.queue.length < 62) (hafter : blockAfter b (m.retired b).blocks = none) (hblocks : m.blocks.length < 320)
    (hfree : z.store.free = f :: rest) (c : ChannelIx) (p : Nat) (head : Bool) :
    let y := (z.streamed c n (fun m => { m.given b ((z.ring c).recorded.countP RecPage.inProgram) with
        blocks := (m.retired b).blocks ++ [{ block := f, valid := 0, retire := false }] })
      { z.ring c with recorded := regive f 0 (z.ring c).recorded }).placed .flashFault
    programDone false c n b p head z = State.lowTested { y with store := { y.store with free := rest } } := by
  intro y
  have hcan : ((z.updMessage n (Message.retired b)).placed .flashFault).canAllocate (m.retired b) = true := by
    rw [canAllocate_iff]
    refine ⟨by rw [Message.retired, List.length_map]; exact hblocks, ?_⟩
    exact (congrArg (· ≠ []) hfree).mpr (List.cons_ne_nil _ _)
  have hlength : ((z.updMessage n (Message.retired b)).placed .flashFault).link.queue.length < 64 :=
    Nat.lt_of_le_of_lt (State.placed_length _ _) (by exact Nat.lt_of_lt_of_le (Nat.succ_lt_succ hq) (by decide))
  have hhead : ((z.updMessage n (Message.retired b)).placed .flashFault).store.free = f :: rest := hfree
  let added (m : Message) : Message :=
    { m.retired b with blocks := (m.retired b).blocks ++ [{ block := f, valid := 0, retire := false }], written := 1 }
  have hallocated : allocate n 1 ((z.updMessage n (Message.retired b)).placed .flashFault) = State.lowTested
      (State.placed (State.updMessage { z with store := { z.store with free := rest } } n added) .flashFault) := by
    rw [allocate_eq hhead n 1 hlength]
    have hmap : (((z.updMessage n (Message.retired b)).placed .flashFault).store.messages.map fun m => if m.serial = n then
        { m with blocks := m.blocks ++ [{ block := f, valid := 0, retire := false }], written := 1 } else m) =
        z.store.messages.map fun m => if m.serial = n then added m else m := by
      refine List.map_map.trans (List.map_congr_left fun x _ => ?_)
      by_cases hx : x.serial = n
      · have hx' : (Message.retired b x).serial = n := hx
        rw [Function.comp_apply, if_pos hx, if_pos hx', if_pos hx]
      · simp only [Function.comp_apply, hx, if_false]
    rw [hmap]
    rfl
  rw [programDone, if_neg (by decide), blockRetired_eq (Nat.lt_of_lt_of_le hq (by decide)), retryProgram, State.message_retired hm]
  simp only [hafter, hcan, if_true, hhead, List.headD_cons]
  rw [hallocated, continueIn_lowTested, continueIn_placed, continueIn_streamed c n f _ (h := added) (fun _ => rfl)]
  rfl

/-- What the exhaustion of a recording leaves depends on the ring only by its pages in the course of programming. -/
theorem State.exhausts_ring {z : State} {c : ChannelIx} {g g' : Ring}
    (h : ({ g with recorded := g.recorded.filter (·.isProgramming), ended := true, exhausted := true } : Ring) =
      { g' with recorded := g'.recorded.filter (·.isProgramming), ended := true, exhausted := true }) :
    State.exhausts c { z with rings := z.rings.set c g } = State.exhausts c { z with rings := z.rings.set c g' } := by
  have hring (g : Ring) : ({ z with rings := z.rings.set c g } : State).ring c = g := by
    simp only [State.ring, Fin.getElem_fin, Vector.getElem_set_self]
  have hset (g g' : Ring) : ({ z with rings := z.rings.set c g } : State).rings.set c g' = z.rings.set c g' := by
    simp only [Vector.set_set]
  have hchan (g : Ring) : ({ z with rings := z.rings.set c g } : State).chan c = z.chan c := rfl
  have hencoder (g : Ring) : ({ z with rings := z.rings.set c g } : State).encoder c = z.encoder c := rfl
  simp only [State.exhausts, hring, hset, hchan, hencoder, h]
  split <;> split <;> rfl

/-- A failed page for which no block can be given exhausts the recording (R107). -/
theorem programDone_exhausted {z : State} {n b : Nat} {m : Message} (hm : z.message n = some m)
    (hq : z.link.queue.length < 62) (hafter : blockAfter b (m.retired b).blocks = none) (hnone : ¬ z.hasBlock m)
    (hp : z.prompted) (hb : z.marksBlank) {c : ChannelIx} (hreading : (z.chan c).reading = false)
    (hlist : (z.chan c).callerPresent = true → (z.chan c).state = .record ∨ (z.chan c).playList ≠ []) (p : Nat) (head : Bool) :
    programDone false c n b p head z = ((((z.streamed c n (Message.retired b) { z.ring c with recorded := [] }).placed
      .flashFault).exhausts c).flushTests c) := by
  obtain ⟨y, hy⟩ : ∃ y, y = (z.updMessage n (Message.retired b)).placed .flashFault := ⟨_, rfl⟩
  have hcan : y.canAllocate (m.retired b) = false := by
    rw [← Bool.not_eq_true, canAllocate_iff, hy]
    intro h
    refine hnone ⟨?_, h.2⟩
    have := h.1
    rwa [Message.retired, List.length_map] at this
  have hlength : y.link.queue.length < 63 := by
    rw [hy]
    exact Nat.lt_of_le_of_lt (State.placed_length _ _) (by exact Nat.succ_lt_succ hq)
  have hmarks : y.marksBlank := by
    have hstreamed := State.streamed_marks hb c n (f := Message.retired b) (fun _ => ⟨rfl, rfl⟩) (z.ring c)
    rw [hy]
    exact hstreamed
  rw [programDone, if_neg (by decide), blockRetired_eq (Nat.lt_of_lt_of_le hq (by decide)), retryProgram, State.message_retired hm,
    ← hy]
  simp only [hafter, hcan, Bool.false_eq_true, if_false]
  rw [exhaust_eq (s := failedDropped c y) (by rw [hy]; exact hp) hmarks hlength (by rw [hy]; exact hreading) (by rw [hy]; exact hlist)]
  refine congrArg (State.flushTests c) ?_
  have hdropped : ((y.ring c).recorded.map fun p => if p.isProgramming then { p with status := .full } else p).filter
      (·.isProgramming) = [] := by
    rw [List.filter_eq_nil_iff]
    intro x hx
    obtain ⟨p, -, rfl⟩ := List.mem_map.mp hx
    split
    · exact Bool.false_ne_true
    · assumption
  have hsame := State.exhausts_ring (z := y) (c := c)
    (g := { y.ring c with recorded := (y.ring c).recorded.map fun p => if p.isProgramming then { p with status := .full } else p })
    (g' := { z.ring c with recorded := [] }) (by
      have hring : y.ring c = z.ring c := by rw [hy]; rfl
      rw [hring] at hdropped ⊢
      rw [hdropped]
      rfl)
  refine hsame.trans ?_
  rw [hy]
  rfl


end Sys2Proof.Machine
end


section
-- The proofs are elaborated one after another: the waiting threads would take the memory that the check allows.
set_option Elab.async false
/-! SUPPORT. Held and discarded programs (R87, R108), the flush end of a recording whose caller has gone (R50, R109), and the
completions of ring reads (R90–R92). -/

namespace Sys2Proof.Machine

/-! ## Held and discarded programs (R108) -/

/-- Settling a message when no program of it is in progress (R113). -/
theorem settle_settles {z : State} {n : Nat} (hblank : z.marksBlank) (hidle : z.programming n = false) :
    settle n z = z.settles n := by
  cases hm : z.message n with
  | none => rw [settle, State.settles, hm]
  | some m =>
    rw [settle_eq hm (hblank m (State.message_mem hm)).2, State.settles, hm]
    simp only [hidle, true_and]

theorem State.settles_updRing (n : Nat) (c : ChannelIx) (f : Ring → Ring) (z : State) :
    (z.settles n).updRing c f = (z.updRing c f).settles n := by
  have hmessage : (z.updRing c f).message n = z.message n := rfl
  rw [State.settles, State.settles, hmessage]
  cases z.message n with
  | none => rfl
  | some m =>
    dsimp only
    split <;> rfl

/-- `z` when a program's result has reached the store with no retry, and the ring of channel `c` is replaced (R87, R108). -/
def State.accepted (c : ChannelIx) (ok : Bool) (n b p : Nat) (head : Bool) (ring : Ring) (z : State) : State :=
  if z.message n ≠ none then
    (if ok then z.streamed c n (Message.passed b p head) ring
      else (z.streamed c n (Message.retired b) ring).placed .flashFault).settles n
  else if ok then { z with rings := z.rings.set c ring }
  else State.placed { z with
    rings := z.rings.set c ring
    store := { z.store with
      dirty := z.store.dirty.erase b
      bad := if b ∈ z.store.bad then z.store.bad else z.store.bad ++ [b] } } .flashFault

theorem programAccepted_updRing {z : State} (hblank : z.marksBlank) (hop : z.port.op = none) (hq : z.link.queue.length < 64)
    (c : ChannelIx) (ok : Bool) (n b p : Nat) (head : Bool) (f : Ring → Ring) :
    (programAccepted ok n b p head z).updRing c f = z.accepted c ok n b p head (f (z.ring c)) := by
  have hidle {y : State} (hy : y.port = z.port) : y.programming n = false := by rw [State.programming, hy, hop]
  cases hm : z.message n with
  | none =>
    simp only [programAccepted, State.accepted, hm, ne_eq, not_true_eq_false, if_false]
    cases ok with
    | true => rfl
    | false =>
      simp only [Bool.false_eq_true, if_false, badInsert_eq]
      rw [place_eq_placed (by exact hq)]
      rfl
  | some m =>
    simp only [programAccepted, State.accepted, hm, ne_eq, reduceCtorEq, not_false_eq_true, if_true]
    cases ok with
    | true =>
      have hmarks : (pagePassed n b p head z).marksBlank :=
        State.streamed_marks hblank c n (f := Message.passed b p head) (fun _ => ⟨rfl, rfl⟩) (z.ring c)
      simp only [if_true]
      rw [settle_settles hmarks (hidle rfl), State.settles_updRing]
      rfl
    | false =>
      have hmarks : ((z.updMessage n (Message.retired b)).placed .flashFault).marksBlank :=
        State.streamed_marks hblank c n (f := Message.retired b) (fun _ => ⟨rfl, rfl⟩) (z.ring c)
      simp only [Bool.false_eq_true, if_false]
      rw [blockRetired_eq hq, settle_settles hmarks (hidle rfl), State.settles_updRing]
      rfl

theorem State.settles_frame (n : Nat) (z : State) : (z.settles n).link = z.link ∧ (z.settles n).rings = z.rings ∧
    (z.settles n).channels = z.channels ∧ (z.settles n).store.prompts = z.store.prompts ∧ (z.marksBlank → (z.settles n).marksBlank) := by
  rw [State.settles]
  cases z.message n with
  | none => exact ⟨rfl, rfl, rfl, rfl, id⟩
  | some m =>
    dsimp only
    split
    · refine ⟨rfl, rfl, rfl, rfl, fun h x hx => ?_⟩
      obtain ⟨y, hy, rfl⟩ := List.mem_map.mp hx
      split <;> exact h y hy
    · exact ⟨rfl, rfl, rfl, rfl, id⟩

/-- What a program's result that reaches the store leaves as it was. -/
theorem State.accepted_frame {z : State} (hblank : z.marksBlank) (c : ChannelIx) (ok : Bool) (n b p : Nat) (head : Bool) (g : Ring) :
    let t := z.accepted c ok n b p head g
    t.link.queue.length ≤ z.link.queue.length + 1 ∧ t.ring c = g ∧ t.channels = z.channels ∧
      t.store.prompts = z.store.prompts ∧ t.marksBlank := by
  intro t
  have hring (y : State) (h : y.rings = z.rings.set c g) : y.ring c = g := by
    simp only [State.ring, h, Fin.getElem_fin, Vector.getElem_set_self]
  cases hm : z.message n with
  | none =>
    have ht : t = _ := if_neg (not_not_intro hm)
    cases ok with
    | true =>
      rw [ht]
      exact ⟨Nat.le_succ _, hring _ rfl, rfl, rfl, hblank⟩
    | false =>
      rw [ht]
      exact ⟨State.placed_length _ _, hring _ rfl, rfl, rfl, hblank⟩
  | some m =>
    have ht : t = _ := if_pos (by rw [hm]; exact fun h => nomatch h)
    cases ok with
    | true =>
      obtain ⟨hlink, hrings, hchannels, hprompts, hmarks⟩ := (z.streamed c n (Message.passed b p head) g).settles_frame n
      rw [ht]
      simp only [if_true]
      exact ⟨by rw [hlink]; exact Nat.le_succ _, hring _ hrings, hchannels, hprompts,
        hmarks (State.streamed_marks hblank c n (f := Message.passed b p head) (fun _ => ⟨rfl, rfl⟩) g)⟩
    | false =>
      obtain ⟨hlink, hrings, hchannels, hprompts, hmarks⟩ :=
        ((z.streamed c n (Message.retired b) g).placed .flashFault).settles_frame n
      rw [ht]
      simp only [Bool.false_eq_true, if_false]
      exact ⟨by rw [hlink]; exact State.placed_length _ _, hring _ hrings, hchannels, hprompts,
        hmarks (State.streamed_marks hblank c n (f := Message.retired b) (fun _ => ⟨rfl, rfl⟩) g)⟩

theorem Ring.raiseReads_recorded (g : Ring) : g.raiseReads.recorded = g.recorded := by
  have hone (g : Ring) : g.raiseRead.recorded = g.recorded := by
    rw [Ring.raiseRead]
    split <;> rfl
  rw [Ring.raiseReads, hone, hone]

/-- With the item read to its end no read is raised (R89). -/
theorem Ring.raiseReads_done {g : Ring} (h : g.nextItem = g.itemCount) : g.raiseReads = g := by
  have hdue : g.readDue = false := by
    rw [Ring.readDue, decide_eq_false (by omega), Bool.false_and]
  have hone : g.raiseRead = g := if_neg (by rw [hdue]; exact Bool.false_ne_true)
  rw [Ring.raiseReads, hone, hone]

theorem heldProgramDone_held {z : State} {c : ChannelIx} (hheld : .program ∈ (z.ring c).held) (hblank : z.marksBlank) (hop : z.port.op = none)
    (hq : z.link.queue.length < 64) (ok : Bool) (n b p : Nat) (head : Bool) :
    heldProgramDone ok c n b p head z = raisePrograms c (z.accepted c ok n b p head
      (Ring.raiseReads { z.ring c with held := (z.ring c).held.erase .program })) := by
  have hprogram : z.programHeld c = true := List.contains_iff_mem.mpr hheld
  have haccepted := programAccepted_updRing hblank hop hq c ok n b p head fun r => (r.dropHeld .program).raiseReads
  rw [heldProgramDone]
  simp only [hprogram, if_true]
  rw [haccepted]
  rfl

theorem heldProgramDone_discarded {z : State} {c : ChannelIx} (hheld : .program ∉ (z.ring c).held) (hblank : z.marksBlank) (hop : z.port.op = none)
    (hq : z.link.queue.length < 64) (ok : Bool) (n b p : Nat) (head : Bool) :
    heldProgramDone ok c n b p head z = flushTest c (z.accepted c ok n b p head
      { z.ring c with recorded := (z.ring c).recorded.filter (!·.isProgramming) }) := by
  have hprogram : z.programHeld c = false := by
    rw [← Bool.not_eq_true]
    exact fun h => hheld (List.contains_iff_mem.mp h)
  have haccepted := programAccepted_updRing hblank hop hq c ok n b p head
    fun r => { r with recorded := r.recorded.filter (!·.isProgramming) }
  rw [heldProgramDone]
  simp only [hprogram, Bool.false_eq_true, if_false]
  rw [pageProgrammed, haccepted]

/-! ## The flush end of a recording whose caller has gone (R50, R109) -/

/-- The commit of a message that is kept: it is NEW and in the mailbox of its room (R109). -/
theorem commit_kept {z : State} {n v : Nat} {m : Message} (hm : z.message n = some m) (hprogrammed : m.unprogrammed = false)
    (hvoice : 25 ≤ v) (hocc : (z.room m.room).occupancy = .occupied) :
    let t := commit n v z
    t.message n = some { m with state := .new } ∧ (t.room m.room).mailbox = serialInsert n (z.room m.room).mailbox ∧
      (t.room m.room).newCount = (z.room m.room).newCount + 1 ∧
      (t.room m.room).urgentCount = (z.room m.room).urgentCount + (if m.urgent then 1 else 0) ∧
      (t.room m.room).recordings = (z.room m.room).recordings - 1 ∧ (∀ r', r' ≠ m.room → t.room r' = z.room r') ∧
      t.link = z.link := by
  intro t
  have hnot : ¬ (m.unprogrammed = true ∨ v < Config.minVoiceFrames ∨ (z.room m.room).occupancy ≠ .occupied) := by
    rintro (h | h | h)
    · exact absurd (h.symm.trans hprogrammed) (by decide)
    · exact absurd h (Nat.not_lt.mpr hvoice)
    · exact h hocc
  obtain ⟨y, hy⟩ : ∃ y, y = (z.updMessage n fun m => { m with state := .new }).updRoom m.room
    fun x => messageEntered n true m.urgent { x with recordings := x.recordings - 1 } := ⟨_, rfl⟩
  have ht : t = evaluateLamp m.room y := by
    have hcommit : t = commit n v z := rfl
    rw [hcommit, commit, hm, hy]
    exact if_neg hnot
  have hroom : y.room m.room = messageEntered n true m.urgent { z.room m.room with recordings := (z.room m.room).recordings - 1 } := by
    rw [hy, State.room_updRoom_same]
    rfl
  have hlamp : t.room m.room = lampEvaluated (y.classOf m.room).shutdownHold (y.room m.room) := by
    rw [ht, evaluateLamp_room, if_pos rfl]
  refine ⟨?_, ?_, ?_, ?_, ?_, fun r' hr' => ?_, ?_⟩
  · have hstore : t.store = y.store := by rw [ht]; simp
    rw [State.message, hstore, hy, ← State.message]
    have hmessage := State.message_updMessage z n n (fun m => { m with state := .new }) fun _ => rfl
    rw [if_pos rfl, hm] at hmessage
    exact hmessage
  · rw [hlamp, hroom]
    rfl
  · rw [hlamp, hroom]
    rfl
  · rw [hlamp, hroom]
    cases hurgent : m.urgent <;> rfl
  · rw [hlamp, hroom]
    rfl
  · rw [ht, evaluateLamp_room, if_neg hr', hy, State.room_updRoom, if_neg fun h => hr' h.symm]
    rfl
  · rw [ht, (evaluateLamp_frame _ _).2.2.2.2.1, hy]
    rfl

/-- The flush end with the caller gone frees the channel (R50). -/
theorem flushEnd_gone {z w : State} {c : ChannelIx} {n : Nat} {k : Fin 126} (hcurrent : (z.chan c).current = some n)
    (hgone : (z.chan c).callerPresent = false) (hreading : (z.chan c).reading = false) (hslot : (z.chan c).slot = some k)
    (hw : commit n (z.encoder c).voiceFrames z = w) :
    let t := flushEnd c z
    t.store = w.store ∧ t.rooms = w.rooms ∧ t.link = w.link ∧ (t.chan c).state = .free ∧ (t.chan c).slot = none ∧
      t.highway.bindings[k] = none ∧ (t.encoder c).state = .idle ∧ ∀ c', c' ≠ c → t.chan c' = z.chan c' := by
  intro t
  have hchannels : w.channels = z.channels := by rw [← hw]; simp
  obtain ⟨u, hu⟩ : ∃ u, u = (w.updEncoder c fun e => { e with state := .idle }).updChan c fun x => { x with current := none } := ⟨_, rfl⟩
  have huchan : u.chan c = { z.chan c with current := none } := by
    rw [hu, State.chan_updChan_same]
    exact congrArg (fun x : Channel => ({ x with current := none } : Channel)) (congrArg (·[c]) hchannels)
  have ht : t = enterFree c u := by
    have hflush : t = flushEnd c z := rfl
    rw [hflush, flushEnd]
    simp only [hcurrent, hgone, Bool.false_eq_true, if_false]
    rw [hw, hu]
  have huslot : (u.chan c).slot = some k := by rw [huchan]; exact hslot
  have hureading : (u.chan c).reading = false := by rw [huchan]; exact hreading
  rw [ht, enterFree_eq (.inl hureading), State.frees_idle hureading huslot]
  refine ⟨?_, ?_, ?_, ?_, ?_, ?_, ?_, fun c' hc' => ?_⟩
  · rw [hu]
    rfl
  · rw [hu]
    rfl
  · rw [hu]
    rfl
  · simp only [State.chan, Fin.getElem_fin, Vector.getElem_set_self]
  · simp only [State.chan, Fin.getElem_fin, Vector.getElem_set_self]
  · simp only [Fin.getElem_fin, Vector.getElem_set_self]
  · have hencoder : u.encoder c = { w.encoder c with state := .idle } := by
      rw [hu, State.encoder_updChan, State.encoder_updEncoder_same]
    exact (congrArg Encoder.state hencoder :)
  · have hset := State.chan_withChan_of_ne hc' { u.chan c with
      state := .free, playList := [], keyHolder := none, timer := none, slot := none, current := none } u
    refine hset.trans ?_
    have hother : u.chan c' = w.chan c' := by
      rw [hu]
      exact State.chan_withChan_of_ne hc' _ _
    rw [hother]
    exact congrArg (·[c']) hchannels

/-! ## Reads (R90–R92) -/

theorem State.readHeld_iff (s : State) (c : ChannelIx) : s.readHeld c = true ↔ .read ∈ (s.ring c).held :=
  List.contains_iff_mem

end Sys2Proof.Machine
end


section
-- The proofs are elaborated one after another: the waiting threads would take the memory that the check allows.
set_option Elab.async false
/-! SUPPORT. The completions of ring operations as events. -/

namespace Sys2Proof.Machine

/-! ## Completions of other operations -/

theorem takeProgram_other {s : State} (h : ∀ c n b p head data spare, s.port.op ≠ some (.ringProgram c n b p head data spare))
    (ok : Bool) : takeProgram ok s = s ∧ takeHeldProgram ok s = s := by
  rw [takeProgram, takeHeldProgram]
  constructor
  all_goals
    split
    · exact absurd (by assumption) (h _ _ _ _ _ _ _)
    · rfl

theorem takeRead_other {s : State} (h : ∀ c k page, s.port.op ≠ some (.ringRead c k page)) (d : FlashRead) :
    takeRead d s = s ∧ takeHeldRead d s = s := by
  rw [takeRead.eq_def, takeHeldRead.eq_def]
  constructor
  all_goals
    split
    · exact absurd (by assumption) (h _ _ _)
    · exact absurd (by assumption) (h _ _ _)
    · rfl

theorem takeRead_spare (s : State) (d : Vector Octet 16) : takeRead (.spare d) s = s ∧ takeHeldRead (.spare d) s = s := by
  rw [takeRead.eq_def, takeHeldRead.eq_def]
  constructor
  all_goals
    split
    · rename_i h
      exact nomatch h
    · rename_i h
      exact nomatch h
    · rfl

theorem Message.passed_programmed {m : Message} {b : Nat} (h : ∃ e ∈ m.blocks, e.block = b) (p : Nat) (head : Bool) :
    (m.passed b p head).unprogrammed = false := by
  obtain ⟨e, he, hb⟩ := h
  rw [Message.unprogrammed, List.all_eq_false]
  refine ⟨_, List.mem_map.mpr ⟨e, he, rfl⟩, ?_⟩
  rw [if_pos hb, decide_eq_true_eq]
  exact Nat.succ_ne_zero p

/-- A failed read of a prompt's page `k` shortens its directory entry (R91). -/
theorem promptCut_eq (item : Option PlayItem) (k : Nat) (z : State) : promptCut item k z = { z with store := { z.store with
    prompts := match item with
      | some (.prompt id) => z.store.prompts.set id ((z.store.prompts[id]).map fun e => { e with count := min e.count k })
      | _ => z.store.prompts } } := by
  cases item with
  | none => rfl
  | some i => cases i <;> rfl

/-! ## Reads of an item (R90–R92) -/

section
variable {s : State} {c : ChannelIx} {k page : Nat} (hop : s.port.op = some (.ringRead c k page))
include hop

theorem takeRead_held (hheld : .read ∈ (s.ring c).held) (d : FlashRead) : takeRead d s = s := by
  have hread : s.readHeld c = true := (s.readHeld_iff c).mpr hheld
  cases d <;> simp only [takeRead, hop, hread, if_true]

theorem takeHeldRead_free (hheld : .read ∉ (s.ring c).held) (d : FlashRead) : takeHeldRead d s = s := by
  have hread : s.readHeld c = false := Bool.not_eq_true _ ▸ mt (s.readHeld_iff c).mp hheld
  cases d <;> simp only [takeHeldRead, hop, hread, Bool.false_eq_true, if_false]

theorem takeRead_page (hheld : .read ∉ (s.ring c).held) (d : Vector Octet 512) :
    takeRead (.page d) s = (s.opEnded true d.toList).updRing c (Ring.arrive d.toList) := by
  have hread : s.readHeld c = false := Bool.not_eq_true _ ▸ mt (s.readHeld_iff c).mp hheld
  simp only [takeRead, hop, hread, Bool.false_eq_true, if_false, readDone]
  rfl

theorem takeRead_fail (hheld : .read ∉ (s.ring c).held) (hq : s.link.queue.length < 64) :
    takeRead .fail s = (promptCut (s.ring c).item k (((s.opEnded false []).updRing c (Ring.cut k)).updDecoder c
      fun d => { d with extent := 512 * k })).placed .flashFault := by
  have hread : s.readHeld c = false := Bool.not_eq_true _ ▸ mt (s.readHeld_iff c).mp hheld
  simp only [takeRead, hop, hread, Bool.false_eq_true, if_false, readDone]
  refine place_eq_placed ?_ _
  unfold promptCut
  split <;> exact hq

theorem takeHeldRead_fail (hheld : .read ∈ (s.ring c).held) :
    takeHeldRead .fail s = heldReadDone c (s.opEnded false []) := by
  have hread : s.readHeld c = true := (s.readHeld_iff c).mpr hheld
  simp only [takeHeldRead, hop, hread, if_true]
  rfl

theorem takeHeldRead_page (hheld : .read ∈ (s.ring c).held) (d : Vector Octet 512) :
    takeHeldRead (.page d) s = heldReadDone c (s.opEnded true d.toList) := by
  have hread : s.readHeld c = true := (s.readHeld_iff c).mpr hheld
  simp only [takeHeldRead, hop, hread, if_true]
  rfl

end

/-- Settles O49. -/
theorem ringCompletions : Obligations.RingCompletions := by
  have hprogramEvent {s : State} (hreset : s.resetLow = false) (ok : Bool) :
      exec (.programComplete ok) s = .next (takeProgram ok s) ∧ exec (.heldProgramComplete ok) s = .next (takeHeldProgram ok s) :=
    ⟨event_taken hreset, event_taken hreset⟩
  have hreadEvent {s : State} (hreset : s.resetLow = false) (d : FlashRead) :
      exec (.readComplete d) s = .next (takeRead d s) ∧ exec (.heldReadComplete d) s = .next (takeHeldRead d s) :=
    ⟨event_taken hreset, event_taken hreset⟩
  refine ⟨fun c s hreset => ⟨fun n b p head data spare hop => ?program, fun k page hop => ?read⟩, fun s hreset => ⟨fun hop ok => ?_, fun hop d => ?_, fun d => ?_⟩⟩
  case program =>
    intro g x passed retired left put done failed accepted
    simp only [fun ok => (hprogramEvent hreset ok).1, fun ok => (hprogramEvent hreset ok).2]
    refine ⟨fun hexhausted hheld => ?going, fun hleft ok => ?left, fun hexhausted hheld hp hb hq hreading hlist ok => ?discarded,
      fun hheld hb hq => ?held⟩
    case left => rw [takeProgram_left hop (State.programLeft_true hleft)]
    case going =>
      have hnotleft : s.programLeft c = false := State.programLeft_false hexhausted hheld
      have htake (ok : Bool) := takeProgram_going hop hnotleft ok
      have hpassed : programDone true c n b p head (s.opEnded true []) = flushTest c (raisePrograms c done) := by
        rw [programDone_passed]
        rfl
      have hdone : done.ring c = { g with recorded := left } := State.ring_streamed c n _ _ _
      have hnofull (h : ∀ q ∈ g.recorded, q.status ≠ .full) : raisePrograms c done = done :=
        raisePrograms_idle fun q hq => h q (by rw [hdone] at hq; exact List.mem_of_mem_filter hq)
      have hempty (h : left = []) : raisePrograms c done = done :=
        raisePrograms_idle fun q hq => by
          rw [hdone, h] at hq
          exact absurd hq List.not_mem_nil
      refine ⟨fun ok => ?_, ?_, fun hfull hflush => ?_, fun hleft hended hstate hp hb hq hreading hlist => ?_,
        fun m r k hleft hended hstate hgone hreading hcurrent hslot hm hr hblock hocc hvoice => ?_, fun hm hq => ?_,
        fun m l e l' hm hblocks he hl hq => ?_⟩
      · rw [takeHeldProgram_going hop hnotleft]
      · rw [htake, hpassed]
      · rw [htake, hpassed, hnofull hfull, flushTest_idle (z := done) (hflush.imp id fun h => by rw [hdone]; exact h)]
      · have htest : flushTest c done = done.flushTests c :=
          flushTest_eq hp (State.streamed_marks hb c n (f := Message.passed b p head) (fun _ => ⟨rfl, rfl⟩) { g with recorded := left }) hq hreading hlist
        rw [htake, hpassed, hempty hleft, htest, State.flushTests, if_pos]
        exact ⟨hstate, by rw [hdone]; exact hended, by rw [hdone]; exact hleft⟩
      · have hprogrammed : (m.passed b p head).unprogrammed = false := Message.passed_programmed hblock p head
        have hm' : done.message n = some (m.passed b p head) := State.message_streamed (z := s.opEnded true []) hm c (f := Message.passed b p head) (fun _ => rfl) _
        subst hr
        obtain ⟨hmessage, hbox, hnew, hurgent, hrecordings, hothers, hlink⟩ :=
          commit_kept (v := (done.encoder c).voiceFrames) hm' hprogrammed hvoice hocc
        obtain ⟨hstore', hrooms', hlink', hfree', hslot', hbinding', hidle', hothers'⟩ :=
          flushEnd_gone (z := done) hcurrent hgone hreading hslot rfl
        have hend : flushTest c done = flushEnd c done :=
          if_pos ⟨hstate, by rw [hdone]; exact hended, by rw [hdone]; exact hleft⟩
        refine ⟨drainTest (flushEnd c done), ?_, ?_⟩
        · rw [htake, hpassed, hempty hleft, hend, drainTest_eq]
        obtain ⟨z, hz⟩ : ∃ z, z = commit n (done.encoder c).voiceFrames done := ⟨_, rfl⟩
        rw [← hz] at hmessage hbox hnew hurgent hrecordings hothers hlink hstore' hrooms' hlink'
        have hroom (r : RoomIx) : (drainTest (flushEnd c done)).room r = z.room r := by
          rw [State.room, (drainTest_frame _).2.2.2.2.2.2.1, hrooms']
          rfl
        have hchan (c' : ChannelIx) : (drainTest (flushEnd c done)).chan c' = (flushEnd c done).chan c' := by
          rw [State.chan, (drainTest_frame _).2.2.2.2.2.2.2.2.2.2.1]
          rfl
        refine ⟨?_, ?_, ?_, ?_, ?_, fun r' hr' => ?_, ?_, ?_, ?_, ?_, fun c' hc' => ?_, ?_⟩
        · rw [State.message, (drainTest_frame _).2.2.2.2.2.2.2.2.2.2.2.2.2.2.1, hstore']
          exact hmessage
        · rw [hroom]
          exact hbox
        · rw [hroom]
          exact hnew
        · rw [hroom]
          exact hurgent
        · rw [hroom]
          exact hrecordings
        · rw [hroom]
          exact hothers r' hr'
        · rw [hchan]
          exact hfree'
        · rw [hchan]
          exact hslot'
        · rw [(drainTest_frame _).2.2.1]
          exact hbinding'
        · rw [State.encoder, (drainTest_frame _).2.2.2.2.2.2.2.2.2.2.2.1]
          exact hidle'
        · rw [hchan]
          exact hothers' c' hc'
        · rw [(drainTest_frame _).2.2.2.2.1, hlink', hlink]
          rfl
      · rw [htake, programDone_gone (z := s.opEnded false []) hm hq]
      · have hafter : blockAfter b (m.retired b).blocks = (l'.head?).map (·.block) := Message.blockAfter_retired hblocks he hl
        refine ⟨fun e2 l2 hl' => ?_, fun f rest hl' hlength hfree => ?_, fun hl' hnone hp hb hreading hlist => ?_⟩
        · rw [hl'] at hafter
          have hlater := programDone_later (z := s.opEnded false []) (by exact hm) (by exact Nat.lt_of_lt_of_le hq (by decide)) hafter c p head
          rw [htake, hlater]
          rfl
        · rw [hl'] at hafter
          have hfresh := programDone_fresh (z := s.opEnded false []) (by exact hm) (by exact hq) hafter hlength (by exact hfree) c p head
          rw [htake, hfresh]
          rfl
        · rw [hl'] at hafter
          have hexhaust := programDone_exhausted (z := s.opEnded false []) (c := c) (by exact hm) (by exact hq) hafter hnone hp hb hreading
            (by exact hlist) p head
          rw [htake, hexhaust]
          rfl
    case discarded =>
      have hheldDone := takeHeldProgram_left hop (State.programLeft_true (.inl hexhausted)) ok
      have haccepted : (s.opEnded ok []).accepted c ok n b p head { g with recorded := left } = accepted ok { g with recorded := left } := by
        cases ok <;> rfl
      obtain ⟨hlength, -, hchannels, hprompts, hmarks⟩ :=
        State.accepted_frame (z := s.opEnded ok []) (by exact hb) c ok n b p head { g with recorded := left }
      rw [haccepted] at hlength hchannels hprompts hmarks
      have hchan : (accepted ok { g with recorded := left }).chan c = x := (congrArg (·[c]) hchannels :)
      have htest : flushTest c (accepted ok { g with recorded := left }) = (accepted ok { g with recorded := left }).flushTests c :=
        flushTest_eq (fun id => by rw [hprompts]; exact hp id) hmarks (by have : s.link.queue.length < 63 := hq; exact Nat.lt_of_le_of_lt hlength (by exact Nat.succ_lt_succ this))
          (by rw [hchan]; exact hreading) (by rw [hchan]; exact hlist)
      rw [hheldDone, heldProgramDone_discarded (z := s.opEnded ok []) (by exact hheld) hb rfl (by exact Nat.lt_succ_of_lt hq)]
      rw [← htest, ← haccepted]
      rfl
    case held =>
      let ring : Ring := Ring.raiseReads { g with held := g.held.erase .program }
      have haccepted (ok : Bool) : (s.opEnded ok []).accepted c ok n b p head ring = accepted ok ring := by cases ok <;> rfl
      refine ⟨fun ok => ?_, fun ok hfull => raisePrograms_idle ?_, fun hread => Ring.raiseReads_done (by exact hread)⟩
      · rw [takeHeldProgram_left hop (State.programLeft_true (.inr hheld)),
          heldProgramDone_held (z := s.opEnded ok []) (by exact hheld) hb rfl (by exact Nat.lt_succ_of_lt hq), ← haccepted]
        rfl
      · obtain ⟨-, hring, -⟩ := State.accepted_frame (z := s.opEnded ok []) (by exact hb) c ok n b p head ring
        rw [haccepted] at hring
        rw [hring, Ring.raiseReads_recorded]
        exact hfull
  case read =>
    intro g
    simp only [fun d => (hreadEvent hreset d).1, fun d => (hreadEvent hreset d).2]
    refine ⟨fun hheld => ⟨fun d => ?_, fun d => ?_, fun hq => ?_⟩, fun hheld => ?_⟩
    · rw [takeHeldRead_free hop hheld]
    · rw [takeRead_page hop hheld]
      rfl
    · rw [takeRead_fail hop hheld hq]
      rw [promptCut_eq]
      rfl
    · refine ⟨fun d => ?_, fun hread => Ring.raiseReads_done (by exact hread), ?_, fun d => ?_⟩
      · rw [takeRead_held hop hheld]
      · rw [takeHeldRead_fail hop hheld]
        rfl
      · rw [takeHeldRead_page hop hheld]
        rfl
  · rw [(hprogramEvent hreset ok).1, (hprogramEvent hreset ok).2, (takeProgram_other hop ok).1, (takeProgram_other hop ok).2]
    exact ⟨rfl, rfl⟩
  · rw [(hreadEvent hreset d).1, (hreadEvent hreset d).2, (takeRead_other hop d).1, (takeRead_other hop d).2]
    exact ⟨rfl, rfl⟩
  · rw [(hreadEvent hreset _).1, (hreadEvent hreset _).2, (takeRead_spare s d).1, (takeRead_spare s d).2]
    exact ⟨rfl, rfl⟩

end Sys2Proof.Machine
end


section
-- The proofs are elaborated one after another: the waiting threads would take the memory that the check allows.
set_option Elab.async false
/-! SUPPORT. The reads of a mount (R118–R121). -/

namespace Sys2Proof.Machine

/-- The HEAD blocks listed by their index in the table of classes (R119). -/
theorem headsOf_range (m : MountJob) (first : Nat) : headsOf (m.blocks first) =
    (List.range m.classes.length).filterMap fun i =>
      match m.classes[i]? with
      | some (BlockClass.head info) =>
        some { block := first + i, info := info, heardMark := false, blank14 := false, deletedMark := false, blank15 := false }
      | _ => none := by
  have hindex : m.classes.zipIdx.map (fun x => (some x.1, x.2)) =
      (List.range m.classes.length).map fun i => (m.classes[i]?, i) := by
    refine List.ext_getElem (by simp) fun i h1 h2 => ?_
    have hi : i < m.classes.length := by simpa using h2
    simp [List.getElem?_eq_getElem hi]
  let headAt (x : Option BlockClass × Nat) : Option MountHead :=
    match x.1 with
    | some (BlockClass.head info) =>
      some { block := first + x.2, info := info, heardMark := false, blank14 := false, deletedMark := false, blank15 := false }
    | _ => none
  have hfilter := congrArg (List.filterMap headAt) hindex
  rw [List.filterMap_map, List.filterMap_map] at hfilter
  refine Eq.trans ?_ hfilter
  rw [headsOf, MountJob.blocks, List.filterMap_map]
  refine List.filterMap_congr fun x _ => ?_
  obtain ⟨c, i⟩ := x
  cases c <;> rfl

/-- A class added to the table before the last block (R118). -/
theorem MountJob.classified_before {m : MountJob} {area : Nat} (h : m.classes.length + 1 < area) (first : Nat) (c : BlockClass) :
    m.classified area first c = { m with classes := m.classes ++ [c] } :=
  if_pos (by rw [List.length_append, List.length_singleton]; exact h)

/-- The last block's class lists the HEAD blocks (R118). -/
theorem MountJob.classified_last {m : MountJob} {area : Nat} (h : m.classes.length + 1 = area) (first : Nat) (c : BlockClass) :
    m.classified area first c = { m with
      classes := m.classes ++ [c], todo := headsOf (MountJob.blocks { m with classes := m.classes ++ [c] } first) } :=
  if_neg (by rw [List.length_append, List.length_singleton]; omega)

theorem mountNext_goesOn {m : MountJob} {z : State} (h : m.classes.length < z.store.areaBlocks ∨ m.todo ≠ []) :
    mountNext m z = { z with store := { z.store with job := .mount m } } := if_pos h

theorem mountNext_ends {m : MountJob} {z : State} (harea : z.store.areaBlocks ≤ m.classes.length) (htodo : m.todo = [])
    (hq : z.attention = 0 → z.link.queue.length < 64) : MountEnded m.classes m.found z (mountNext m z) := by
  have hend : mountNext m z = mountEnd m z := if_neg fun h => h.elim (Nat.not_lt.mpr harea) (· htodo)
  rw [hend]
  exact mountEnd_spec m hq

/-- A mount read's outcome: the octets read, or none on a failure. -/
def mountOutcome : Option (Vector Octet 16) → FlashRead
  | some d => .spare d
  | none => .fail

/-- `s` when a mount read has ended the operation: FLASH_FAULT is placed on a failure (R118). -/
def State.mountRead (s : State) : Option (Vector Octet 16) → State
  | some d => s.opEnded true d.toList
  | none => (s.opEnded false []).placed .flashFault

section
variable {m : MountJob} {page : Nat} {s : State} (hreset : s.resetLow = false) (hjob : s.store.job = .mount m)
  (hop : s.port.op = some (.mountRead page)) (hq : s.link.queue.length < 64)
include hreset hjob hop hq

/-- A read of the first step classifies its block (R118). -/
theorem exec_mountRead_first (harea : m.classes.length < s.store.areaBlocks) (spare : Option (Vector Octet 16)) :
    exec (.mountReadComplete (mountOutcome spare)) s = .next (mountNext
      (m.classified s.store.areaBlocks s.store.promptBlocks (spare.elim .dirty fun d => classifySpare d.toList))
      (s.mountRead spare)) := by
  refine event_handed hreset ?_
  cases spare with
  | some d =>
    have hjob' : (s.opEnded true d.toList).store.job = .mount m := hjob
    simp only [mountOutcome, takeMountRead, hop, endOp_idle, mountReadDone, hjob', Option.isNone_some]
    exact if_pos harea
  | none =>
    have hjob' : (s.opEnded false []).store.job = .mount m := hjob
    have hfault : faultIf true (s.opEnded false []) = s.mountRead none := (if_pos rfl).trans (place_eq_placed (by exact hq) _)
    simp only [mountOutcome, takeMountRead, hop, endOp_idle, mountReadDone, hjob', Option.isNone_none, hfault]
    exact if_pos harea

/-- A read of the second step notes a mark page (R119). -/
theorem exec_mountRead_second (harea : s.store.areaBlocks ≤ m.classes.length) (spare : Option (Vector Octet 16)) :
    exec (.mountReadComplete (mountOutcome spare)) s =
      .next (mountNext (m.marked (spare.map (·.toList))) (s.mountRead spare)) := by
  refine event_handed hreset ?_
  cases spare with
  | some d =>
    have hjob' : (s.opEnded true d.toList).store.job = .mount m := hjob
    simp only [mountOutcome, takeMountRead, hop, endOp_idle, mountReadDone, hjob', Option.isNone_some]
    exact if_neg (Nat.not_lt.mpr harea)
  | none =>
    have hjob' : (s.opEnded false []).store.job = .mount m := hjob
    have hfault : faultIf true (s.opEnded false []) = s.mountRead none := (if_pos rfl).trans (place_eq_placed (by exact hq) _)
    simp only [mountOutcome, takeMountRead, hop, endOp_idle, mountReadDone, hjob', Option.isNone_none, hfault]
    exact if_neg (Nat.not_lt.mpr harea)

end

/-- A mount read leaves room for an ATTENTION frame. -/
theorem State.mountRead_room {s : State} (hq : s.link.queue.length < 64) (spare : Option (Vector Octet 16)) :
    (s.mountRead spare).attention = 0 → (s.mountRead spare).link.queue.length < 64 := by
  cases spare with
  | some d => exact fun _ => hq
  | none => exact fun h => absurd h (placed_attention_ne _ _)

theorem State.mountRead_area (s : State) (spare : Option (Vector Octet 16)) :
    (s.mountRead spare).store.areaBlocks = s.store.areaBlocks := by
  cases spare <;> rfl

/-- Settles O51. -/
theorem mountReads : Obligations.MountReads := by
  refine ⟨fun m page d s hreset hjob hop hq => ?_, fun s hreset hop d => ?_⟩
  · intro area first ok fault goesOn ends
    refine ⟨fun hmore => ?first, fun hlast => ?last, fun h rest hsecond htodo => ?second⟩
    case first =>
      have hread (spare : Option (Vector Octet 16)) : exec (.mountReadComplete (mountOutcome spare)) s =
          .next (goesOn (s.mountRead spare)
            { m with classes := m.classes ++ [spare.elim .dirty fun d => classifySpare d.toList] }) := by
        rw [exec_mountRead_first hreset hjob hop hq (by exact Nat.lt_of_succ_lt hmore), MountJob.classified_before (by exact hmore),
          mountNext_goesOn (.inl (by rw [State.mountRead_area, List.length_append, List.length_singleton]; exact hmore))]
      exact ⟨hread (some d), hread none⟩
    case last =>
      intro heads read bad
      have hshort : m.classes.length < s.store.areaBlocks := by
        have : m.classes.length + 1 = s.store.areaBlocks := hlast
        omega
      have hheads (classes : List BlockClass) : headsOf (MountJob.blocks { m with classes := classes } first) = heads classes :=
        (headsOf_range { m with classes := classes } first).trans rfl
      have hread (spare : Option (Vector Octet 16)) : exec (.mountReadComplete (mountOutcome spare)) s =
          .next (mountNext { m with
            classes := m.classes ++ [spare.elim .dirty fun d => classifySpare d.toList]
            todo := heads (m.classes ++ [spare.elim .dirty fun d => classifySpare d.toList]) } (s.mountRead spare)) := by
        rw [exec_mountRead_first hreset hjob hop hq hshort, MountJob.classified_last (by exact hlast), hheads]
      have hgoes (spare : Option (Vector Octet 16))
          (htodo : heads (m.classes ++ [spare.elim .dirty fun d => classifySpare d.toList]) ≠ []) :
          exec (.mountReadComplete (mountOutcome spare)) s = .next (goesOn (s.mountRead spare) { m with
            classes := m.classes ++ [spare.elim .dirty fun d => classifySpare d.toList]
            todo := heads (m.classes ++ [spare.elim .dirty fun d => classifySpare d.toList]) }) := by
        rw [hread, mountNext_goesOn (.inr htodo)]
      have hends (spare : Option (Vector Octet 16))
          (htodo : heads (m.classes ++ [spare.elim .dirty fun d => classifySpare d.toList]) = []) :
          ends (mountOutcome spare) (s.mountRead spare) (m.classes ++ [spare.elim .dirty fun d => classifySpare d.toList]) m.found := by
        refine ⟨_, hread spare, mountNext_ends (m := { m with
          classes := m.classes ++ [spare.elim .dirty fun d => classifySpare d.toList]
          todo := heads (m.classes ++ [spare.elim .dirty fun d => classifySpare d.toList]) }) ?_ htodo (State.mountRead_room hq spare)⟩
        rw [State.mountRead_area, List.length_append, List.length_singleton]
        exact Nat.le_of_eq (hlast.symm)
      exact ⟨hgoes (some d), hgoes none, hends (some d), hends none⟩
    case second =>
      intro marked unread
      have hread (spare : Option (Vector Octet 16)) := exec_mountRead_second hreset hjob hop hq hsecond spare
      refine ⟨fun hpage => ?_, fun hpage hmore => ?_, fun hpage hdone => ?_⟩
      · have hgoes (spare : Option (Vector Octet 16)) : exec (.mountReadComplete (mountOutcome spare)) s =
            .next (goesOn (s.mountRead spare) { m with
              page14 := true
              todo := { h with heardMark := (spare.map (·.toList)).elim false (isMark .heard h.info.serial)
                               blank14 := (spare.map (·.toList)).elim false blankOctets } :: rest }) := by
          have hmarked : m.marked (spare.map (·.toList)) = { m with
              page14 := true
              todo := { h with heardMark := (spare.map (·.toList)).elim false (isMark .heard h.info.serial)
                               blank14 := (spare.map (·.toList)).elim false blankOctets } :: rest } := by
            rw [MountJob.marked, htodo]
            exact if_neg (by rw [hpage]; exact Bool.false_ne_true)
          rw [hread, hmarked, mountNext_goesOn (.inr (List.cons_ne_nil _ _))]
        exact ⟨hgoes (some d), hgoes none⟩
      all_goals
        have hmarked (spare : Option (Vector Octet 16)) : m.marked (spare.map (·.toList)) = { m with
            todo := rest, page14 := false
            found := m.found ++ [{ h with deletedMark := (spare.map (·.toList)).elim false (isMark .deleted h.info.serial)
                                          blank15 := (spare.map (·.toList)).elim false blankOctets }] } := by
          rw [MountJob.marked, htodo]
          exact if_pos hpage
      · have hgoes (spare : Option (Vector Octet 16)) : exec (.mountReadComplete (mountOutcome spare)) s =
            .next (goesOn (s.mountRead spare) (m.marked (spare.map (·.toList)))) := by
          rw [hread, mountNext_goesOn (.inr (by rw [hmarked]; exact hmore))]
        have hok := hgoes (some d)
        have hfail := hgoes none
        rw [hmarked] at hok hfail
        exact ⟨hok, hfail⟩
      · have hends (spare : Option (Vector Octet 16)) :
            ends (mountOutcome spare) (s.mountRead spare) (m.marked (spare.map (·.toList))).classes (m.marked (spare.map (·.toList))).found := by
          refine ⟨_, hread spare, mountNext_ends ?_ ?_ (State.mountRead_room hq spare)⟩
          · rw [State.mountRead_area, hmarked]
            exact hsecond
          · rw [hmarked]
            exact hdone
        have hok := hends (some d)
        have hfail := hends none
        rw [hmarked] at hok hfail
        exact ⟨hok, hfail⟩
  · have htake : takeMountRead d s = s := by
      rw [takeMountRead.eq_def]
      split
      · exact absurd (by assumption) (hop _)
      · exact absurd (by assumption) (hop _)
      · rfl
    exact (event_taken hreset).trans (congrArg Host.Outcome.next htake)

end Sys2Proof.Machine
end


section
-- The proofs are elaborated one after another: the waiting threads would take the memory that the check allows.
set_option Elab.async false
/-! SUPPORT. A bound slot (R73, R79, R80, R89): what its ring, its encoder and its decoder make of one highway frame. -/

namespace Sys2Proof.Machine

/-! ## Reads of a ring (R89) -/

theorem Ring.outReads_eq (r : Ring) : r.outReads =
    r.items.countP (fun p => decide (p.status = .reserved ∨ p.status = .reading)) + r.held.count .read := by
  have hawaited (p : ItemPage) : p.awaited = decide (p.status = .reserved ∨ p.status = .reading) := by
    cases hp : p.status <;> simp [ItemPage.awaited, hp]
  have hheld : r.held.countP (· = .read) = r.held.count .read := by
    rw [List.count]
    exact List.countP_congr fun x _ => by simp
  rw [Ring.outReads, funext hawaited, hheld]

theorem Ring.readDue_iff (r : Ring) : r.readDue = true ↔
    r.nextItem < r.itemCount ∧ (r.outReads = 0 ∧ 1 ≤ r.freePages ∨ r.outReads = 1 ∧ 2 ≤ r.freePages) := by
  simp only [Ring.readDue, Bool.and_eq_true, Bool.or_eq_true, decide_eq_true_eq]

/-! ## The octets of an item (R80, R88) -/

/-- The octet at `pos` of the item's stream has arrived and is `v`. -/
def Ring.Has (r : Ring) (pos : Nat) (v : Octet) : Prop := ∃ data,
  r.items.find? (·.index = pos / 512) = some { index := pos / 512, status := .arrived data } ∧ data[pos % 512]? = some v

theorem Ring.octet_eq_some {r : Ring} {pos : Nat} {v : Octet} : r.octet pos = some v ↔ r.Has pos v := by
  rw [Ring.Has]
  constructor
  · intro h
    rw [Ring.octet] at h
    split at h
    next index data hfind =>
      have hindex : index = pos / 512 := of_decide_eq_true (List.find?_some hfind :)
      exact ⟨data, hindex ▸ hfind, h⟩
    next => exact nomatch h
  · rintro ⟨data, hfind, hdata⟩
    have hfind' : r.items.find? (·.index = pos / Config.pageOctets) = some { index := pos / 512, status := .arrived data } := hfind
    rw [Ring.octet, hfind']
    exact hdata

theorem Ring.octet_eq_none {r : Ring} {pos : Nat} (h : ∀ v, ¬r.Has pos v) : r.octet pos = none :=
  Option.eq_none_iff_forall_not_mem.mpr fun v hv => h v (Ring.octet_eq_some.mp hv)

/-! ## The encoder's sample (R73) -/

theorem Coder.linear_eq (k : Coder) (o : Octet) : k.linear o = k.expansion[Fin.ofNat 256 o.toNat] := by
  have ho : o.toNat < 256 := o.isLt
  have hlen : o.toNat < k.expansion.toList.length := by simpa using ho
  have hmod : o.toNat % 256 = o.toNat := Nat.mod_eq_of_lt ho
  rw [Coder.linear, List.getD_eq_getElem _ _ hlen, Vector.getElem_toList]
  simp only [Fin.getElem_fin, Fin.val_ofNat, hmod]

theorem Encoder.taking_iff (e : Encoder) :
    (e.state = .running ∧ e.frameDue = false ∧ e.lengthDue = false ∧ e.noVoiceDue = false) ↔
      (e.state = .running ∧ e.samples < 160 ∧ e.frames < e.lengthLimit ∧
        (e.noVoiceLimit = 0 ∨ e.pendingSilence < e.noVoiceLimit)) := by
  refine and_congr_right fun hrunning => ?_
  simp only [← Bool.not_eq_true, Encoder.frameDue_iff hrunning, Encoder.lengthDue_iff hrunning, Encoder.noVoiceDue_iff hrunning]
  omega

/-- A sample taken (R73). -/
theorem Encoder.take_running {e : Encoder} (h : e.state = .running ∧ e.samples < 160 ∧ e.frames < e.lengthLimit ∧
    (e.noVoiceLimit = 0 ∨ e.pendingSilence < e.noVoiceLimit)) (x : Int) :
    e.take x = { e with
      quant := e.quant.coded (e.quant.nibble x), nibbles := e.nibbles ++ [e.quant.nibble x]
      peak := max e.peak x.natAbs, samples := e.samples + 1 } := by
  rw [Encoder.take, if_pos (e.taking_iff.mpr h)]
  simp only [Quantiser.apply_eq]

theorem Encoder.take_stopped {e : Encoder} (h : ¬(e.state = .running ∧ e.samples < 160 ∧ e.frames < e.lengthLimit ∧
    (e.noVoiceLimit = 0 ∨ e.pendingSilence < e.noVoiceLimit))) (x : Int) : e.take x = e := by
  rw [Encoder.take, if_neg (mt e.taking_iff.mp h)]

theorem State.updEncoder_self {s : State} {c : ChannelIx} {f : Encoder → Encoder} (h : f (s.encoder c) = s.encoder c) :
    s.updEncoder c f = s := by
  have hencoders : s.coder.encoders.set c (s.encoder c) = s.coder.encoders := Vector.set_getElem_self c.isLt
  rw [State.updEncoder, h, hencoders]

/-! ## The decoder's steps (R79, R80) -/

theorem Quantiser.coded_range (n : Nat) (q : Quantiser) : -8192 ≤ (q.coded n).p ∧ (q.coded n).p ≤ 8191 := by
  simp only [Quantiser.coded]
  omega

theorem Decoder.step_silence {d : Decoder} {n : Nat} (h : d.inPlay = .silence (n + 1)) (f : Nat → Option Octet) :
    d.step f = .quiet { d with inPlay := if n = 0 then .nothing else .silence n } := by
  rw [Decoder.step, h]
  rfl

theorem Decoder.step_low {d : Decoder} {n : Nat} (h : d.inPlay = .voice (n + 1)) (heven : n % 2 = 0) (f : Nat → Option Octet) :
    d.step f = .voice { d with
      quant := d.quant.coded (d.lastOctet.toNat % 16), inPlay := if n = 0 then .nothing else .voice n } := by
  rw [Decoder.step, h]
  refine (if_neg (by omega)).trans ?_
  rw [Decoder.sound, Quantiser.apply_eq]

theorem Decoder.step_high {d : Decoder} {n : Nat} (h : d.inPlay = .voice (n + 1)) (hodd : n % 2 = 1)
    (hpos : d.position < d.extent) (f : Nat → Option Octet) :
    d.step f = (f d.position).elim .wait fun v => .voice { d with
      quant := d.quant.coded (v.toNat / 16), position := d.position + 1, lastOctet := v, inPlay := .voice n } := by
  have hn : n ≠ 0 := by omega
  rw [Decoder.step, h]
  refine (if_pos hodd).trans ((if_neg (Nat.not_le.mpr hpos)).trans ?_)
  cases f d.position with
  | none => rfl
  | some v => simp only [Option.elim, Decoder.sound, Quantiser.apply_eq, if_neg hn]

theorem Decoder.step_cut {d : Decoder} {n : Nat} (h : d.inPlay = .voice (n + 1)) (hodd : n % 2 = 1)
    (hpos : d.extent ≤ d.position) (f : Nat → Option Octet) : d.step f = .ends := by
  rw [Decoder.step, h]
  exact (if_pos hodd).trans (if_pos hpos)

theorem Decoder.step_begin {d : Decoder} (h : d.inPlay = .nothing) (f : Nat → Option Octet) : d.step f = d.begin f := by
  rw [Decoder.step, h]

theorem Decoder.begin_extent {d : Decoder} (h : d.extent ≤ d.position) (f : Nat → Option Octet) : d.begin f = .ends := if_pos h

theorem Decoder.begin_wait {d : Decoder} {f : Nat → Option Octet} (hpos : d.position < d.extent) (h : f d.position = none) :
    d.begin f = .wait := by
  rw [Decoder.begin, if_neg (Nat.not_le.mpr hpos), h]

/-- END or a reserved tag ends the item (R79). -/
theorem Decoder.begin_end {d : Decoder} {f : Nat → Option Octet} {v : Octet} (hpos : d.position < d.extent)
    (h : f d.position = some v) (hv : v = 0 ∨ 0xA8 ≤ v.toNat) : d.begin f = .ends := by
  rw [Decoder.begin, if_neg (Nat.not_le.mpr hpos), h]
  exact if_pos hv

theorem Decoder.begin_silence {d : Decoder} {f : Nat → Option Octet} {v : Octet} (hpos : d.position < d.extent)
    (h : f d.position = some v) (hv : v ≠ 0) (hlow : v.toNat < 0x80) :
    d.begin f = .quiet { d with position := d.position + 1, inPlay := .silence (160 * v.toNat - 1) } := by
  have hzero : v.toNat ≠ 0 := fun h0 => hv (BitVec.eq_of_toNat_eq h0)
  rw [Decoder.begin, if_neg (Nat.not_le.mpr hpos), h]
  refine (if_neg ?_).trans ((if_pos (by omega)).trans ?_)
  · rintro (rfl | hhigh)
    · exact hv rfl
    · omega
  · rw [Decoder.hush, if_neg (by omega)]

/-- A VOICE tag with the extent short of its frame ends the item (R79). -/
theorem Decoder.begin_short {d : Decoder} {f : Nat → Option Octet} {v : Octet} (hpos : d.position < d.extent)
    (h : f d.position = some v) (hlow : 0x80 ≤ v.toNat) (hhigh : v.toNat < 0xA8) (hshort : d.extent < d.position + 83) :
    d.begin f = .ends := by
  rw [Decoder.begin, if_neg (Nat.not_le.mpr hpos), h]
  refine (if_neg ?_).trans ((if_neg (by omega)).trans (if_pos hshort))
  rintro (rfl | h0)
  · exact absurd hlow (by decide)
  · omega

/-- A VOICE tag with its frame whole in the extent begins by its header (R79). -/
theorem Decoder.begin_header {d : Decoder} {f : Nat → Option Octet} {v : Octet} (hpos : d.position + 83 ≤ d.extent)
    (h : f d.position = some v) (hlow : 0x80 ≤ v.toNat) (hhigh : v.toNat < 0xA8) {p1 p0 v' : Octet}
    (h1 : f (d.position + 1) = some p1) (h0 : f (d.position + 2) = some p0) (h3 : f (d.position + 3) = some v') :
    d.begin f = .voice { d with
      quant := ({ p := max (-8192) (min 8191 (fieldInt16 p1 p0)), i := v.toNat - 0x80 } : Quantiser).coded (v'.toNat / 16)
      position := d.position + 4, lastOctet := v', inPlay := .voice 159 } := by
  have hwhole : ¬ d.extent < d.position + Config.voiceOctets := Nat.not_lt.mpr hpos
  have hvoice : ¬(v = 0 ∨ 0xA8 ≤ v.toNat) := not_or.mpr ⟨by rintro rfl; exact absurd hlow (by decide), Nat.not_le.mpr hhigh⟩
  rw [Decoder.begin, if_neg (by omega), h]
  refine (if_neg hvoice).trans ((if_neg (by omega)).trans ((if_neg hwhole).trans ?_))
  simp only [h1, h0, h3, Decoder.sound, Quantiser.apply_eq, clampLinear_eq]
  rfl

/-- A VOICE header whose octets have not all arrived is waited for (log entry 16). -/
theorem Decoder.begin_header_wait {d : Decoder} {f : Nat → Option Octet} {v : Octet} (hpos : d.position + 83 ≤ d.extent)
    (h : f d.position = some v) (hlow : 0x80 ≤ v.toNat) (hhigh : v.toNat < 0xA8)
    (hwait : f (d.position + 1) = none ∨ f (d.position + 2) = none ∨ f (d.position + 3) = none) : d.begin f = .wait := by
  have hwhole : ¬ d.extent < d.position + Config.voiceOctets := Nat.not_lt.mpr hpos
  have hvoice : ¬(v = 0 ∨ 0xA8 ≤ v.toNat) := not_or.mpr ⟨by rintro rfl; exact absurd hlow (by decide), Nat.not_le.mpr hhigh⟩
  rw [Decoder.begin, if_neg (by omega), h]
  refine (if_neg hvoice).trans ((if_neg (by omega)).trans ((if_neg hwhole).trans ?_))
  rcases hwait with h1 | h2 | h3
  · rw [h1]
  · rw [h2]
    cases f (d.position + 1) <;> rfl
  · rw [h3]
    cases f (d.position + 1) <;> cases f (d.position + 2) <;> rfl

/-! ## The frame of a playing channel (R79, R80) -/

/-- `s` with the decoder of channel `c` moved on, the pages passed gone from its ring and its reads raised (R79, R90). -/
def State.decoded (c : ChannelIx) (d : Decoder) (s : State) : State :=
  { s with coder := { s.coder with decoders := s.coder.decoders.set c d }
           rings := s.rings.set c
             (Ring.raiseReads { s.ring c with items := (s.ring c).items.filter fun p => d.position < 512 * (p.index + 1) }) }

theorem boundFrame_play {c : ChannelIx} {s : State} (h : (s.chan c).state ≠ .record) (o : Octet) :
    boundFrame c o s = playFrame c s := by
  rw [boundFrame, if_neg h]

theorem playFrame_idle {c : ChannelIx} {s : State} (h : (s.ring c).item = none) : playFrame c s = (s.coder.quiet, s) := by
  rw [playFrame, h]
  rfl

section
variable {c : ChannelIx} {s : State} {d : Decoder} (hitem : (s.ring c).item ≠ none)
include hitem

theorem playFrame_wait (h : (s.decoder c).step (s.ring c).octet = .wait) : playFrame c s = (s.coder.quiet, s) := by
  rw [playFrame, Option.isNone_eq_false_iff.mpr (Option.isSome_iff_ne_none.mpr hitem), h]
  rfl

theorem playFrame_ends (h : (s.decoder c).step (s.ring c).octet = .ends) : playFrame c s = (s.coder.quiet, itemEnd c s) := by
  rw [playFrame, Option.isNone_eq_false_iff.mpr (Option.isSome_iff_ne_none.mpr hitem), h]
  rfl

theorem playFrame_quiet (h : (s.decoder c).step (s.ring c).octet = .quiet d) :
    playFrame c s = (s.coder.quiet, s.decoded c d) := by
  rw [playFrame, Option.isNone_eq_false_iff.mpr (Option.isSome_iff_ne_none.mpr hitem), h]
  rfl

theorem playFrame_voice (h : (s.decoder c).step (s.ring c).octet = .voice d) :
    playFrame c s = (recompand s.coder.expansion d.quant.p, s.decoded c d) := by
  rw [playFrame, Option.isNone_eq_false_iff.mpr (Option.isSome_iff_ne_none.mpr hitem), h]
  rfl

end

end Sys2Proof.Machine
end


section
-- The proofs are elaborated one after another: the waiting threads would take the memory that the check allows.
set_option Elab.async false
/-! SUPPORT. The end of an item (R45): the list that goes on, and each list that has emptied. -/

namespace Sys2Proof.Machine

theorem State.prompted.missing {z : State} (h : z.prompted) (i : PlayItem) : z.missing i = false := by
  cases i with
  | prompt id => exact Option.isNone_eq_false_iff.mpr (Option.isSome_iff_ne_none.mpr (h id))
  | message n => rfl

/-- A closing list whose first item is not missing starts on it (R61). -/
theorem State.closesWith_head {c : ChannelIx} {i : PlayItem} {z : State} (h : z.missing i = false) (rest : List PlayItem) :
    State.closesWith c (i :: rest) z =
      State.starts c i (z.withChan c { z.chan c with state := .closing, playList := i :: rest }) := by
  have hmissing : (z.withChan c { z.chan c with state := .closing }).missing i = false := h
  have hlist : (i :: rest).dropWhile z.missing ≠ [] := by
    rw [List.dropWhile_cons_of_neg (by rw [h]; exact Bool.false_ne_true)]
    exact List.cons_ne_nil _ _
  rw [State.closesWith]
  refine (if_pos hlist).trans ?_
  rw [State.plays_head hmissing, State.chan_withChan_same, State.withChan_withChan]

/-- A message made HEARD stands apart from the channels and the rings. -/
theorem State.madeHeard_stopped (n : Nat) (c : ChannelIx) (s : State) : (s.stopped c).madeHeard n = (s.madeHeard n).stopped c := by
  have hmessage : (s.stopped c).message n = s.message n := rfl
  rw [State.madeHeard, State.madeHeard, hmessage]
  cases s.message n with
  | none => rfl
  | some m =>
    dsimp only
    split <;> rfl

/-! ## The list goes on (R45) -/

theorem itemEnd_plays {c : ChannelIx} {s : State} (hlist : (s.chan c).playList.tail.dropWhile s.missing ≠ [])
    (hspace : s.prompted ∨ s.link.queue.length < 64) : itemEnd c s = State.plays c (s.chan c).playList.tail s := by
  have hmisses : ((s.chan c).playList.tail.head?).any s.missing = true → s.attention = 0 → s.link.queue.length < 64 := by
    rcases hspace with hprompted | hqueue
    · exact State.playRoom.misses (.inl hprompted) _
    · exact fun _ _ => hqueue
  rw [itemEnd, setList_plays hmisses]
  refine if_neg ?_
  rw [State.plays_playing, State.chan_playing, State.chan_withChan_same]
  exact hlist

/-! ## The list has emptied (R45) -/

section
variable {c : ChannelIx} {s : State}

theorem itemEnd_emptied (hlist : (s.chan c).playList.tail = []) : itemEnd c s = listEmptied c (s.stopped c) := by
  rw [itemEnd, hlist, setList_stopped, State.chan_stopped]
  exact if_pos rfl

theorem listEmptied_records {r : RoomIx} (hstate : (s.chan c).state = .greet) (hroom : (s.chan c).room = some r)
    (hspare : s.store.messages.length < 8192) (hserial : s.store.nextSerial ≠ 4294967295) :
    listEmptied c (s.stopped c) = s.records c r := by
  have hroom' : ((s.stopped c).chan c).room = some r := by rw [State.chan_stopped]; exact hroom
  rw [listEmptied, State.chan_stopped, hstate]
  exact (toneEnd_records hroom' (decide_eq_true ⟨hspare, hserial⟩)).trans (State.records_stopped c r s)

/-- No message can be created: the channel closes with STORE_FULL (R48). -/
theorem listEmptied_storeFull {r : RoomIx} (hstate : (s.chan c).state = .greet) (hroom : (s.chan c).room = some r)
    (hfull : 8192 ≤ s.store.messages.length ∨ s.store.nextSerial = 4294967295) (hprompted : s.prompted)
    (hqueue : s.link.queue.length < 64) :
    listEmptied c (s.stopped c) = State.starts c pStoreFull
      ((s.placed .storeFull).withChan c { s.chan c with state := .closing, playList := [pStoreFull, pGoodbye] }) := by
  have hroom' : ((s.stopped c).chan c).room = some r := by rw [State.chan_stopped]; exact hroom
  have hcreate : (s.stopped c).canCreate = false := decide_eq_false fun h => by
    rcases hfull with hfull | hfull
    · exact absurd h.1 (Nat.not_lt.mpr hfull)
    · exact h.2 hfull
  have hplaced : place .storeFull (s.stopped c) = (s.placed .storeFull).stopped c := by
    rw [place_eq_placed (s := s.stopped c) hqueue]
    rfl
  have hpromptedFull : (s.placed .storeFull).prompted := hprompted
  rw [listEmptied, State.chan_stopped, hstate]
  simp only [toneEnd, hroom', hcreate, Bool.false_eq_true, if_false]
  rw [hplaced, enterClosing_closesWith (s := (s.placed .storeFull).stopped c) (List.cons_ne_nil _ _) (.inl hprompted),
    State.closesWith_stopped, State.closesWith_head (hpromptedFull.missing _)]
  rfl

theorem listEmptied_announce {r : RoomIx} {found : Option Nat} {kept : Bool} (hstate : (s.chan c).state = .announce)
    (hroom : (s.chan c).room = some r) (hprompted : s.prompted)
    (hchoice : s.Chooses (s.chan c) (s.room r).mailbox found kept) :
    listEmptied c (s.stopped c) = s.goesOn c found kept := by
  have hroom' : ((s.stopped c).chan c).room = some r := by rw [State.chan_stopped]; exact hroom
  have hchoice' : (s.stopped c).Chooses ((s.stopped c).chan c) ((s.stopped c).room r).mailbox found kept := by
    rw [State.chan_stopped]
    exact hchoice
  rw [listEmptied, State.chan_stopped, hstate]
  exact (chooseNext_eq (s := s.stopped c) (.inl hprompted) hroom' hchoice').trans (State.goesOn_stopped c found kept s)

theorem listEmptied_replay {n : Nat} (hstate : (s.chan c).state = .replay) (hcurrent : (s.chan c).current = some n)
    (hprompted : s.prompted) (hblank : s.marksBlank) :
    listEmptied c (s.stopped c) = State.starts c pAfterMenu
      ((s.madeHeard n).withChan c { s.chan c with state := .listen, repeats := 0, playList := [pAfterMenu] }) := by
  obtain ⟨-, -, hchannels, hprompts, -⟩ := s.madeHeard_frame n
  have hchan : (s.madeHeard n).chan c = s.chan c := congrArg (fun v => v[c]) hchannels
  obtain ⟨y, hy⟩ : ∃ y, y = (s.madeHeard n).withChan c { s.chan c with state := .listen, repeats := 0 } := ⟨_, rfl⟩
  have hprompted' : y.prompted := by
    rw [hy]
    exact fun id => hprompts ▸ hprompted id
  have hmade : makeHeard n (s.stopped c) = (s.madeHeard n).stopped c :=
    (makeHeard_eq (s := s.stopped c) hblank n).trans (State.madeHeard_stopped n c s)
  have hlisten : State.updChan ((s.madeHeard n).stopped c) c (fun x => { x with state := .listen, repeats := 0 }) =
      y.stopped c := by
    rw [hy, ← hchan]
    exact State.stopped_withChan c (fun x => { x with state := .listen, repeats := 0 }) (fun _ => rfl) _
  have hmenu : setList c [pAfterMenu] (y.stopped c) = State.starts c pAfterMenu
      (y.withChan c { y.chan c with playList := [pAfterMenu] }) := by
    rw [setList_plays (State.playRoom.misses (s := y.stopped c) (.inl hprompted') _), State.plays_stopped,
      State.plays_head (hprompted'.missing _)]
  rw [listEmptied, State.chan_stopped, hstate]
  dsimp only
  rw [replayEnd, State.chan_stopped]
  simp only [hcurrent]
  rw [hmade, hlisten, playMenu, hmenu, State.chan_starts, State.chan_withChan_same]
  refine (if_neg (List.cons_ne_nil _ _)).trans ?_
  rw [hy, State.chan_withChan_same, State.withChan_withChan, ← hcurrent]

theorem listEmptied_listen {r : RoomIx} (hstate : (s.chan c).state = .listen) (hroom : (s.chan c).room = some r) :
    listEmptied c (s.stopped c) =
      (s.stopped c).withChan c { s.chan c with playList := [], timer := some (s.classOf r).menuTimeout } := by
  have hroom' : ((s.stopped c).chan c).room = some r := by rw [State.chan_stopped]; exact hroom
  rw [listEmptied, State.chan_stopped, hstate]
  dsimp only
  rw [startMenuTimer, hroom']
  dsimp only
  rw [State.updChan_eq, State.chan_stopped]
  rfl

theorem listEmptied_closing {k : Fin 126} (hstate : (s.chan c).state = .closing) (hslot : (s.chan c).slot = some k)
    (hreading : (s.chan c).reading = false) (hqueue : s.link.queue.length < 64) :
    listEmptied c (s.stopped c) = State.frees c
      { s with link := { s.link with queue := s.link.queue ++ [.slotDone (BitVec.ofNat 8 k.val) .completed] } } := by
  obtain ⟨z, hz⟩ : ∃ z : State, z =
    { s with link := { s.link with queue := s.link.queue ++ [.slotDone (BitVec.ofNat 8 k.val) .completed] } } := ⟨_, rfl⟩
  have hchan : z.chan c = s.chan c := by rw [hz]; rfl
  have hoffer : offerNotice (.slotDone (BitVec.ofNat 8 k.val) .completed) (s.stopped c) = z.stopped c := by
    rw [offerNotice_push (s := s.stopped c) hqueue, hz]
    rfl
  have hstopped : (z.stopped c).chan c = { s.chan c with playList := [] } := by rw [State.chan_stopped, hchan]
  have hring : (z.stopped c).ring c = (z.ring c).leave := z.ring_left c
  rw [listEmptied, State.chan_stopped, hstate]
  dsimp only
  rw [closingEnd, State.chan_stopped]
  simp only [hslot]
  rw [hoffer, ← hz, enterFree_eq (.inl (by rw [hstopped]; exact hreading)),
    State.frees_idle (by rw [hstopped]; exact hreading) (by rw [hstopped]; exact hslot),
    State.frees_idle (by rw [hchan]; exact hreading) (by rw [hchan]; exact hslot), hstopped, hring, Ring.leave_leave, hchan]
  simp only [State.stopped, State.left, State.withChan, Vector.set_set]

end

end Sys2Proof.Machine
end


section
-- The proofs are elaborated one after another: the waiting threads would take the memory that the check allows.
set_option Elab.async false
/-! SUPPORT. The bound slots of a highway frame, in slot order (R2), and what they record and play (R73, R79, R80). -/

namespace Sys2Proof.Machine

/-! ## The bound slots in order -/

/-- Slot `k` with the channel bound to it, if any. -/
def State.boundAt (s : State) (k : Fin 126) : Option (Fin 126 × ChannelIx) := (s.highway.bindings[k]).map fun c => (k, c)

/-- The state after the bound slots `l` of a frame. -/
def afterBound (hin : List Octet) (l : List (Fin 126 × ChannelIx)) (z : State) : State :=
  l.foldl (fun z b => (boundFrame b.2 (hin.getD b.1.val 0xFF) z).2) z

theorem State.boundAt_eq_some {s : State} {k j : Fin 126} {c : ChannelIx} :
    s.boundAt j = some (k, c) ↔ j = k ∧ s.highway.bindings[k] = some c := by
  rw [State.boundAt, Option.map_eq_some_iff]
  constructor
  · rintro ⟨c', hc', hpair⟩
    obtain ⟨rfl, rfl⟩ := Prod.mk.inj hpair
    exact ⟨rfl, hc'⟩
  · rintro ⟨rfl, hc⟩
    exact ⟨c, hc, rfl⟩

/-- Only the bound slots change the state. -/
theorem foldl_slotStep (s : State) (hin : List Octet) (l : List (Fin 126)) (z : State) :
    (l.map fun k => (s.slotUse k, hin.getD k.val 0xFF)).foldl slotStep z = afterBound hin (l.filterMap s.boundAt) z := by
  induction l generalizing z with
  | nil => rfl
  | cons k l ih =>
    rw [List.map_cons, List.foldl_cons, ih]
    cases hk : s.highway.bindings[k] with
    | none =>
      have hat : s.boundAt k = none := by rw [State.boundAt, hk]; rfl
      rw [State.slotUse_unbound hk, List.filterMap_cons_none hat]
      rfl
    | some c =>
      have hat : s.boundAt k = some (k, c) := State.boundAt_eq_some.mpr ⟨rfl, hk⟩
      rw [State.slotUse_bound hk, List.filterMap_cons_some hat]
      rfl

/-- The bound slots before one of them are those of the slots before it. -/
theorem State.boundAt_before {s : State} {before rest : List (Fin 126 × ChannelIx)} {k : Fin 126} {c : ChannelIx}
    (h : (List.finRange 126).filterMap s.boundAt = before ++ (k, c) :: rest) :
    s.highway.bindings[k] = some c ∧ ((List.finRange 126).take k.val).filterMap s.boundAt = before := by
  obtain ⟨l, l', hsplit, hbefore, hafter⟩ := List.filterMap_eq_append_iff.mp h
  obtain ⟨m, j, m', hsplit', hm, hj, -⟩ := List.filterMap_eq_cons_iff.mp hafter
  obtain ⟨rfl, hk⟩ := State.boundAt_eq_some.mp hj
  have hslots : List.finRange 126 = (l ++ m) ++ j :: m' := by rw [hsplit, hsplit', List.append_assoc]
  have hlength : (l ++ m).length = j.val := by
    have hlt : (l ++ m).length < (List.finRange 126).length := by rw [hslots, List.length_append (as := l ++ m)]; simp
    have hget : (List.finRange 126)[(l ++ m).length] = j := by
      simp only [hslots, List.getElem_append_right (Nat.le_refl _), Nat.sub_self, List.getElem_cons_zero]
    rw [List.getElem_finRange] at hget
    exact congrArg Fin.val hget
  have hnone : m.filterMap s.boundAt = [] := List.filterMap_eq_nil_iff.mpr hm
  rw [hslots, List.take_left' hlength, List.filterMap_append, hbefore, hnone, List.append_nil]
  exact ⟨hk, rfl⟩

/-- The octet of a bound slot. -/
theorem State.speech_bound {s : State} {hin : List Octet} {before rest : List (Fin 126 × ChannelIx)} {k : Fin 126}
    {c : ChannelIx} (h : (List.finRange 126).filterMap s.boundAt = before ++ (k, c) :: rest) :
    (s.speech hin)[k.val]? = some (boundFrame c (hin.getD k.val 0xFF) (afterBound hin before s.begun)).1 := by
  obtain ⟨hk, hbefore⟩ := State.boundAt_before h
  rw [State.speech_getElem, State.slotUse_bound hk, State.frameUses, ← List.map_take, foldl_slotStep, hbefore]
  rfl

/-- The state after the speech slots of a frame. -/
theorem State.spoken_bound (s : State) (hin : List Octet) :
    s.spoken hin = (afterBound hin ((List.finRange 126).filterMap s.boundAt) s.begun).drains := by
  rw [State.spoken, State.frameUses, foldl_slotStep]

/-! ## O44 -/

/-- A bound slot carries the silence code of the state it starts from (R79). -/
def CarriesQuiet (c : ChannelIx) (o : Octet) (s z : State) : Prop := ∃ v, v = s.coder.silence.getD 0xFF ∧ boundFrame c o s = (v, z)

theorem CarriesQuiet.of_play {c : ChannelIx} {o : Octet} {s z : State} (hstate : (s.chan c).state ≠ .record)
    (h : playFrame c s = (s.coder.quiet, z)) : CarriesQuiet c o s z :=
  ⟨_, rfl, (boundFrame_play hstate o).trans h⟩

/-- The encoder of a recording channel takes the octet's sample, and the slot carries the silence code (R72, R79). -/
theorem CarriesQuiet.of_record {c : ChannelIx} {o : Octet} {s : State} (hstate : (s.chan c).state = .record)
    (hitem : (s.ring c).item = none) :
    CarriesQuiet c o s (s.updEncoder c (Encoder.take s.coder.expansion[Fin.ofNat 256 o.toNat])) := by
  refine ⟨_, rfl, ?_⟩
  rw [boundFrame, if_pos hstate, Coder.linear_eq]
  exact playFrame_idle hitem

/-- A bound slot carries the nearest code of the decoder's predictor (R70, R79). -/
theorem boundFrame_speaks {c : ChannelIx} {o : Octet} {s : State} {d : Decoder} (hrange : CodersInRange s)
    (hstate : (s.chan c).state ≠ .record) (hitem : (s.ring c).item ≠ none)
    (hd : -8192 ≤ d.quant.p ∧ d.quant.p ≤ 8191) (h : (s.decoder c).step (s.ring c).octet = .voice d) :
    ∃ v, NearestCode s.coder.expansion d.quant.p v ∧ boundFrame c o s = (v, s.decoded c d) :=
  ⟨_, recompand_nearest hd hrange.2, (boundFrame_play hstate o).trans (playFrame_voice hitem h)⟩

end Sys2Proof.Machine
end


section
-- The proofs are elaborated one after another: the waiting threads would take the memory that the check allows.
set_option Elab.async false
/-! SUPPORT. What a bound slot records and plays, and the whole frame with its bound slots (R2, R73, R79, R80, R89). -/

namespace Sys2Proof.Machine

/-- The decoder ends its item: at the extent, at END or a reserved tag, or at a VOICE tag whose frame the extent cuts (R79). -/
theorem Decoder.step_ends {d : Decoder} {g : Ring}
    (h : (d.inPlay = .nothing ∧ (d.extent ≤ d.position ∨ ∃ v, g.Has d.position v ∧
        (v = 0 ∨ 0xA8 ≤ v.toNat ∨ (0x80 ≤ v.toNat ∧ v.toNat < 0xA8 ∧ d.extent < d.position + 83)))) ∨
      (d.extent ≤ d.position ∧ ∃ n, d.inPlay = .voice (n + 1) ∧ n % 2 = 1)) : d.step g.octet = .ends := by
  rcases h with ⟨hnothing, htag⟩ | ⟨hpos, n, hvoice, hodd⟩
  · rw [Decoder.step_begin hnothing]
    by_cases hpos : d.extent ≤ d.position
    · exact Decoder.begin_extent hpos _
    · obtain ⟨v, hv, hend⟩ := htag.resolve_left hpos
      have hlt : d.position < d.extent := Nat.not_le.mp hpos
      have hoctet : g.octet d.position = some v := Ring.octet_eq_some.mpr hv
      rcases hend with hzero | hreserved | ⟨hlow, hhigh, hshort⟩
      · exact Decoder.begin_end hlt hoctet (.inl hzero)
      · exact Decoder.begin_end hlt hoctet (.inr hreserved)
      · exact Decoder.begin_short hlt hoctet hlow hhigh hshort
  · exact Decoder.step_cut hvoice hodd hpos _

/-- A VOICE header waits for the first of its octets that has not arrived. -/
theorem Ring.header_missing {g : Ring} {pos : Nat}
    (h : ∀ v', ¬(∃ p1 p0, g.Has (pos + 1) p1 ∧ g.Has (pos + 2) p0 ∧ g.Has (pos + 3) v')) :
    g.octet (pos + 1) = none ∨ g.octet (pos + 2) = none ∨ g.octet (pos + 3) = none := by
  cases h1 : g.octet (pos + 1) with
  | none => exact .inl rfl
  | some p1 =>
    cases h2 : g.octet (pos + 2) with
    | none => exact .inr (.inl rfl)
    | some p0 =>
      refine .inr (.inr (Ring.octet_eq_none fun v' h3 => h v' ⟨p1, p0, ?_, ?_, h3⟩))
      · exact Ring.octet_eq_some.mp h1
      · exact Ring.octet_eq_some.mp h2

/-- Settles O44. -/
theorem boundSlotsRecordAndPlay : Obligations.BoundSlotsRecordAndPlay := by
  refine ⟨fun c o s hrange => ?slot, fun s hin hreset hpresent hlen => ?frame, fun g => ?reads⟩
  case slot =>
    intro x e g d quiet carries sample diff nibble sampled taking has moved speaks ending gone left
    refine ⟨fun hstate hitem => ⟨fun htaking => ?taken, fun hstopped => ?stopped⟩,
      fun hstate hitem => CarriesQuiet.of_play hstate (playFrame_idle hitem), fun hstate hitem => ?item⟩
    case taken =>
      have htake : e.take sample = sampled := Encoder.take_running htaking sample
      have hquiet := CarriesQuiet.of_record (o := o) hstate hitem
      rw [State.updEncoder, htake] at hquiet
      exact hquiet
    case stopped =>
      have htake : e.take sample = e := Encoder.take_stopped hstopped sample
      have hquiet := CarriesQuiet.of_record (o := o) hstate hitem
      rw [State.updEncoder_self htake] at hquiet
      exact hquiet
    case item =>
      have hwait (h : d.step g.octet = .wait) : carries (· = quiet) s := CarriesQuiet.of_play hstate (playFrame_wait hitem h)
      have hmoved (d' : Decoder) (h : d.step g.octet = .quiet d') : carries (· = quiet) (moved d') :=
        CarriesQuiet.of_play hstate (playFrame_quiet hitem h)
      have hspeaks (d' : Decoder) (n : Nat) (q : Quantiser) (hq : d'.quant = q.coded n) (h : d.step g.octet = .voice d') :
          speaks d' := boundFrame_speaks hrange hstate hitem (hq ▸ q.coded_range n) h
      have hends (hending : ending) (z : State) (hz : itemEnd c s = z) : carries (· = quiet) z :=
        CarriesQuiet.of_play hstate ((playFrame_ends hitem (Decoder.step_ends hending)).trans (congrArg (Prod.mk _) hz))
      refine ⟨fun n hplay => hmoved _ (Decoder.step_silence hplay _),
        fun n hplay heven => hspeaks _ _ d.quant rfl (Decoder.step_low hplay heven _),
        fun n hplay hodd hpos => ⟨fun v hv => ?high, fun hnone => ?highWait⟩,
        fun hplay hpos => ⟨fun hnone => ?tagWait, fun v hv hzero hlow => ?run, fun v hv hlow hhigh hwhole =>
          ⟨fun p1 p0 v' h1 h0 h3 => ?header, fun hnone => ?headerWait⟩⟩, fun hending => ⟨fun hlist hspace => ?goesOn, fun hlist =>
          ⟨fun r hgreet hroom hspare hserial => ?record, fun r hgreet hroom hfull hprompted hqueue => ?full,
            fun r found kept hannounce hroom hprompted hchoice => ?announce,
            fun n hreplay hcurrent hprompted hblank => ?replay, fun r hlisten hroom => ?listen,
            fun k hclosing hslot hreading hqueue => ?closing⟩⟩⟩
      case high =>
        refine hspeaks _ _ d.quant rfl ((Decoder.step_high hplay hodd hpos g.octet).trans ?_)
        rw [Ring.octet_eq_some.mpr hv]
        rfl
      case highWait =>
        refine hwait ((Decoder.step_high hplay hodd hpos g.octet).trans ?_)
        rw [Ring.octet_eq_none hnone]
        rfl
      case tagWait => exact hwait ((Decoder.step_begin hplay _).trans (Decoder.begin_wait hpos (Ring.octet_eq_none hnone)))
      case run =>
        exact hmoved _ ((Decoder.step_begin hplay _).trans
          (Decoder.begin_silence hpos (Ring.octet_eq_some.mpr hv) hzero hlow))
      case header =>
        intro q
        exact hspeaks _ _ q rfl ((Decoder.step_begin hplay _).trans
          (Decoder.begin_header hwhole (Ring.octet_eq_some.mpr hv) hlow hhigh (Ring.octet_eq_some.mpr h1)
            (Ring.octet_eq_some.mpr h0) (Ring.octet_eq_some.mpr h3)))
      case headerWait =>
        exact hwait ((Decoder.step_begin hplay _).trans
          (Decoder.begin_header_wait hwhole (Ring.octet_eq_some.mpr hv) hlow hhigh (Ring.header_missing hnone)))
      case goesOn => exact hends hending _ (itemEnd_plays hlist hspace)
      case record =>
        exact hends hending _ ((itemEnd_emptied hlist).trans (listEmptied_records hgreet hroom hspare hserial))
      case full =>
        exact hends hending _ ((itemEnd_emptied hlist).trans (listEmptied_storeFull hgreet hroom hfull hprompted hqueue))
      case announce =>
        exact hends hending _ ((itemEnd_emptied hlist).trans (listEmptied_announce hannounce hroom hprompted hchoice))
      case replay =>
        exact hends hending _ ((itemEnd_emptied hlist).trans (listEmptied_replay hreplay hcurrent hprompted hblank))
      case listen => exact hends hending _ ((itemEnd_emptied hlist).trans (listEmptied_listen hlisten hroom))
      case closing =>
        exact hends hending _ ((itemEnd_emptied hlist).trans (listEmptied_closing hclosing hslot hreading hqueue))
  case frame =>
    intro bound begun after spoken r126 taken126 heard sent r127 taken127 done
    have hspoken : s.spoken hin = spoken := State.spoken_bound s hin
    have hheard : takeSlot126 (hin.getD 126 0xFF) spoken = heard := rfl
    have hdone : (linkSlots hin (s.spoken hin)).2 = done := by
      rw [hspoken, linkSlots, hheard, slot127_snd]
      rfl
    refine ⟨_, exec_highwayFrame hreset hpresent, inbound_getElem hin, ?_, fun before k c rest hbound hk => ?_⟩
    · rw [hdone]
      rfl
    · have hspeech : (s.speech hin)[k.val]? = some (boundFrame c (hin.getD k.val 0xFF) (after before)).1 :=
        State.speech_bound hbound
      refine Eq.trans ?_ hspeech
      dsimp only
      rw [List.getElem?_take_of_lt hk, List.getElem?_append_left (by rw [State.speech_length]; exact k.isLt)]
  case reads =>
    intro one
    have hone (r : Ring) : r.raiseRead = one r := by
      have hdue := r.readDue_iff
      rw [Ring.outReads_eq] at hdue
      exact if_congr hdue rfl rfl
    rw [Ring.raiseReads, hone, hone]

end Sys2Proof.Machine
end
